-- ==== Sys2Proof/Word.lean ====
section
/-! DEFINITION. The plain word and index types of the UZ7630 model: bytes, axes, legs, latches, slots, and sets of axes. -/

namespace Sys2Proof

/-- A byte of a frame or of the store (R191). -/
abbrev Byte := BitVec 8
/-- A CAN identifier of 11 bits (R170). -/
abbrev CanId := BitVec 11
/-- One driven axis, A0..A6 (00_scope, section 4.4). -/
abbrev Axis := Fin 7
/-- One seat latch, L0..L3 (04, introduction). -/
abbrev LatchNo := Fin 4
/-- One half-bridge leg, H0..H10 (R46). -/
abbrev Leg := Fin 11
/-- One job slot; 14 is pad 2L's and 15 is pad 2R's (R92). -/
abbrev Slot := Fin 16
/-- One Cabin State page (R175). -/
abbrev PageNo := Fin 6
/-- One seat, S0..S6 (00_scope, section 4.5). -/
abbrev SeatNo := Fin 7
/-- A set of axes, bit n for An (R191). -/
abbrev AxisSet := BitVec 7

/-- The seven axes in ascending order. -/
def axes : List Axis := [0, 1, 2, 3, 4, 5, 6]
/-- The four latches in ascending order. -/
def latches : List LatchNo := [0, 1, 2, 3]
/-- The eleven legs in ascending order. -/
def legNos : List Leg := [0, 1, 2, 3, 4, 5, 6, 7, 8, 9, 10]
/-- The sixteen job slots in ascending order. -/
def slotNos : List Slot := [0, 1, 2, 3, 4, 5, 6, 7, 8, 9, 10, 11, 12, 13, 14, 15]
/-- The fourteen slots shared by the partners (R92). -/
def partnerSlots : List Slot := [0, 1, 2, 3, 4, 5, 6, 7, 8, 9, 10, 11, 12, 13]
/-- The six pages in ascending order. -/
def pageNos : List PageNo := [0, 1, 2, 3, 4, 5]
/-- The seven seats in ascending order. -/
def seatNos : List SeatNo := [0, 1, 2, 3, 4, 5, 6]

/-- Membership of an axis in a set of axes. -/
def AxisSet.has (m : AxisSet) (a : Axis) : Bool := m.getLsbD a.val
/-- The set with one axis. -/
def AxisSet.one (a : Axis) : AxisSet := 1#7 <<< a.val
/-- The axes of a set, in ascending order. -/
def AxisSet.list (m : AxisSet) : List Axis := axes.filter (fun a => AxisSet.has m a)
/-- The set of the axes of a list. -/
def AxisSet.ofList (l : List Axis) : AxisSet := l.foldl (fun m a => m ||| AxisSet.one a) 0#7

/-- clamp(x, a, b) of 00_scope, section 4.2. -/
def clamp (x lo hi : Int) : Int := max lo (min x hi)

/-- |a - b| for two counts. -/
def dist (a b : Nat) : Nat := (a - b) + (b - a)

end Sys2Proof
end

