-- ==== Sys2Proof/Syntax.lean ====
section
/-! DEFINITION. The commands the block takes: one constructor of Instr for each row of spec/opcode_table.json, with the values the event carries. -/

namespace Sys2Proof

/-- The four partner roles, in role order (R170, R174). -/
inductive Role where
  | body | tailgate | restraint | service
  deriving DecidableEq, Repr

/-- The two switch pads (R178). -/
inductive Pad where
  | left | right
  deriving DecidableEq, Repr

/-- The five buttons of a pad (R178). -/
inductive Button where
  | slideFwd | slideRear | backFold | backUp | access
  deriving DecidableEq, Repr

/-- The two kinds of data frame (R132, R133). -/
inductive DataKind where
  | vehicleCondition | occupancy
  deriving DecidableEq, Repr

/-- The raw level of a latch sensor switch: closed gives LOCKED, opened gives OPEN (R62). -/
inductive SwitchLevel where
  | closed | opened
  deriving DecidableEq, Repr

/-- What wakes a parked part (R167). -/
inductive WakeSource where
  | frame | padPress
  deriving DecidableEq, Repr

/-- The commands: request frames and data frames by their CAN identifier and content, the events of the part's own
sensing, and the ends of its timers and writes. Each constructor names the table row it stands for. -/
inductive Instr where
  /-- RUN_ARRANGEMENT (R114). -/
  | runArrangement (id : CanId) (tag : BitVec 4) (number : Byte)
  /-- HOLD_MOVE (R99, R100). -/
  | holdMove (id : CanId) (tag : BitVec 4) (axis : Byte) (dir : Byte)
  /-- RELEASE_MOVE (R101). -/
  | releaseMove (id : CanId) (tag : BitVec 4) (axis : Byte)
  /-- STOP_JOB (R106). -/
  | stopJob (id : CanId) (tag : BitVec 4) (target : Byte)
  /-- STOP_ALL (R107). -/
  | stopAll (id : CanId) (tag : BitVec 4)
  /-- CLEAR_FAULTS (R173). -/
  | clearFaults (id : CanId) (tag : BitVec 4) (set : Byte)
  /-- HOME_AXES (R151). -/
  | homeAxes (id : CanId) (tag : BitVec 4) (set : Byte)
  /-- TRIM_ADJUST (R156). -/
  | trimAdjust (id : CanId) (tag : BitVec 4) (axis : Byte) (code : Byte)
  /-- ENTER_SERVICE (R187). -/
  | enterService (id : CanId) (tag : BitVec 4)
  /-- LEAVE_SERVICE (R189). -/
  | leaveService (id : CanId) (tag : BitVec 4)
  /-- STORE_READ (R188). -/
  | storeRead (id : CanId) (tag : BitVec 4) (chunk : BitVec 16)
  /-- STORE_WRITE (R188). -/
  | storeWrite (id : CanId) (tag : BitVec 4) (chunk : BitVec 16) (b0 b1 b2 b3 : Byte)
  /-- SOFT_RESET (R173). -/
  | softReset (id : CanId) (tag : BitVec 4)
  /-- REQUEST_FRAME_OTHER: a frame on a request identifier that is too short or of no known kind (R193). -/
  | requestFrameOther (id : CanId) (data : List Byte)
  /-- FRAME_OTHER_ID: a frame on any other identifier, or a remote frame (R171). -/
  | frameOtherId (id : CanId) (remote : Bool) (data : List Byte)
  /-- VEHICLE_CONDITION: a data frame of the body controller (R132). -/
  | vehicleCondition (id : CanId) (data : List Byte)
  /-- OCCUPANCY: a data frame of the restraint controller (R133). -/
  | occupancy (id : CanId) (data : List Byte)
  /-- FRESHNESS_EXPIRY (R134). -/
  | freshnessExpiry (kind : DataKind)
  /-- HOLD_EXPIRY of the hold job in a slot (R101). -/
  | holdExpiry (slot : Slot)
  /-- CURRENT_SAMPLE: a sample falls due, with the own-leg current measured in 0.1 A (R23). -/
  | currentSample (axis : Axis) (tenths : Nat)
  /-- HALL_EDGE: an edge, with the time since the axis's edge before it in microseconds (R24, R34). -/
  | hallEdge (axis : Axis) (gapMicros : Nat)
  /-- HALL_TIMEOUT (R30). -/
  | hallTimeout (axis : Axis)
  /-- CURRENT_LIMIT_EVENT (R33). -/
  | currentLimitEvent (axis : Axis)
  /-- OFF_TIME_END, with the own-leg current then, for a sample that waited (R23, R33). -/
  | offTimeEnd (axis : Axis) (tenths : Nat)
  /-- COMMON_LEG_OVERCURRENT of a leg (R50). -/
  | commonLegOvercurrent (leg : Leg)
  /-- BRAKING_END (R28). -/
  | brakingEnd (axis : Axis)
  /-- DWELL_EXPIRY (R29). -/
  | dwellExpiry (axis : Axis)
  /-- MARKER_WRITE_COMPLETE (R168). -/
  | markerWriteComplete
  /-- RELEASE_FIRST_PULSE_END (R64). -/
  | releaseFirstPulseEnd (latch : LatchNo)
  /-- RELEASE_GAP_END (R64). -/
  | releaseGapEnd (latch : LatchNo)
  /-- RELEASE_RETRY_END (R64). -/
  | releaseRetryEnd (latch : LatchNo)
  /-- SOLENOID_HOLD_TIMEOUT (R65). -/
  | solenoidHoldTimeout (latch : LatchNo)
  /-- RELOCK_CHECK_EXPIRY (R68). -/
  | relockCheckExpiry (latch : LatchNo)
  /-- LATCH_DEBOUNCE: the raw level has held for 10 ms (R62). -/
  | latchDebounce (latch : LatchNo) (level : SwitchLevel)
  /-- DEFERRAL_TIMEOUT of a scene job's move, named by its axis (R123). -/
  | deferralTimeout (slot : Slot) (axis : Axis)
  /-- COOLING_STEP of an axis (R159). -/
  | coolingStep (axis : Axis)
  /-- SUPPLY_PAUSE: the supply has moved to this level, in millivolts (R163). -/
  | supplyPause (millivolts : Nat)
  /-- SUPPLY_RESUME: the supply has moved to this level, in millivolts (R164). -/
  | supplyResume (millivolts : Nat)
  /-- PAUSE_WINDOW_EXPIRY (R164). -/
  | pauseWindowExpiry
  /-- POWER_ON_RESET, with the supply level then (R169). -/
  | powerOnReset (millivolts : Nat)
  /-- FIRST_LOAD_END (R184). -/
  | firstLoadEnd
  /-- STORE_WRITE_COMPLETE (R188). -/
  | storeWriteComplete
  /-- SERVICE_TIMEOUT (R189). -/
  | serviceTimeout
  /-- SERVICE_DEFERRED_LEAVE (R189). -/
  | serviceDeferredLeave
  /-- PARK_ENTRY (R166). -/
  | parkEntry
  /-- PARK_WRITE_COMPLETE (R166). -/
  | parkWriteComplete
  /-- WAKE_EVENT (R167). -/
  | wakeEvent (source : WakeSource)
  /-- WAKING_END (R167). -/
  | wakingEnd
  /-- FRAME_SENT (R174). -/
  | frameSent
  /-- PAGE_DUE (R176). -/
  | pageDue (page : PageNo)
  /-- TX_ERROR (R177). -/
  | txError
  /-- BUS_OFF_REJOIN (R177). -/
  | busOffRejoin
  /-- PAD_BUTTON_PRESS: a debounced press (R179). -/
  | padButtonPress (pad : Pad) (button : Button)
  /-- PAD_BUTTON_RELEASE: a debounced release (R179). -/
  | padButtonRelease (pad : Pad) (button : Button)
  /-- PAD_STUCK: the stuck timer of a button exceeds 30 s (R180). -/
  | padStuck (pad : Pad) (button : Button)
  deriving DecidableEq, Repr

end Sys2Proof
end

