-- ==== Sys2Proof/Decode.lean ====
section
/-! DEFINITION. Words of commands. The opcode table gives no bits to any of its rows, so no word spells a command. -/

namespace Sys2Proof

/-- The command that a word spells: none, since no row of the table has bits (log 1). -/
def decodeTableWord (_nbits _w : Nat) : Option Instr := none

end Sys2Proof
end

