-- ==== Sys2Proof/Config.lean ====
section
/-! DEFINITION. What the part fixes in itself, and the values the manual leaves open (opaque, so that no proof can see them). -/

namespace Sys2Proof
namespace Config

/-- The greatest position (00_scope, section 4.2). -/
def maxPosition : Nat := 32767
/-- Bytes of the non-volatile store (12, introduction). -/
def storeBytes : Nat := 2048
/-- What a store byte that nothing has written reads as: the manual gives none (log 3, DESIGN CHOICE). -/
def unwrittenByte : Byte := 0#8

/-- Samples of blanking (R21). -/
def blankingSamples : Nat := 15
/-- A sample of 5 or more clears the low-current mark (R23). -/
def lowCurrentLimit : Nat := 5
/-- RUNNING samples a clean move needs (R39). -/
def cleanSamples : Nat := 20
/-- The off time of the current limit in microseconds, by off-time code (R33). -/
def offTimeMicros : Nat → Nat
  | 0 => 500 | 1 => 1000 | 2 => 2000 | _ => 4000
/-- Hold level of a solenoid, in per mille of full drive (R65). -/
def holdPerMille : Nat := 300
/-- Counts beyond the release window at which a solenoid hold ends (R65). -/
def holdClearance : Nat := 20
/-- Stray edges that demote an axis (R148). -/
def strayLimit : Nat := 4
/-- The slack of a homing drive's travel limit (R31). -/
def homingSlack : Nat := 2000

/-- Supply levels in millivolts (10.3). -/
def brownOutMv : Nat := 6000
def pauseLowMv : Nat := 9000
def resumeLowMv : Nat := 10000
def resumeHighMv : Nat := 17000
def pauseHighMv : Nat := 18000

/-- P0's speed limit, 3.0 km/h (R135). -/
def standstillSpeed : Nat := 30

/-- heat_limit and heat_resume while DRIVE is invalid (R160). -/
def defaultHeatLimit : Nat := 48000
def defaultHeatResume : Nat := 32000
/-- Rated life while DRIVE is invalid (R162). -/
def defaultRatedLife : Nat := 500
/-- The saturation value of a clean-move count (R162). -/
def maxMoves : Nat := 16777215

/-- How many pieces of work one event takes at most, far above what the part's sizes can raise (log 2). -/
def settleFuel : Nat := 4000

/-- FREE VALUE (log 4): the two detail bytes of an answer whose outcome has no detail, by request kind code and outcome code. -/
opaque absentDetail : Nat → Nat → BitVec 16

/-- FREE VALUE (log 5): the position a homing stop gives when the stored home reference lies above 32767. -/
opaque homeBeyondRange : Nat → Nat

/-- FREE VALUE (log 6): the draws that decide every order and choice the manual leaves open, by the number of draws made
before. -/
opaque openChoice : Nat → Nat

/-- FREE VALUE (log 43): the own-leg current in 0.1 A that a sample reads at the end of an off time which the idling block reaches by itself,
by the number of draws made before and the axis. -/
opaque resumeCurrent : Nat → Nat → Nat

end Config
end Sys2Proof
end

