-- ==== Sys2Proof/Machine/State.lean ====
section
/-! DEFINITION. The state of the UZ7630 as plain data, block by block (00_scope, section 2.1), and its values after reset. -/

namespace Sys2Proof
namespace Machine

/-! ## Names of states, outcomes and codes -/

/-- A timer: whether it runs, and the milliseconds it shows. A held timer is one that shows a value and does not run. -/
structure Timer where
  running : Bool
  ms : Nat
  deriving DecidableEq, Repr

/-- A stopped timer at 0. -/
def Timer.stopped : Timer := { running := false, ms := 0 }
/-- A timer started from 0. -/
def Timer.start : Timer := { running := true, ms := 0 }
/-- A timer that stops and keeps its value (R159, R180). -/
def Timer.hold (t : Timer) : Timer := { t with running := false }
/-- A timer that runs on from its value. -/
def Timer.resume (t : Timer) : Timer := { t with running := true }

/-- Outcome and refusal codes (R192, table 4 of 13). NONE is the absence of a code. -/
inductive Code where
  | done | stopped | holdLost | doneLimited | stalled | motorOpen | obstructed | overcurrent | hallFault | latchStuck
  | latchNotEngaged | lockedOut | hot | interlock | unverified | storeInvalid | blocked | supplyFault | homingFailed
  | paused | badArgument | notPermitted | mode | noSlot | quota | busy | notAllowed | atLimit | noJob
  | unknownArrangement
  deriving DecidableEq, Repr

/-- The motion states of a channel (section 2.2). -/
inductive Motion where
  | idle | releasing | starting | running | braking | dwell
  deriving DecidableEq, Repr

/-- The direction of a move (00_scope, section 4.3). -/
inductive Dir where
  | negative | positive
  deriving DecidableEq, Repr

/-- The kinds of move (table 2 of 02). -/
inductive MoveKind where
  | scene | hold | homing | backOff
  deriving DecidableEq, Repr

/-- The speed classes (R22). -/
inductive Speed where
  | normal | quiet | homing
  deriving DecidableEq, Repr

/-- Position validity (R145). -/
inductive Validity where
  | valid | unverified | unhomed
  deriving DecidableEq, Repr

/-- The debounced latch states (R62). -/
inductive LatchState where
  | locked | opened | unknown
  deriving DecidableEq, Repr

/-- Solenoid drive (table 1 of 04). -/
inductive Solenoid where
  | off | full | hold
  deriving DecidableEq, Repr

/-- The level at which a solenoid is driven, in per mille of full drive (R64, R65). -/
def Solenoid.perMille : Solenoid → Nat
  | .off => 0
  | .full => 1000
  | .hold => Config.holdPerMille

/-- Release step (table 1 of 04). -/
inductive ReleaseStep where
  | none | firstPulse | gap | retryPulse
  deriving DecidableEq, Repr

/-- The relock check (table 1 of 04). -/
inductive Relock where
  | none | pending | passed | failed
  deriving DecidableEq, Repr

/-- How the pause that ended a move with PAUSED has itself ended (R129, R154). -/
inductive PauseEnd where
  | resumed | expired
  deriving DecidableEq, Repr

/-- Seat-use states (section 1.3). -/
inductive SeatUse where
  | notManaged | unknown | moving | usable | stowed | folded | between
  deriving DecidableEq, Repr

/-! ## Axis Channels -/

/-- The move state of one channel (table 2 of 02), with the job and rank its grant carried (table 3 of 03) and the DRIVE
duties the grant fixed. -/
structure Move where
  kind : MoveKind
  dir : Dir
  target : Option Nat
  stop : Option Nat
  travel : Option Nat
  speed : Speed
  /-- The job the move's ends go to; none once that job is DONE or freed (R35, R112). -/
  job : Option Slot
  rank : Nat
  tolerance : Nat
  runDuty : Nat
  rampStep : Nat
  offCode : Nat
  /-- The obstruction threshold, computed at the grant (R32). -/
  threshold : Nat
  /-- The Hall timeout in milliseconds, fixed at the grant (R30, R42). -/
  timeoutMs : Nat
  duty : Nat
  samples : Nat
  runSamples : Nat
  runSum : Nat
  lowCurrent : Bool
  obstruction : Nat
  limitEvents : Nat
  edges : Nat
  /-- An edge has been counted in STARTING or RUNNING of this move (R34). -/
  drivenEdge : Bool
  brakePos : Nat
  /-- The final position p, taken at DWELL entry (R39). -/
  final : Nat
  pending : Option Code
  /-- The predicate number an INTERLOCK stop carries (R141). -/
  pendingPred : Option Nat
  endedAtStop : Bool
  /-- The leg is in a current-limit off time (R33). -/
  inOffTime : Bool
  /-- The time since the limit event, while the off time runs (R33). -/
  offTimer : Timer
  /-- A sample fell due in the off time and waits for its end (R23). -/
  sampleWaits : Bool
  /-- For a move ended by a pause: how that pause has ended, none while it is in force. -/
  pauseEnd : Option PauseEnd
  deriving DecidableEq, Repr

/-- One Axis Channel (tables 1 and 2 of 02) with the record fields it owns (table 1 of 01). -/
structure Channel where
  motion : Motion
  position : Nat
  lastDir : Dir
  stray : Nat
  ilr : Nat
  coast : Nat
  marginTrim : Nat
  timeoutTrim : Nat
  streak : Nat
  limitSeen : Bool
  stall : Bool
  obstruction : Bool
  overcurrent : Bool
  lockedOut : Bool
  lastOutcome : Option Code
  offTarget : Bool
  move : Option Move
  /-- The Hall timeout of R30. -/
  hallTimer : Timer
  /-- The 80 ms of R28 in BRAKING and the 150 ms of R29 in DWELL. -/
  restTimer : Timer
  deriving DecidableEq, Repr

/-! ## Latch Channels -/

/-- One Latch Channel (table 1 of 04). -/
structure Latch where
  state : LatchState
  sensorFault : Bool
  firstReading : Bool
  solenoid : Solenoid
  step : ReleaseStep
  /-- The release sequence's time from the grant (R64). -/
  stepTimer : Timer
  window : Option (Nat × Nat)
  solenoidTimer : Timer
  relock : Relock
  relockTimer : Timer
  /-- The job whose move opened the relock check. -/
  relockJob : Option Slot
  /-- The state held when a soft reset began, none outside a soft reset's first reading (R74). -/
  stateBefore : Option LatchState
  /-- Recovery and Homing still has to make its consistency check on this latch (R147). -/
  checkDue : Bool
  deriving DecidableEq, Repr

/-! ## Drive Arbiter -/

/-- A wait-list entry (table 4 of 03). -/
structure WaitEntry where
  axis : Axis
  slot : Slot
  rank : Nat
  arrival : Nat
  bypass : Nat
  kind : MoveKind
  dir : Dir
  speed : Speed
  target : Option Nat
  deriving DecidableEq, Repr

/-- A grant-table entry (table 3 of 03), with the waiting entry it was made for (to give it back, R168), the legs of
the map it was granted under, a dedicated pair's second leg among them (R61, R190), and whether it is held for the marker write (R168). -/
structure Grant where
  entry : WaitEntry
  target : Option Nat
  stop : Option Nat
  travel : Option Nat
  reservation : Nat
  commonLeg : Option Leg
  ownLeg : Leg
  secondLeg : Option Leg
  held : Bool
  deriving DecidableEq, Repr

/-- The Drive Arbiter: wait list, arrival counter, grant table, the condition of each common leg (none free and low,
some level set, R48) and the leg faults. reserved_total and each leg_sum are sums over the grant table (R52). -/
structure Arbiter where
  wait : List WaitEntry
  arrival : Nat
  grants : Vector (Option Grant) 7
  legs : Vector (Option Bool) 11
  legFault : Vector Bool 11
  deriving DecidableEq, Repr

/-! ## Job Manager, Scene Sequencer, Recovery and Homing -/

/-- Job states other than FREE; FREE is an empty slot (R93). -/
inductive JobState where
  | active | ending | done
  deriving DecidableEq, Repr

/-- Job classes (R95). -/
inductive JobClass where
  | attended | scene | service
  deriving DecidableEq, Repr

/-- Where a job came from (R94). -/
inductive Source where
  | partner (r : Role)
  | pad (p : Pad)
  deriving DecidableEq, Repr

/-- The request kind of a job (R94). -/
inductive JobKind where
  | hold | run | home
  deriving DecidableEq, Repr

/-- The nine states of a scene move (section 7.3). -/
inductive RowState where
  | pending | waiting | deferred | granted | backingOff | paused | ended | skipped | notRun
  deriving DecidableEq, Repr

/-- One row of a scene's per-move state list (R115), with the move it is for (R113). -/
structure Row where
  axis : Axis
  phase : Nat
  target : Nat
  speed : Speed
  state : RowState
  timer : Timer
  /-- The outcome, final position and on-target result of the move's last end (R120). -/
  lastEnd : Option Code
  lastPos : Option Nat
  onTarget : Option Bool
  deriving DecidableEq, Repr

/-- Scene progress (R115). -/
structure Scene where
  number : Nat
  rows : List Row
  phase : Option Nat
  backOffs : Nat
  deriving DecidableEq, Repr

/-- Where the homing of the axis in hand stands (R152, R153). -/
inductive HomingStage where
  | drive
  | backOff (target : Nat)
  | pausedDrive
  | pausedBackOff (target : Nat)
  | idle
  deriving DecidableEq, Repr

/-- A homing list in progress: the axes still to home, the one in hand first (R157), the axes this job made VALID, and
the axis in hand when the work ended (R155). -/
structure Homing where
  list : List Axis
  stage : HomingStage
  madeValid : AxisSet
  last : Option Axis
  deriving DecidableEq, Repr

/-- The job record (R94). -/
structure Job where
  state : JobState
  cls : JobClass
  source : Source
  tag : BitVec 4
  kind : JobKind
  button : Option Button
  axis : Option Axis
  dir : Option Dir
  claimed : AxisSet
  scene : Option Scene
  homing : Option Homing
  /-- The decisive outcome, none while undecided (R103). -/
  outcome : Option Code
  failing : Option Axis
  /-- With the outcome: the predicate of INTERLOCK, or the axis of BLOCKED (R103, R124). -/
  aux : Option Nat
  detail : BitVec 16
  offTarget : AxisSet
  holdTimer : Timer
  /-- The running block has reported that it will place no further move (R110). -/
  finished : Bool
  /-- A hold job whose pause has not yet ended (R102). -/
  waitsPause : Bool
  deriving DecidableEq, Repr

/-- An answer in a pending-refusal slot (R98, R174). -/
structure Answer where
  kind : Byte
  tag : BitVec 4
  code : Code
  failing : Option Axis
  detail : BitVec 16
  /-- For STORE_READ with DONE: the chunk number and its four bytes (R192). -/
  read : Option (Nat × List Byte)
  overrun : Bool
  /-- The answer is the one in the transmit buffer. -/
  loaded : Bool
  /-- It replaced the answer in transmission (R174). -/
  replaced : Bool
  deriving DecidableEq, Repr

/-- The Job Manager: slots, class lists, done list, claim table, pending-refusal slots, last pad outcomes. The count of
a partner is the number of its slots (R92). -/
structure JobManager where
  slots : Vector (Option Job) 16
  attended : List Slot
  scenes : List Slot
  services : List Slot
  doneList : List Slot
  claims : Vector (Option Slot) 7
  answers : Vector (Option Answer) 4
  lastPad : Vector (Option Code) 2
  deriving DecidableEq, Repr

/-! ## Interlock Unit -/

/-- Gear (R132). -/
inductive Gear where
  | p | r | n | d | unknown
  deriving DecidableEq, Repr

/-- Power mode (R132). -/
inductive PowerMode where
  | off | accessory | run | unknown
  deriving DecidableEq, Repr

/-- A door or the tailgate (R132). -/
inductive Door where
  | closed | opened | unknown
  deriving DecidableEq, Repr

/-- An Occupancy field (R133). -/
inductive Tri where
  | no | yes | unknown
  deriving DecidableEq, Repr

/-- The Vehicle Condition held (R132); speed none is INVALID. -/
structure Vehicle where
  speed : Option Nat
  gear : Gear
  power : PowerMode
  rearLeft : Door
  rearRight : Door
  tailgate : Door
  deriving DecidableEq, Repr

/-- One seat's Occupancy (R133). -/
structure Occupant where
  occupied : Tri
  childSeat : Tri
  deriving DecidableEq, Repr

/-- The Interlock Unit (R132 to R134). seats holds S2..S6. -/
structure Interlock where
  vehicle : Vehicle
  vehicleFresh : Bool
  vehicleTimer : Timer
  seats : Vector Occupant 5
  occupancyFresh : Bool
  occupancyTimer : Timer
  deriving DecidableEq, Repr

/-! ## Thermal and Wear Monitor, Supply and Power Controller -/

/-- Heat and wear of one axis (table 1 of 10). The heat and wear bytes are computed from these (R161, R162). -/
structure Thermal where
  heat : Nat
  cooling : Timer
  hot : Bool
  estimated : Bool
  moves : Nat
  deriving DecidableEq, Repr

/-- Supply conditions (10.3). -/
inductive SupplyCond where
  | normal | pausedWindow | pausedExpired
  deriving DecidableEq, Repr

/-- Power states (10.4). -/
inductive PowerState where
  | active | waking | park
  deriving DecidableEq, Repr

/-- The Supply and Power Controller (10.3, 10.4). -/
structure Supply where
  cond : SupplyCond
  window : Timer
  power : PowerState
  /-- The 40 ms of WAKING (R167). -/
  waking : Timer
  /-- WAKING's 40 ms have ended before the first load has (R169). -/
  wakingOver : Bool
  parkQuiet : Timer
  wakePending : Bool
  /-- The clean-park marker as last written or loaded. -/
  marker : Bool
  deriving DecidableEq, Repr

/-! ## Store Controller -/

/-- The side of an axis (R137). -/
inductive AxisSide where
  | left | right | both
  deriving DecidableEq, Repr

/-- One axis record of the DRIVE working copy (table 11 of 13). -/
structure DriveAxis where
  common : Bool
  sense : Bool
  side : AxisSide
  homingDir : Dir
  leg1 : Leg
  leg2 : Leg
  attended : BitVec 5
  automatic : BitVec 5
  startRes : Nat
  runRes : Nat
  startDuty : Nat
  rampStep : Nat
  normalDuty : Nat
  quietDuty : Nat
  homingDuty : Nat
  tolerance : Nat
  offCode : Nat
  defaultIlr : Nat
  defaultCoast : Nat
  backOff : Nat
  softLo : Nat
  softHi : Nat
  upright : Nat × Nat
  folded : Nat × Nat
  homeRef : Nat
  ratedLife : Nat
  deriving DecidableEq, Repr

/-- The DRIVE working copy (table 11 of 13). -/
structure DriveCopy where
  axis : Vector DriveAxis 7
  bTotal : Nat
  heatLimit : Nat
  heatResume : Nat
  homingOrder : List Axis
  lMax : Vector Nat 11
  deriving DecidableEq, Repr

/-- A clearance rule (R76). -/
structure Clearance where
  axisA : Axis
  zoneA : Nat × Nat
  axisB : Axis
  zoneB : Nat × Nat
  guard : Nat
  deriving DecidableEq, Repr

/-- A term of a condition list (R10). -/
structure Term where
  axis : Axis
  lo : Nat
  hi : Nat
  deriving DecidableEq, Repr

/-- A seat definition (R10). -/
structure SeatDef where
  axes : AxisSet
  usable : List Term
  folded : List Term
  stowed : List Term
  deriving DecidableEq, Repr

/-- The SEATS working copy: S2..S6 and the flat-floor set, bit n for Sn (R10). -/
structure SeatsCopy where
  seat : Vector (Option SeatDef) 5
  flatFloor : BitVec 7
  deriving DecidableEq, Repr

/-- A move of an arrangement (R113). -/
structure ArrMove where
  axis : Axis
  phase : Nat
  target : Nat
  quiet : Bool
  deriving DecidableEq, Repr

/-- A valid arrangement (R113): the name's characters and LAST are held and not used. -/
structure Arrangement where
  number : Nat
  name : List Byte
  parkRequired : Bool
  rearAccess : Bool
  autoHome : Bool
  cargo : Bool
  quiet : Bool
  last : Bool
  moves : List ArrMove
  deriving DecidableEq, Repr

/-- The partner identifier table (R170): request and result identifiers in role order. -/
structure PartnerTable where
  request : Vector CanId 4
  result : Vector CanId 4
  vehicle : CanId
  occupancy : CanId
  base : CanId
  access : Vector Nat 2
  back : Vector Nat 2
  deriving DecidableEq, Repr

/-- One axis of the LEARNED working copy (table 16 of 13). -/
structure LearnedAxis where
  position : Nat
  validity : Nat
  ilr : Nat
  coast : Nat
  marginTrim : Nat
  timeoutTrim : Nat
  heat : Nat
  moves : Nat
  deriving DecidableEq, Repr

/-- The LEARNED working copy (table 16 of 13). -/
structure LearnedCopy where
  axis : Vector LearnedAxis 7
  marker : Bool
  deriving DecidableEq, Repr

/-- The six areas, in the order of their type numbers 1..6 (table 10 of 13). -/
inductive Area where
  | drive | rules | seats | arrangements | partners | learned
  deriving DecidableEq, Repr

/-- The load report (R186). -/
structure LoadReport where
  valid : BitVec 6
  clampedTargets : BitVec 16
  clampedDuties : AxisSet
  skipped : BitVec 16
  deriving DecidableEq, Repr

/-- A write to the store in progress (table 1 of 12): its byte writes in the order in which they are made. -/
inductive WriteKind where
  | service | park | marker
  deriving DecidableEq, Repr

structure StoreWrite where
  kind : WriteKind
  bytes : List (Nat × Byte)
  /-- The tag of the STORE_WRITE request, to be answered at the completion (R188). -/
  tag : BitVec 4
  /-- The time since the write began (R166, R168, R188). -/
  timer : Timer
  deriving DecidableEq, Repr

/-- The Store Controller: the store's 2048 bytes as a list in canonical form, the working copies (none: invalid), the
LEARNED area as the directory of the last load gives it (offset and length in bytes; none: header invalid), the load
report, Service Mode, the write in progress. -/
structure StoreCtl where
  memory : List Host.Cell
  loaded : Bool
  drive : Option DriveCopy
  rules : Option (List Clearance)
  seats : Option SeatsCopy
  arrangements : Option (List Arrangement)
  partners : Option PartnerTable
  learned : Option LearnedCopy
  learnedArea : Option (Nat × Nat)
  report : LoadReport
  service : Bool
  serviceTimer : Timer
  leavePending : Bool
  write : Option StoreWrite
  /-- A marker write that waits for a service write to complete (R188). -/
  markerQueued : Bool
  /-- A SOFT_RESET that waits for the write in progress, with its tag (R190). -/
  resetQueued : Option (BitVec 4)
  deriving DecidableEq, Repr

/-! ## Network Port and Pad Scanner -/

/-- What the transmit buffer's frame is a copy of (R174). -/
inductive TxSource where
  | answer (r : Role)
  | result (s : Slot)
  | page (p : PageNo)
  | row (p : PageNo) (a : Axis)
  deriving DecidableEq, Repr

/-- The frame in the transmit buffer (R174). -/
structure TxFrame where
  id : CanId
  data : List Byte
  source : TxSource
  deriving DecidableEq, Repr

/-- One Cabin State page: buffer (without the sequence nibble), count, change-pending mark, due to send, send timer
(R175, R176). The buffer of pages 4 and 5 is the seven rows' content. -/
structure Page where
  buffer : List Byte
  seq : BitVec 4
  changed : Bool
  due : Bool
  timer : Timer
  deriving DecidableEq, Repr

/-- The Network Port (table of 11). -/
structure Port where
  tx : Option TxFrame
  errors : Nat
  busOff : Bool
  busOffTimer : Timer
  pages : Vector Page 6
  /-- Rows of page 4 or 5 still to be loaded, the next first (R194). -/
  rows : List (PageNo × Axis)
  deriving DecidableEq, Repr

/-- The condition of a pad (R179). -/
inductive PadCond where
  | free
  | engaged (b : Button)
  | waiting
  | stuck (b : Button)
  deriving DecidableEq, Repr

/-- One pad: its condition and its debounced pressed buttons, the earliest first, with their stuck timers (R179, R180). -/
structure PadState where
  cond : PadCond
  pressed : List (Button × Timer)
  deriving DecidableEq, Repr

/-! ## Work raised inside one event -/

/-- A move end handed to the job that owns the move (R39, R60). -/
structure MoveEnd where
  axis : Axis
  slot : Slot
  kind : MoveKind
  code : Code
  pred : Option Nat
  position : Nat
  onTarget : Bool
  pauseEnd : Option PauseEnd
  deriving DecidableEq, Repr

/-- Why the Drive Arbiter took an entry off its list without granting it (R56, R58). -/
inductive Removal where
  | terminal (code : Code) (pred : Option Nat)
  | deferred
  | limited
  | madeWithoutMotion
  deriving DecidableEq, Repr

/-- What an axis's own leg or legs do (R28, R48): off; held at the common leg's level, or both legs of a pair held low; switched
against the common leg at a duty; or, for a dedicated pair, driven with one leg high and the other low at a duty. -/
inductive OwnLeg where
  | off
  | held (leg : Leg) (second : Option Leg) (high : Bool)
  | switched (leg : Leg) (against : Bool) (duty : Nat)
  | pair (high low : Leg) (duty : Nat)
  deriving DecidableEq, Repr

/-- What the Drive Arbiter decides for an entry that no terminal test removes (R57, R58). -/
inductive Decision where
  | wait
  | remove (why : Removal)
  | grant (target stop travel : Option Nat)
  deriving DecidableEq, Repr

/-- The pieces of work that one event hands from block to block before it is over (log 2). -/
inductive Task where
  | scan
  | moveEnd (e : MoveEnd)
  | removed (e : WaitEntry) (why : Removal)
  | relock (a : Axis) (slot : Slot) (passed : Bool)
  | retest
  | retestRows (slot : Slot) (rows : List Axis)
  | phaseRows (slot : Slot) (rows : List Axis)
  | phaseCheck (slot : Slot)
  | blockedTest (slot : Slot)
  | homeNext (slot : Slot)
  | resumeRows (slot : Slot) (rows : List Axis)
  | resumeHoming (slot : Slot)
  | doneCheck (slot : Slot)
  | padEntry (p : Pad)
  deriving DecidableEq, Repr

/-! ## The whole state -/

/-- The state of the part. pending is the queue of commands that wait; raised and picks are the model's own fields
(log 2 and log 6). -/
structure State where
  ac : Vector Channel 7
  lc : Vector Latch 4
  da : Arbiter
  jm : JobManager
  iu : Interlock
  /-- Recovery and Homing's validity of each axis (R145). -/
  validity : Vector Validity 7
  tw : Vector Thermal 7
  sp : Supply
  st : StoreCtl
  np : Port
  ps : Vector PadState 2
  /-- The model's own: how many picks have been drawn for the orders the manual leaves open (log 6). -/
  picks : Nat
  /-- The model's own: work an event has raised and not yet done, empty between events (log 2). -/
  raised : List Task
  pending : List Instr
  deriving DecidableEq, Repr

/-- Faults: the model has none, since every command of this block has an effect the manual gives (possibly no change).
The type is closed and empty; nobody raises it. -/
inductive Fault where
  deriving DecidableEq, Repr

/-- Refusals of the model itself. -/
inductive Refusal where
  /-- Raised by exec alone, for a table row that has no meaning yet. Safe: the model stops where the part goes on. -/
  | notModelled (mnemonic : String)
  deriving DecidableEq, Repr

/-! ## Values after a power-on reset -/

/-- A channel after a power-on reset, before the first load (R18, R43). -/
def Channel.reset : Channel where
  motion := .idle
  position := 0
  lastDir := .positive
  stray := 0
  ilr := 50
  coast := 20
  marginTrim := 6
  timeoutTrim := 5
  streak := 0
  limitSeen := false
  stall := false
  obstruction := false
  overcurrent := false
  lockedOut := false
  lastOutcome := none
  offTarget := false
  move := none
  hallTimer := .stopped
  restTimer := .stopped

/-- A Latch Channel after a power-on reset (R73). -/
def Latch.reset : Latch where
  state := .unknown
  sensorFault := false
  firstReading := true
  solenoid := .off
  step := .none
  stepTimer := .stopped
  window := none
  solenoidTimer := .stopped
  relock := .none
  relockTimer := .stopped
  relockJob := none
  stateBefore := none
  checkDue := false

/-- The Drive Arbiter after a power-on reset (R61). -/
def Arbiter.reset : Arbiter where
  wait := []
  arrival := 0
  grants := Vector.replicate 7 none
  legs := Vector.replicate 11 none
  legFault := Vector.replicate 11 false

/-- The Job Manager after a power-on reset (R112). -/
def JobManager.reset : JobManager where
  slots := Vector.replicate 16 none
  attended := []
  scenes := []
  services := []
  doneList := []
  claims := Vector.replicate 7 none
  answers := Vector.replicate 4 none
  lastPad := Vector.replicate 2 none

/-- The Vehicle Condition content after a reset (R144). -/
def Vehicle.unknown : Vehicle where
  speed := none
  gear := .unknown
  power := .unknown
  rearLeft := .unknown
  rearRight := .unknown
  tailgate := .unknown

/-- The Interlock Unit after each reset and at the start of WAKING (R144). -/
def Interlock.reset : Interlock where
  vehicle := .unknown
  vehicleFresh := false
  vehicleTimer := .stopped
  seats := Vector.replicate 5 { occupied := .unknown, childSeat := .unknown }
  occupancyFresh := false
  occupancyTimer := .stopped

/-- Heat and wear after a power-on reset, before the first load: the values of a load that finds no LEARNED area, for
which R169 gives H at the default heat_resume, ESTIMATED set and a count of 0 (log 7); the cooling timer runs (R159). -/
def Thermal.reset : Thermal where
  heat := Config.defaultHeatResume
  cooling := .start
  hot := false
  estimated := true
  moves := 0

/-- The Supply and Power Controller after a power-on reset with the supply in its band (R169). -/
def Supply.reset : Supply where
  cond := .normal
  window := .stopped
  power := .waking
  waking := .start
  wakingOver := false
  parkQuiet := .stopped
  wakePending := false
  marker := false

/-- An empty load report: every area counts as invalid (R184). -/
def LoadReport.empty : LoadReport where
  valid := 0#6
  clampedTargets := 0#16
  clampedDuties := 0#7
  skipped := 0#16

/-- The Store Controller after a power-on reset over a given store content (R190). While DRIVE is invalid it holds no bridge map (R47), and no
budget figures with it, though R184 names defaults for them (log 44). -/
def StoreCtl.reset (memory : List Host.Cell) : StoreCtl where
  memory := memory
  loaded := false
  drive := none
  rules := none
  seats := none
  arrangements := none
  partners := none
  learned := none
  learnedArea := none
  report := .empty
  service := false
  serviceTimer := .stopped
  leavePending := false
  write := none
  markerQueued := false
  resetQueued := none

/-- A page right after a power-on reset with a given content: count 0, mark clear, due at once (R176, R182). -/
def Page.reset (content : List Byte) : Page where
  buffer := content
  seq := 0#4
  changed := false
  due := true
  timer := .start

/-- What the six page buffers hold right after a power-on reset: the page contents of R18, R143, R186 and R112 in the
layout of tables 7 to 9 of 13. The test file shows that they are the contents computed from the reset state. -/
def Page.resetContents : Vector (List Byte) 6 :=
  #v[[1#8, 0#8, 4#8, 146#8, 64#8, 0#8, 255#8, 255#8],
     [0#8, 255#8, 255#8, 255#8, 255#8, 255#8, 255#8, 42#8],
     [0#8, 255#8, 255#8, 255#8, 255#8, 255#8, 255#8, 42#8],
     [2#8, 255#8, 255#8, 170#8, 0#8, 0#8, 0#8, 0#8],
     (List.replicate 7 [0#8, 255#8, 0#8]).flatten,
     (List.replicate 7 [66#8, 1#8, 0#8]).flatten]

/-- The Network Port after a power-on reset (R182). -/
def Port.reset : Port where
  tx := none
  errors := 0
  busOff := false
  busOffTimer := .stopped
  pages := Page.resetContents.map Page.reset
  rows := []

/-- A pad after a power-on reset (R182). -/
def PadState.reset : PadState where
  cond := .free
  pressed := []

/-- The part right after a power-on reset over a given store, with the supply in its band. -/
def State.afterPowerOn (memory : List Host.Cell) (picks : Nat) (pending : List Instr) : State where
  ac := Vector.replicate 7 .reset
  lc := Vector.replicate 4 .reset
  da := .reset
  jm := .reset
  iu := .reset
  validity := Vector.replicate 7 .unhomed
  tw := Vector.replicate 7 .reset
  sp := .reset
  st := .reset memory
  np := .reset
  ps := Vector.replicate 2 .reset
  picks := picks
  raised := []
  pending := pending

/-- The machine right after reset: a power-on reset over a store that nothing has written, with an empty queue. -/
def State.reset : State := State.afterPowerOn [] 0 []

end Machine
end Sys2Proof
end

