-- ==== Sys2Proof/Machine/Memory.lean ====
section
/-! DEFINITION. The non-volatile store: 2048 bytes held as a list of cells in one canonical form, and its reads and writes. -/

namespace Sys2Proof
namespace Machine

/-- The canonical form of the store from a lowest admitted address on: addresses strictly rising and below 2048, and no
entry equal to what an unlisted address reads as. -/
def Memory.wfFrom : Nat → List Host.Cell → Bool
  | _, [] => true
  | lo, (a, b) :: rest => decide (lo ≤ a) && decide (a < Config.storeBytes) && decide (b ≠ Config.unwrittenByte) && Memory.wfFrom (a + 1) rest

/-- The store is in its canonical form. -/
def Memory.wf (m : List Host.Cell) : Bool := Memory.wfFrom 0 m

/-- The byte at an address (12, introduction); an unlisted one reads as Config.unwrittenByte (log 3). -/
def memRead : List Host.Cell → Nat → Byte
  | [], _ => Config.unwrittenByte
  | (k, v) :: rest, a => if k = a then v else memRead rest a

/-- Put a byte at an address, keeping the canonical form. -/
def memPut : List Host.Cell → Nat → Byte → List Host.Cell
  | [], a, b => if b = Config.unwrittenByte then [] else [(a, b)]
  | (k, v) :: rest, a, b =>
    if a < k then (if b = Config.unwrittenByte then (k, v) :: rest else (a, b) :: (k, v) :: rest)
    else if a = k then (if b = Config.unwrittenByte then rest else (k, b) :: rest)
    else (k, v) :: memPut rest a b

/-- Write one byte; the store ends at byte 2047 and nothing lies beyond it. -/
def memWrite (m : List Host.Cell) (a : Nat) (b : Byte) : List Host.Cell :=
  if a < Config.storeBytes then memPut m a b else m

/-- Write bytes one after another. -/
def memWriteAll (m : List Host.Cell) : List (Nat × Byte) → List Host.Cell
  | [] => m
  | (a, b) :: rest => memWriteAll (memWrite m a b) rest

/-- The n bytes of the store from address a on, read in one walk of a canonical list. -/
def memBytes : Nat → Nat → List Host.Cell → List Byte
  | 0, _, _ => []
  | n + 1, a, [] => Config.unwrittenByte :: memBytes n (a + 1) []
  | n + 1, a, (k, v) :: rest =>
    if k = a then v :: memBytes n (a + 1) rest else Config.unwrittenByte :: memBytes n (a + 1) ((k, v) :: rest)

/-- The four bytes of chunk n, bytes 4n to 4n + 3 (12, introduction). -/
def chunkBytes (m : List Host.Cell) (n : Nat) : List Byte :=
  [memRead m (4 * n), memRead m (4 * n + 1), memRead m (4 * n + 2), memRead m (4 * n + 3)]

/-- The number a byte of a list stands for; 0 beyond its end. -/
def byteAt (bs : List Byte) (i : Nat) : Nat := (bs.getD i 0#8).toNat

/-- A two-byte field, most significant byte first (R191). -/
def wordAt (bs : List Byte) (i : Nat) : Nat := byteAt bs i * 256 + byteAt bs (i + 1)

/-- A three-byte field, most significant byte first (R191). -/
def tripleAt (bs : List Byte) (i : Nat) : Nat := wordAt bs i * 256 + byteAt bs (i + 2)

/-- The sum of bytes modulo 256 (R183, R184). -/
def byteSum (bs : List Byte) : Byte := bs.foldl (· + ·) 0#8

/-- A bit of a number that holds a byte. -/
def bitOf (n i : Nat) : Bool := n.testBit i

/-- The two bytes of a number, most significant first (R191). -/
def wordBytes (n : Nat) : List Byte := [BitVec.ofNat 8 (n / 256), BitVec.ofNat 8 n]

/-- The three bytes of a number, most significant first (R191). -/
def tripleBytes (n : Nat) : List Byte := [BitVec.ofNat 8 (n / 65536), BitVec.ofNat 8 (n / 256), BitVec.ofNat 8 n]

end Machine
end Sys2Proof
end

