-- ==== Sys2Proof/Machine/Load.lean ====
section
/-! DEFINITION. A load of the store (R183 to R186): the header, the content conditions of each area, the working copies
and the load report. -/

namespace Sys2Proof
namespace Machine

/-! ## Header (R183) -/

/-- One directory entry: type, offset and length in 16-byte units. -/
def directoryEntry (bs : List Byte) (k : Nat) : Nat × Nat × Nat :=
  (byteAt bs (4 + 4 * k), byteAt bs (5 + 4 * k), byteAt bs (6 + 4 * k))

/-- The six directory entries. -/
def directory (bs : List Byte) : List (Nat × Nat × Nat) := [0, 1, 2, 3, 4, 5].map (directoryEntry bs)

/-- Two areas share no byte. -/
def areasApart (x y : Nat × Nat × Nat) : Bool :=
  decide (x.2.1 + x.2.2 ≤ y.2.1) || decide (y.2.1 + y.2.2 ≤ x.2.1)

/-- Every two entries of a list are related. -/
def allPairs {α : Type} (r : α → α → Bool) : List α → Bool
  | [] => true
  | x :: rest => rest.all (r x) && allPairs r rest

/-- The header is valid (R183). bs is the whole store. -/
def headerValid (bs : List Byte) : Bool :=
  byteAt bs 0 == 0x55 && byteAt bs 1 == 0x5A && byteAt bs 2 == 1 && byteAt bs 3 == 6
    && [1, 2, 3, 4, 5, 6].all (fun t => ((directory bs).filter (fun e => e.1 == t)).length == 1)
    && (directory bs).all (fun e => decide (1 ≤ e.2.2) && decide (2 ≤ e.2.1) && decide (e.2.1 + e.2.2 ≤ 128))
    && allPairs areasApart (directory bs)
    && byteSum (bs.take 32) == 0#8

/-- The type number of an area (table 10 of 13). -/
def Area.code : Area → Nat
  | .drive => 1 | .rules => 2 | .seats => 3 | .arrangements => 4 | .partners => 5 | .learned => 6

/-- Offset and length in bytes of an area, as a valid header's directory gives them. -/
def areaPlace (bs : List Byte) (t : Area) : Nat × Nat :=
  match (directory bs).find? (fun e => e.1 == t.code) with
  | some e => (16 * e.2.1, 16 * e.2.2)
  | none => (0, 0)

/-- The bytes of an area. -/
def areaBytes (bs : List Byte) (t : Area) : List Byte :=
  (bs.drop (areaPlace bs t).1).take (areaPlace bs t).2

/-! ## DRIVE (R47, R63, R78, R149, R160, R162, R191, table 11) -/

/-- An axis number 0..6, or none for a code that names no axis. -/
def axisOfNat (n : Nat) : Option Axis := if h : n < 7 then some ⟨n, h⟩ else none

/-- A leg number 0..10, or none outside that range. -/
def legOfNat (n : Nat) : Option Leg := if h : n < 11 then some ⟨n, h⟩ else none

/-- The side code (table 11); code 3 is not defined. -/
def sideOfNat : Nat → Option AxisSide
  | 0 => some .left | 1 => some .right | 2 => some .both | _ => none

/-- One axis record of DRIVE, none when a code in it is not defined (R47, R191). Duties above 1000 are taken as 1000
(R184) and a running reservation above the start reservation as equal to it (R47). A6 is BOTH whatever is stored (R137). Bits of bytes 0, 3, 4 and 18
that table 11 does not name are not read (log 64). -/
def parseDriveAxis (bs : List Byte) (a : Axis) : Option DriveAxis :=
  let o := 38 * a.val
  let flags := byteAt bs o
  match sideOfNat (flags / 4 % 4), legOfNat (byteAt bs (o + 1)), legOfNat (byteAt bs (o + 2)) with
  | some side, some l1, some l2 => some
    { common := bitOf flags 0
      sense := bitOf flags 1
      side := if a = 6 then .both else side
      homingDir := if bitOf flags 4 then .positive else .negative
      leg1 := l1
      leg2 := l2
      attended := BitVec.ofNat 5 (byteAt bs (o + 3))
      automatic := BitVec.ofNat 5 (byteAt bs (o + 4))
      startRes := byteAt bs (o + 5)
      runRes := min (byteAt bs (o + 6)) (byteAt bs (o + 5))
      startDuty := min 1000 (wordAt bs (o + 7))
      rampStep := wordAt bs (o + 9)
      normalDuty := min 1000 (wordAt bs (o + 11))
      quietDuty := min 1000 (wordAt bs (o + 13))
      homingDuty := min 1000 (wordAt bs (o + 15))
      tolerance := byteAt bs (o + 17)
      offCode := byteAt bs (o + 18) % 4
      defaultIlr := byteAt bs (o + 19)
      defaultCoast := byteAt bs (o + 20)
      backOff := byteAt bs (o + 21)
      softLo := wordAt bs (o + 22)
      softHi := wordAt bs (o + 24)
      upright := (wordAt bs (o + 26), wordAt bs (o + 28))
      folded := (wordAt bs (o + 30), wordAt bs (o + 32))
      homeRef := wordAt bs (o + 34)
      ratedLife := wordAt bs (o + 36) }
  | _, _, _ => none

/-- A stored duty of the axis lies above 1000 (R184). -/
def dutyClamped (bs : List Byte) (a : Axis) : Bool :=
  let o := 38 * a.val
  [7, 11, 13, 15].any (fun i => decide (1000 < wordAt bs (o + i)))

/-- The common leg of an axis, none for a dedicated pair (R46). -/
def DriveAxis.commonLeg (d : DriveAxis) : Option Leg := if d.common then some d.leg1 else none

/-- The own legs of an axis: both of a dedicated pair, the second of a common axis (R46). -/
def DriveAxis.ownLegs (d : DriveAxis) : List Leg := if d.common then [d.leg2] else [d.leg1, d.leg2]

/-- No value stands twice in a list. -/
def noRepeat {α : Type} [BEq α] : List α → Bool
  | [] => true
  | x :: rest => !(rest.contains x) && noRepeat rest

/-- The axis has a latch: A2, A3, A4, A5 (R5). -/
def isLatched (a : Axis) : Bool := decide (2 ≤ a.val) && decide (a.val ≤ 5)

/-- The windows of a latched axis are intervals and do not overlap (R63). -/
def windowsGood (d : DriveAxis) : Bool :=
  decide (d.upright.1 ≤ d.upright.2) && decide (d.folded.1 ≤ d.folded.2)
    && (decide (d.upright.2 < d.folded.1) || decide (d.folded.2 < d.upright.1))

/-- The content conditions of DRIVE (R47, R63, R78, R149, R160, R162). -/
def driveGood (d : DriveCopy) : Bool :=
  let recs := axes.map (fun a => d.axis[a])
  noRepeat (recs.flatMap DriveAxis.ownLegs)
    && recs.all (fun r => match r.commonLeg with
      | some l => recs.all (fun q => !(q.ownLegs.contains l))
      | none => true)
    && allPairs (fun x y => x.commonLeg == none || x.commonLeg != y.commonLeg || x.sense == y.sense) recs
    && recs.all (fun r => decide (1 ≤ r.startRes) && decide (r.startRes ≤ d.bTotal)
      && (match r.commonLeg with | some l => decide (r.startRes ≤ d.lMax[l]) | none => true))
    && axes.all (fun a => !(isLatched a) || windowsGood d.axis[a])
    && recs.all (fun r => decide (r.softLo ≤ r.softHi) && decide (r.softHi ≤ Config.maxPosition))
    && decide (0 < d.heatLimit) && decide (d.heatResume < d.heatLimit)
    && recs.all (fun r => decide (0 < r.ratedLife))
    && d.homingOrder.length == 7 && axes.all (fun a => d.homingOrder.contains a)

/-- The DRIVE working copy of an area's bytes, none when the area is invalid (R47, R184). -/
def parseDrive (bs : List Byte) : Option DriveCopy :=
  if bs.length < 302 || byteSum bs != 0#8 then none else
  match parseDriveAxis bs 0, parseDriveAxis bs 1, parseDriveAxis bs 2, parseDriveAxis bs 3, parseDriveAxis bs 4,
    parseDriveAxis bs 5, parseDriveAxis bs 6 with
  | some r0, some r1, some r2, some r3, some r4, some r5, some r6 =>
    let d : DriveCopy :=
      { axis := #v[r0, r1, r2, r3, r4, r5, r6]
        bTotal := max 50 (min 600 (wordAt bs 266))
        heatLimit := wordAt bs 268
        heatResume := wordAt bs 270
        homingOrder := ([0, 1, 2, 3, 4, 5, 6].filterMap (fun i => axisOfNat (byteAt bs (272 + i))))
        lMax := #v[0, 1, 2, 3, 4, 5, 6, 7, 8, 9, 10].map (fun i => max 50 (min 600 (wordAt bs (279 + 2 * i)))) }
    if driveGood d then some d else none
  | _, _, _, _, _, _, _ => none

/-! ## RULES (R77, table 12) -/

/-- Rule Kk, none when it breaks a condition of R77. -/
def parseRule (bs : List Byte) (k : Nat) : Option Clearance :=
  let o := 1 + 11 * k
  match axisOfNat (byteAt bs o), axisOfNat (byteAt bs (o + 5)) with
  | some a, some b =>
    let r : Clearance :=
      { axisA := a
        zoneA := (wordAt bs (o + 1), wordAt bs (o + 3))
        axisB := b
        zoneB := (wordAt bs (o + 6), wordAt bs (o + 8))
        guard := byteAt bs (o + 10) }
    if a ≠ b ∧ r.zoneA.1 ≤ r.zoneA.2 ∧ r.zoneB.1 ≤ r.zoneB.2 ∧ r.zoneA.2 ≤ Config.maxPosition
        ∧ r.zoneB.2 ≤ Config.maxPosition then some r else none
  | _, _ => none

/-- All of a list, or none when one of it is missing. -/
def allSome {α : Type} : List (Option α) → Option (List α)
  | [] => some []
  | none :: _ => none
  | some x :: rest => (allSome rest).map (fun l => x :: l)

/-- The RULES working copy, none when the area is invalid (R77, R184). -/
def parseRules (bs : List Byte) : Option (List Clearance) :=
  let n := byteAt bs 0
  if 24 < n || bs.length < 2 + 11 * n || byteSum bs != 0#8 then none
  else allSome ((List.range n).map (parseRule bs))

/-! ## SEATS (R10, table 13) -/

/-- A condition list at an offset: a term count 0..3 and that many terms; none for an undefined code or a term outside
the axis set or with lo > hi (R10, R191). The bytes of the term slots beyond the count are not read (log 45). -/
def parseTerms (bs : List Byte) (o : Nat) (set : AxisSet) : Option (List Term) :=
  if 3 < byteAt bs o then none
  else allSome ((List.range (byteAt bs o)).map (fun i =>
    let p := o + 1 + 5 * i
    match axisOfNat (byteAt bs p) with
    | some a =>
      if AxisSet.has set a && decide (wordAt bs (p + 1) ≤ wordAt bs (p + 3))
      then some { axis := a, lo := wordAt bs (p + 1), hi := wordAt bs (p + 3) } else none
    | none => none))

/-- The definition of seat S(2+s): some none for a seat not defined, none for an invalid one (R10; log 8 for bit 7).
The lists of a seat not defined are not read (log 45). -/
def parseSeat (bs : List Byte) (s : Nat) : Option (Option SeatDef) :=
  let o := 49 * s
  if byteAt bs o = 0 then some none
  else if 128 ≤ byteAt bs o then none
  else
    let set := BitVec.ofNat 7 (byteAt bs o)
    match parseTerms bs (o + 1) set, parseTerms bs (o + 17) set, parseTerms bs (o + 33) set with
    | some u, some f, some w => some (some { axes := set, usable := u, folded := f, stowed := w })
    | _, _, _ => none

/-- The SEATS working copy, none when the area is invalid (R10, R184). -/
def parseSeats (bs : List Byte) : Option SeatsCopy :=
  let flat := byteAt bs 245
  if bs.length < 247 || byteSum bs != 0#8 || bitOf flat 0 || bitOf flat 1 || bitOf flat 7 then none else
  match parseSeat bs 0, parseSeat bs 1, parseSeat bs 2, parseSeat bs 3, parseSeat bs 4 with
  | some s2, some s3, some s4, some s5, some s6 =>
    some { seat := #v[s2, s3, s4, s5, s6], flatFloor := BitVec.ofNat 7 flat }
  | _, _, _, _, _ => none

/-! ## ARRANGEMENTS (R113, R185, table 14) -/

/-- The moves of a record, none when one is not defined (R113). -/
def parseMoves (bs : List Byte) (o n : Nat) : Option (List ArrMove) :=
  allSome ((List.range n).map (fun i =>
    let p := o + 3 * i
    let h := byteAt bs p
    match axisOfNat (h % 8) with
    | some a => if h / 64 < 2 then some { axis := a, phase := h / 8 % 8, target := wordAt bs (p + 1), quiet := h / 64 == 1 } else none
    | none => none))

/-- A record that passes its checksum, none when it breaks a condition (R113, R185). seen holds the numbers of the valid
records before it. Bits 6 and 7 of the flags are not read (log 64). -/
def parseRecord (bs : List Byte) (o : Nat) (seen : List Nat) : Option Arrangement :=
  let number := byteAt bs o
  let flags := byteAt bs (o + 1)
  let nameLen := byteAt bs (o + 2) % 32
  let count := byteAt bs (o + 3 + nameLen)
  if 15 < number || byteAt bs (o + 2) / 32 != 2 || 16 < nameLen || count = 0 || 14 < count || seen.contains number then none else
  match parseMoves bs (o + 4 + nameLen) count with
  | some ms =>
    if noRepeat (ms.map (fun m => m.axis)) then some
      { number := number
        name := (bs.drop (o + 3)).take nameLen
        parkRequired := bitOf flags 0
        rearAccess := bitOf flags 1
        autoHome := bitOf flags 2
        cargo := bitOf flags 3
        quiet := bitOf flags 4
        last := bitOf flags 5
        moves := ms }
    else none
  | none => none

/-- The length of the record at an offset, from its name length and move count (R185). -/
def recordLength (bs : List Byte) (o : Nat) : Nat :=
  let nameLen := byteAt bs (o + 2) % 32
  5 + nameLen + 3 * byteAt bs (o + 3 + nameLen)

/-- The walk over the records (R185): the valid arrangements and the skipped positions. fuel is what is left of the
sixteen records, pos the position in the walk. -/
def walkRecords (bs : List Byte) : (fuel pos o : Nat) → (found : List Arrangement) → (skipped : List Nat) → List Arrangement × List Nat
  | 0, _, _, found, skipped => (found, skipped)
  | fuel + 1, pos, o, found, skipped =>
    let len := recordLength bs o
    if bs.length < o + len then (found, skipped)
    else if byteSum ((bs.drop o).take len) != 0#8 then walkRecords bs fuel (pos + 1) (o + len) found (skipped ++ [pos])
    else
      let r := parseRecord bs o (found.map (fun x => x.number))
      let found' := match r with | some x => found ++ [x] | none => found
      let skipped' := match r with | some _ => skipped | none => skipped ++ [pos]
      if bitOf (byteAt bs (o + 1)) 5 then (found', skipped')
      else walkRecords bs fuel (pos + 1) (o + len) found' skipped'

/-- A target taken into the soft limits of its axis (R113). -/
def clampTarget (d : DriveCopy) (m : ArrMove) : ArrMove :=
  { m with target := max (d.axis[m.axis]).softLo (min (d.axis[m.axis]).softHi m.target) }

/-- An arrangement with its targets clamped; unchanged while DRIVE is invalid (R185). -/
def clampArrangement (drive : Option DriveCopy) (x : Arrangement) : Arrangement :=
  match drive with
  | some d => { x with moves := x.moves.map (clampTarget d) }
  | none => x

/-! ## PARTNERS (R170, table 15) -/

/-- The sixteen identifiers of a stored table. -/
def partnerIds (bs : List Byte) : List Nat :=
  [0, 1, 2, 3, 4, 5, 6, 7, 8, 9].map (fun i => wordAt bs (2 * i))
    ++ [0, 1, 2, 3, 4, 5].map (fun n => wordAt bs 20 + n)

/-- The PARTNERS working copy, none when the area is invalid (R170, R184). -/
def parsePartners (bs : List Byte) : Option PartnerTable :=
  let idAt := fun i => BitVec.ofNat 11 (wordAt bs i)
  if bs.length < 27 || byteSum bs != 0#8 || (partnerIds bs).any (fun n => decide (0x7FF < n)) || !(noRepeat (partnerIds bs))
      || [22, 23, 24, 25].any (fun i => decide (15 < byteAt bs i)) then none
  else some
    { request := #v[idAt 0, idAt 4, idAt 8, idAt 12]
      result := #v[idAt 2, idAt 6, idAt 10, idAt 14]
      vehicle := idAt 16
      occupancy := idAt 18
      base := idAt 20
      access := #v[byteAt bs 22, byteAt bs 24]
      back := #v[byteAt bs 23, byteAt bs 25] }

/-! ## LEARNED (R146, R169, table 16) -/

/-- One axis of LEARNED. -/
def parseLearnedAxis (bs : List Byte) (a : Nat) : LearnedAxis :=
  let o := 11 * a
  { position := wordAt bs o
    validity := byteAt bs (o + 2)
    ilr := byteAt bs (o + 3)
    coast := byteAt bs (o + 4)
    marginTrim := byteAt bs (o + 5) / 16
    timeoutTrim := byteAt bs (o + 5) % 16
    heat := wordAt bs (o + 6)
    moves := tripleAt bs (o + 8) }

/-- The LEARNED working copy, none when the area is invalid (R184). The marker is the second-to-last byte; it is read as
1 only when it is 1 (log 9). -/
def parseLearned (bs : List Byte) : Option LearnedCopy :=
  if bs.length < 79 || byteSum bs != 0#8 then none
  else some
    { axis := #v[0, 1, 2, 3, 4, 5, 6].map (parseLearnedAxis bs)
      marker := byteAt bs (bs.length - 2) == 1 }

/-! ## The load -/

/-- A set of small numbers as a 16-bit mask. -/
def maskOf (l : List Nat) : BitVec 16 := l.foldl (fun m i => m ||| (1#16 <<< i)) 0#16

/-- A load (R184 to R186): every working copy and the load report replaced together from the bytes of the store. With an
invalid header every area is invalid. A DRIVE found invalid leaves no copy, the default budget figures of R184 among what is then not held (log 44). -/
def loadStore (st : StoreCtl) : StoreCtl :=
  let bs := memBytes Config.storeBytes 0 st.memory
  if headerValid bs then
    let dbs := areaBytes bs .drive
    let drive := parseDrive dbs
    let rules := parseRules (areaBytes bs .rules)
    let seats := parseSeats (areaBytes bs .seats)
    let walk := walkRecords (areaBytes bs .arrangements) 16 0 0 [] []
    let arrangements := if walk.1.isEmpty then none else some (walk.1.map (clampArrangement drive))
    let partners := parsePartners (areaBytes bs .partners)
    let learned := parseLearned (areaBytes bs .learned)
    { st with
      drive := drive
      rules := rules
      seats := seats
      arrangements := arrangements
      partners := partners
      learned := learned
      learnedArea := some (areaPlace bs .learned)
      report :=
        { valid := BitVec.ofBool learned.isSome ++ BitVec.ofBool partners.isSome ++ BitVec.ofBool arrangements.isSome
            ++ BitVec.ofBool seats.isSome ++ BitVec.ofBool rules.isSome ++ BitVec.ofBool drive.isSome
          clampedTargets := maskOf ((walk.1.filter (fun x => clampArrangement drive x != x)).map (fun x => x.number))
          clampedDuties := if drive.isSome then AxisSet.ofList (axes.filter (dutyClamped dbs)) else 0#7
          skipped := maskOf walk.2 } }
  else
    { st with
      drive := none
      rules := none
      seats := none
      arrangements := none
      partners := none
      learned := none
      learnedArea := none
      report := .empty }

end Machine
end Sys2Proof
end

