-- ==== Sys2Proof/Machine/Ops.lean ====
section
/-! DEFINITION. The named operations every meaning is written over: reading and writing one channel, latch, slot, grant, answer or page, the
free picks, and the marking of work an event has still to do. -/

namespace Sys2Proof
namespace Machine

/-! ## Numbers of the fixed parts -/

/-- The latch of an axis; none for A0, A1, A6 (R5). -/
def latchOf (a : Axis) : Option LatchNo :=
  match a with
  | 2 => some 0 | 3 => some 1 | 4 => some 2 | 5 => some 3 | _ => none

/-- The axis of a latch (R5). -/
def axisOfLatch (l : LatchNo) : Axis :=
  match l with
  | 0 => 2 | 1 => 3 | 2 => 4 | 3 => 5

/-- Role order: body, tailgate, restraint, service (R174). -/
def roleNo : Role → Fin 4
  | .body => 0 | .tailgate => 1 | .restraint => 2 | .service => 3

/-- The roles in role order. -/
def roles : List Role := [.body, .tailgate, .restraint, .service]

/-- Pad 2L is 0, pad 2R is 1. -/
def padNo : Pad → Fin 2
  | .left => 0 | .right => 1

/-- The slot of a pad (R92). -/
def padSlot : Pad → Slot
  | .left => 14 | .right => 15

/-- The direction opposite to one. -/
def Dir.opposite : Dir → Dir
  | .positive => .negative | .negative => .positive

/-- The lower of two validities (R145). -/
def Validity.lower : Validity → Validity → Validity
  | .unhomed, _ => .unhomed
  | _, .unhomed => .unhomed
  | .unverified, _ => .unverified
  | _, .unverified => .unverified
  | .valid, .valid => .valid

/-- RELEASING, STARTING and RUNNING: the states in which a stop request ends a move (R27). -/
def Motion.stoppable : Motion → Bool
  | .releasing | .starting | .running => true
  | _ => false

/-- STARTING and RUNNING: the states in which a channel drives its legs (R22). -/
def Motion.driving : Motion → Bool
  | .starting | .running => true
  | _ => false

/-- DWELL or IDLE: at rest (R110). -/
def Motion.atRest : Motion → Bool
  | .idle | .dwell => true
  | _ => false

/-! ## One component at a time -/

/-- Change one channel. -/
def State.modChan (s : State) (a : Axis) (f : Channel → Channel) : State :=
  { s with ac := s.ac.set a (f s.ac[a]) }

/-- Change the move state of one channel; nothing where it holds none. -/
def State.modMove (s : State) (a : Axis) (f : Move → Move) : State :=
  s.modChan a (fun c => { c with move := c.move.map f })

/-- Change one Latch Channel. -/
def State.modLatch (s : State) (l : LatchNo) (f : Latch → Latch) : State :=
  { s with lc := s.lc.set l (f s.lc[l]) }

/-- Change the grant-table entry of one axis. -/
def State.setGrant (s : State) (a : Axis) (g : Option Grant) : State :=
  { s with da := { s.da with grants := s.da.grants.set a g } }

/-- Set the condition of one leg. -/
def State.setLeg (s : State) (l : Leg) (v : Option Bool) : State :=
  { s with da := { s.da with legs := s.da.legs.set l v } }

/-- Put a slot. -/
def State.setSlot (s : State) (j : Slot) (x : Option Job) : State :=
  { s with jm := { s.jm with slots := s.jm.slots.set j x } }

/-- Change the job in a slot; nothing where the slot is FREE. -/
def State.modJob (s : State) (j : Slot) (f : Job → Job) : State :=
  s.setSlot j (s.jm.slots[j].map f)

/-- Change one axis's heat and wear. -/
def State.modHeat (s : State) (a : Axis) (f : Thermal → Thermal) : State :=
  { s with tw := s.tw.set a (f s.tw[a]) }

/-- Set one axis's validity. -/
def State.setValidity (s : State) (a : Axis) (v : Validity) : State :=
  { s with validity := s.validity.set a v }

/-- Demote an axis: the lower of its validity and the one the cause names (R145). -/
def State.demote (s : State) (a : Axis) (v : Validity) : State :=
  s.setValidity a (Validity.lower s.validity[a] v)

/-- Change one page. -/
def State.modPage (s : State) (p : PageNo) (f : Page → Page) : State :=
  { s with np := { s.np with pages := s.np.pages.set p (f s.np.pages[p]) } }

/-- Change one pad. -/
def State.modPad (s : State) (p : Pad) (f : PadState → PadState) : State :=
  { s with ps := s.ps.set (padNo p) (f s.ps[(padNo p)]) }

/-- Put a partner's pending-refusal slot. -/
def State.setAnswer (s : State) (r : Role) (x : Option Answer) : State :=
  { s with jm := { s.jm with answers := s.jm.answers.set (roleNo r) x } }

/-- Put a pad's last outcome (R105). -/
def State.setLastPad (s : State) (p : Pad) (x : Option Code) : State :=
  { s with jm := { s.jm with lastPad := s.jm.lastPad.set (padNo p) x } }

/-- Put the wait list. -/
def State.setWait (s : State) (l : List WaitEntry) : State :=
  { s with da := { s.da with wait := l } }

/-- Mark work that the event has still to do, after what it has marked already (log 2). -/
def State.emit (s : State) (ts : List Task) : State :=
  { s with raised := s.raised ++ ts }

/-- Do something to each of a list, in its order. -/
def State.each {α : Type} (s : State) (l : List α) (f : State → α → State) : State :=
  l.foldl f s

/-! ## Reading -/

/-- The DRIVE record of an axis, none while DRIVE is invalid. -/
def State.driveAxis (s : State) (a : Axis) : Option DriveAxis := s.st.drive.map (fun d => d.axis[a])

/-- The latch of an axis as its channel holds it. -/
def State.latch (s : State) (a : Axis) : Option Latch := (latchOf a).map (fun l => s.lc[l])

/-- The solenoid of the axis's latch is driven (R24); an axis without a latch has none. -/
def State.solenoidDriven (s : State) (a : Axis) : Bool :=
  match s.latch a with
  | some l => l.solenoid != .off
  | none => false

/-- The lock window of a latched axis that holds a position, none outside both and while DRIVE is invalid (R63). -/
def State.lockWindow (s : State) (a : Axis) (p : Nat) : Option (Nat × Nat) :=
  match s.driveAxis a with
  | some d =>
    if isLatched a then
      if d.upright.1 ≤ p ∧ p ≤ d.upright.2 then some d.upright
      else if d.folded.1 ≤ p ∧ p ≤ d.folded.2 then some d.folded
      else none
    else none
  | none => none

/-- The tolerance of an axis (R39); 0 while DRIVE is invalid, when nothing is granted. -/
def State.tolerance (s : State) (a : Axis) : Nat :=
  match s.driveAxis a with
  | some d => d.tolerance
  | none => 0

/-- The homing order (R149). -/
def State.homingOrder (s : State) : List Axis :=
  match s.st.drive with
  | some d => d.homingOrder
  | none => [6, 4, 5, 2, 3, 0, 1]

/-- A slot's job is not FREE. -/
def State.slotBusy (s : State) (j : Slot) : Bool := s.jm.slots[j].isSome

/-- The slots that are not FREE. -/
def State.busySlots (s : State) : List Slot := slotNos.filter s.slotBusy

/-- Every job slot is FREE: the class lists and the done list are empty (R95). -/
def State.noJob (s : State) : Bool := s.busySlots.isEmpty

/-- The number of a partner's slots of 0..13 that are not FREE (R92). -/
def State.partnerCount (s : State) (r : Role) : Nat :=
  (partnerSlots.filter (fun j => match s.jm.slots[j] with | some x => x.source == .partner r | none => false)).length

/-- The sum of the reservations of all grant-table entries (R52). -/
def State.reservedTotal (s : State) : Nat :=
  (axes.map (fun a => match s.da.grants[a] with | some g => g.reservation | none => 0)).sum

/-- The sum of the reservations of the granted members of a common leg's group (R52). -/
def State.legSum (s : State) (l : Leg) : Nat :=
  (axes.map (fun a => match s.da.grants[a] with | some g => if g.commonLeg = some l then g.reservation else 0 | none => 0)).sum

/-- A leg fault bars the axis: its common leg in the map has one (R51). -/
def State.legBarred (s : State) (a : Axis) : Bool :=
  match s.driveAxis a with
  | some d => match d.commonLeg with | some l => s.da.legFault[l] | none => false
  | none => false

/-- The axis is LOCKED_OUT or barred by a leg fault (R51, R56). -/
def State.barred (s : State) (a : Axis) : Bool := s.ac[a].lockedOut || s.legBarred a

/-- The lowest-numbered axis of a set for which a test holds. -/
def lowestAxis (m : AxisSet) (f : Axis → Bool) : Option Axis := (AxisSet.list m).find? f

/-! ## Free picks (log 6) -/

/-- A list in an order that draws give, from draw number k on. A list of at most one needs no draw. fuel is the length of
the list. -/
def freeOrder {α : Type} : (fuel : Nat) → List α → (k : Nat) → List α × Nat
  | 0, l, k => (l, k)
  | fuel + 1, l, k =>
    match l with
    | [] => ([], k)
    | [x] => ([x], k)
    | x :: y :: rest =>
      let i := Config.openChoice k % (rest.length + 2)
      let more := freeOrder fuel ((x :: y :: rest).eraseIdx i) (k + 1)
      ((x :: y :: rest).getD i x :: more.1, more.2)

/-- Order a list by free draws. -/
def State.shuffled {α : Type} (s : State) (l : List α) : List α × State :=
  let r := freeOrder l.length l s.picks
  (r.1, { s with picks := r.2 })

/-- A free number below n. -/
def State.draw (s : State) (n : Nat) : Nat × State :=
  (Config.openChoice s.picks % n, { s with picks := s.picks + 1 })

/-- A free choice between two. -/
def State.coin (s : State) : Bool × State :=
  ((s.draw 2).1 == 1, (s.draw 2).2)

end Machine
end Sys2Proof
end

