-- ==== Sys2Proof/Machine/Flags.lean ====
section
/-! DEFINITION. Everything the part derives and publishes: the predicates P0 to P4, the seat-use states, the cabin and
health flags, the heat and wear bytes, and the contents of the six Cabin State pages. -/

namespace Sys2Proof
namespace Machine

/-! ## Predicates (section 8.2) -/

/-- P0 STANDSTILL (R135). -/
def State.standstill (s : State) : Bool :=
  s.iu.vehicleFresh && (match s.iu.vehicle.speed with | some v => decide (v ≤ Config.standstillSpeed) | none => false)

/-- P1 IN_PARK (R135). -/
def State.inPark (s : State) : Bool := s.iu.vehicleFresh && s.iu.vehicle.gear == .p

/-- The definition of a seat; S0 and S1 have none (R10). -/
def SeatsCopy.def (c : SeatsCopy) (n : SeatNo) : Option SeatDef :=
  match n with
  | 2 => c.seat[0] | 3 => c.seat[1] | 4 => c.seat[2] | 5 => c.seat[3] | 6 => c.seat[4] | _ => none

/-- The Occupancy of a managed seat; none for S0 and S1 (R133). -/
def State.occupant (s : State) (n : SeatNo) : Option Occupant :=
  match n with
  | 2 => some s.iu.seats[0] | 3 => some s.iu.seats[1] | 4 => some s.iu.seats[2] | 5 => some s.iu.seats[3]
  | 6 => some s.iu.seats[4] | _ => none

/-- The seats of an axis (R11); S2..S6 while SEATS is invalid. -/
def State.seatsOf (s : State) (a : Axis) : List SeatNo :=
  match s.st.seats with
  | none => [2, 3, 4, 5, 6]
  | some c => seatNos.filter (fun n => match c.def n with | some d => AxisSet.has d.axes a | none => false)

/-- P2 SEATS_EMPTY of an axis (R136). -/
def State.seatsEmpty (s : State) (a : Axis) : Bool :=
  s.iu.occupancyFresh && (s.seatsOf a).all (fun n => match s.occupant n with | some o => o.occupied == .no | none => true)

/-- P3 NO_CHILD_SEAT of an axis (R136). -/
def State.noChildSeat (s : State) (a : Axis) : Bool :=
  s.iu.occupancyFresh && (s.seatsOf a).all (fun n => match s.occupant n with | some o => o.childSeat == .no | none => true)

/-- The side of an axis: from DRIVE, or its default while DRIVE is invalid; A6 is BOTH (R137). -/
def State.side (s : State) (a : Axis) : AxisSide :=
  if a = 6 then .both else
  match s.driveAxis a with
  | some d => d.side
  | none => if a = 0 ∨ a = 2 ∨ a = 4 then .left else .right

/-- P4 REAR_ACCESS of an axis (R137). -/
def State.rearAccess (s : State) (a : Axis) : Bool :=
  s.iu.vehicleFresh &&
    (s.iu.vehicle.tailgate == .opened
      || (s.iu.vehicle.rearLeft == .opened && s.side a != .right)
      || (s.iu.vehicle.rearRight == .opened && s.side a != .left))

/-- The predicate of a number for an axis (R135 to R137). -/
def State.predicate (s : State) (n : Fin 5) (a : Axis) : Bool :=
  match n with
  | 0 => s.standstill
  | 1 => s.inPark
  | 2 => s.seatsEmpty a
  | 3 => s.noChildSeat a
  | 4 => s.rearAccess a

/-- The five predicate numbers. -/
def predNos : List (Fin 5) := [0, 1, 2, 3, 4]

/-- The predicate's cabin-wide value (R143). -/
def State.cabinWide (s : State) (n : Fin 5) : Bool := axes.all (s.predicate n)

/-- Every predicate of every axis: what the Interlock Unit compares to find a change (R140). -/
def State.predicateTable (s : State) : List (List Bool) := axes.map (fun a => predNos.map (fun n => s.predicate n a))

/-- The default masks (R138). -/
def defaultAttended (a : Axis) : BitVec 5 :=
  match a with
  | 0 | 1 => 0#5 | 2 | 3 => 1#5 | _ => 5#5
def defaultAutomatic (a : Axis) : BitVec 5 :=
  match a with
  | 0 | 1 => 13#5 | 2 | 3 => 15#5 | _ => 31#5

/-- The attended mask of an axis (R138). -/
def State.attendedMask (s : State) (a : Axis) : BitVec 5 :=
  match s.driveAxis a with
  | some d => d.attended
  | none => defaultAttended a

/-- The automatic mask of an axis (R138). -/
def State.automaticMask (s : State) (a : Axis) : BitVec 5 :=
  match s.driveAxis a with
  | some d => d.automatic
  | none => defaultAutomatic a

/-- The mask of a wait-list rank: attended for rank 0, automatic for ranks 1 and 2 (R138). -/
def State.rankMask (s : State) (a : Axis) (rank : Nat) : BitVec 5 :=
  if rank = 0 then s.attendedMask a else s.automaticMask a

/-- The lowest-numbered false predicate that a mask names for an axis (R56, R139). -/
def State.falsePredicate (s : State) (mask : BitVec 5) (a : Axis) : Option (Fin 5) :=
  predNos.find? (fun n => mask.getLsbD n.val && !(s.predicate n a))

/-! ## Heat and wear bytes (R160 to R162) -/

def State.heatLimit (s : State) : Nat := match s.st.drive with | some d => d.heatLimit | none => Config.defaultHeatLimit
def State.heatResume (s : State) : Nat := match s.st.drive with | some d => d.heatResume | none => Config.defaultHeatResume
def State.ratedLife (s : State) (a : Axis) : Nat := match s.driveAxis a with | some d => d.ratedLife | none => Config.defaultRatedLife

/-- The heat byte of an axis (R161). -/
def State.heatByte (s : State) (a : Axis) : Nat := min 200 (s.tw[a].heat * 100 / s.heatLimit)

/-- The wear byte of an axis (R162). -/
def State.wearByte (s : State) (a : Axis) : Nat := min 255 (s.tw[a].moves / s.ratedLife a)

/-- HOT after a change of H or of the levels (R160). -/
def State.hotAfter (s : State) (heat : Nat) (hot : Bool) : Bool :=
  if s.heatLimit ≤ heat then true else if heat ≤ s.heatResume then false else hot

/-! ## Cabin Map (chapter 01) -/

/-- A term holds when its axis's position lies within its window (R12). -/
def State.termHolds (s : State) (t : Term) : Bool :=
  decide (t.lo ≤ s.ac[t.axis].position) && decide (s.ac[t.axis].position ≤ t.hi)

/-- A condition list matches when it is not empty and every term holds (R12). -/
def State.listMatches (s : State) (l : List Term) : Bool := !l.isEmpty && l.all s.termHolds

/-- The axis has an owner, or is in RELEASING, STARTING, RUNNING or BRAKING (step 3 of R13). -/
def State.axisMoving (s : State) (a : Axis) : Bool :=
  s.jm.claims[a].isSome || !(s.ac[a].motion.atRest)

/-- The axis's latch reads LOCKED; true for an axis without a latch (step 4 of R13). -/
def State.latchedOrNone (s : State) (a : Axis) : Bool :=
  match s.latch a with
  | some l => l.state == .locked
  | none => true

/-- The use state of a seat (R13). -/
def State.seatUse (s : State) (n : SeatNo) : SeatUse :=
  if n = 0 ∨ n = 1 then .notManaged else
  match s.st.seats with
  | none => .unknown
  | some c =>
    match c.def n with
    | none => .notManaged
    | some d =>
      let l := AxisSet.list d.axes
      if l.any (fun a => s.validity[a] != .valid) then .unknown
      else if l.any s.axisMoving then .moving
      else if s.listMatches d.usable && l.all s.latchedOrNone then .usable
      else if s.listMatches d.stowed then .stowed
      else if s.listMatches d.folded then .folded
      else .between

/-- FLAT_FLOOR (R15). -/
def State.flatFloor (s : State) : Bool :=
  match s.st.seats with
  | none => false
  | some c =>
    c.flatFloor != 0#7
      && seatNos.all (fun n => !(c.flatFloor.getLsbD n.val) || s.seatUse n == .folded || s.seatUse n == .stowed)

/-- ALL_LATCHES_LOCKED (R16). -/
def State.allLatchesLocked (s : State) : Bool :=
  latches.all (fun l =>
    let a := axisOfLatch l
    s.lc[l].state == .locked
      || (s.lc[l].state == .opened && s.validity[a] == .valid && s.st.drive.isSome
        && (s.lockWindow a s.ac[a].position).isNone))

/-- FAULT_PRESENT (R9). -/
def State.faultPresent (s : State) : Bool :=
  axes.any (fun a => s.ac[a].stall || s.ac[a].obstruction || s.ac[a].overcurrent || s.ac[a].lockedOut)
    || legNos.any (fun l => s.da.legFault[l])

/-- MOTION (R9). -/
def State.motionFlag (s : State) : Bool := axes.any (fun a => !(s.ac[a].motion.atRest))

/-- DRIVE_READY (R186). -/
def State.driveReady (s : State) : Bool := s.st.drive.isSome

/-- STORE_HEALTHY (R186). -/
def State.storeHealthy (s : State) : Bool := s.st.report.valid == 63#6 && s.st.report.skipped == 0#16

/-! ## Codes of the pages (tables 4, 7 to 9 of 13) -/

/-- The code of an outcome or refusal (table 4 of 13). -/
def Code.byte : Code → Byte
  | .done => 0x00#8 | .stopped => 0x01#8 | .holdLost => 0x02#8 | .doneLimited => 0x03#8 | .stalled => 0x04#8
  | .motorOpen => 0x05#8 | .obstructed => 0x06#8 | .overcurrent => 0x07#8 | .hallFault => 0x08#8
  | .latchStuck => 0x09#8 | .latchNotEngaged => 0x0A#8 | .lockedOut => 0x0B#8 | .hot => 0x0C#8
  | .interlock => 0x0D#8 | .unverified => 0x0E#8 | .storeInvalid => 0x0F#8 | .blocked => 0x10#8
  | .supplyFault => 0x11#8 | .homingFailed => 0x12#8 | .paused => 0x13#8 | .badArgument => 0x20#8
  | .notPermitted => 0x21#8 | .mode => 0x22#8 | .noSlot => 0x23#8 | .quota => 0x24#8 | .busy => 0x25#8
  | .notAllowed => 0x26#8 | .atLimit => 0x27#8 | .noJob => 0x28#8 | .unknownArrangement => 0x29#8

/-- The code byte of an outcome that may be NONE, 0xFF (table 4 of 13). -/
def codeByte (c : Option Code) : Byte := match c with | some x => x.byte | none => 0xFF#8

def PowerState.code : PowerState → Nat
  | .active => 0 | .waking => 1 | .park => 2
def SeatUse.code : SeatUse → Nat
  | .notManaged => 0 | .unknown => 1 | .moving => 2 | .usable => 3 | .stowed => 4 | .folded => 5 | .between => 6
def Validity.code : Validity → Nat
  | .valid => 0 | .unverified => 1 | .unhomed => 2
def LatchState.code : LatchState → Nat
  | .locked => 0 | .opened => 1 | .unknown => 2
def Motion.code : Motion → Nat
  | .idle => 0 | .releasing => 1 | .starting => 2 | .running => 3 | .braking => 4 | .dwell => 5

/-- A number made of bits, the first the least significant. -/
def bitsNat : List Bool → Nat
  | [] => 0
  | b :: rest => b.toNat + 2 * bitsNat rest

/-- A byte of a number. -/
def toByte (n : Nat) : Byte := BitVec.ofNat 8 n

/-- Page 0 without its count (table 7 of 13). -/
def State.page0 (s : State) : List Byte :=
  let seats := (seatNos.map (fun n => (s.seatUse n).code * 8 ^ n.val)).sum
  [toByte (s.sp.power.code + 4 * s.st.service.toNat + 8 * s.motionFlag.toNat),
   toByte (bitsNat [s.driveReady, s.storeHealthy, s.faultPresent, s.flatFloor, s.allLatchesLocked, s.iu.vehicleFresh, s.iu.occupancyFresh])]
    ++ tripleBytes seats
    ++ [toByte (bitsNat (predNos.map s.cabinWide)), codeByte s.jm.lastPad[0], codeByte s.jm.lastPad[1]]

/-- The position of an axis as shown: 0xFFFF when UNHOMED (R2). -/
def State.shownPosition (s : State) (a : Axis) : List Byte :=
  match s.validity[a] with
  | .unhomed => [0xFF#8, 0xFF#8]
  | _ => wordBytes s.ac[a].position

/-- Pages 1 and 2: three axes' positions and validities (table 8 of 13). -/
def State.positionPage (s : State) (a b c : Axis) : List Byte :=
  [0#8] ++ s.shownPosition a ++ s.shownPosition b ++ s.shownPosition c
    ++ [toByte (s.validity[a].code + 4 * s.validity[b].code + 16 * s.validity[c].code)]

/-- Page 3 (table 8 of 13). -/
def State.page3 (s : State) : List Byte :=
  let m := fun (a : Axis) => s.ac[a].motion.code
  [toByte s.validity[(6 : Axis)].code] ++ s.shownPosition 6
    ++ [toByte (s.lc[0].state.code + 4 * s.lc[1].state.code + 16 * s.lc[2].state.code + 64 * s.lc[3].state.code),
        toByte (m 0 + 16 * m 1), toByte (m 2 + 16 * m 3), toByte (m 4 + 16 * m 5), toByte (m 6)]

/-- Bytes 1 to 3 of an axis's row of page 4 (table 9 of 13). -/
def State.faultRow (s : State) (a : Axis) : List Byte :=
  let c := s.ac[a]
  [toByte (bitsNat [c.limitSeen, c.stall, c.obstruction, c.overcurrent, c.lockedOut, s.tw[a].hot, c.offTarget]),
   codeByte c.lastOutcome, toByte c.stray]

/-- Bytes 1 to 3 of an axis's row of page 5 (table 9 of 13). -/
def State.wearRow (s : State) (a : Axis) : List Byte :=
  [toByte (s.heatByte a), toByte s.tw[a].estimated.toNat, toByte (s.wearByte a)]

/-- What the buffer of a page holds (R17, R175). -/
def State.pageContent (s : State) (p : PageNo) : List Byte :=
  match p with
  | 0 => s.page0
  | 1 => s.positionPage 0 1 2
  | 2 => s.positionPage 3 4 5
  | 3 => s.page3
  | 4 => axes.flatMap s.faultRow
  | 5 => axes.flatMap s.wearRow

end Machine
end Sys2Proof
end

