-- ==== Sys2Proof/Machine/Channels.lean ====
section
/-! DEFINITION. What an Axis Channel and its Latch Channel do to each other and hand on (chapters 02 and 04): starting a
move, entering BRAKING and DWELL, stop requests, the relock check, the sensor-fault test, one current sample. -/

namespace Sys2Proof
namespace Machine

/-! ## Common legs (R48, R49) -/

/-- A member keeps its common leg set: it has a held grant, or is in RELEASING, STARTING or RUNNING (R48, R168). -/
def State.keepsLeg (s : State) (l : Leg) (b : Axis) : Bool :=
  match s.da.grants[b] with
  | some g => g.commonLeg == some l && (g.held || s.ac[b].motion.stoppable)
  | none => false

/-- A common leg goes free and low when no member keeps it set (R49). -/
def State.freeLeg (s : State) (l : Option Leg) : State :=
  match l with
  | some l => if axes.any (s.keepsLeg l) then s else s.setLeg l none
  | none => s

/-- The common leg of an axis's grant. -/
def State.grantLeg (s : State) (a : Axis) : Option Leg := s.da.grants[a].bind (fun g => g.commonLeg)

/-! ## Solenoids -/

/-- The solenoid off, with release and hold over (R65, R67). -/
def Latch.drop (l : Latch) : Latch :=
  { l with solenoid := .off, step := .none, stepTimer := .stopped, window := none, solenoidTimer := .stopped }

/-- The solenoid of an axis's latch off; nothing for an axis without a latch. -/
def State.dropSolenoid (s : State) (a : Axis) : State :=
  match latchOf a with
  | some l => s.modLatch l Latch.drop
  | none => s

/-- A hold: solenoid at hold level, with its release window and its 3 s timer from 0 (R65). -/
def Latch.holdWith (l : Latch) (w : Option (Nat × Nat)) : Latch :=
  { l with solenoid := .hold, step := .none, stepTimer := .stopped, window := w, solenoidTimer := .start }

/-- The hold ends when the position lies at least 20 counts beyond the release window (R65); while DRIVE is invalid no window is
known, and the hold ends on its 3 s limit (R63). A reload of DRIVE during a hold leaves the bounds recorded at its start as they are
(log 48). -/
def State.holdClears (s : State) (a : Axis) : State :=
  match latchOf a with
  | none => s
  | some l =>
    match s.lc[l].solenoid, s.lc[l].window with
    | .hold, some w =>
      let p := s.ac[a].position
      if s.st.drive.isNone then s
      else if p + Config.holdClearance ≤ w.1 ∨ w.2 + Config.holdClearance ≤ p then s.modLatch l Latch.drop else s
    | _, _ => s

/-! ## Braking -/

/-- Entry to BRAKING (R27, R28): the outcome is taken unless one is pending, the position recorded, the reservation
freed, the cooling timer started (R159), and the Drive Arbiter scans (R59). -/
def State.enterBraking (s : State) (a : Axis) (code : Code) (pred : Option Nat) : State :=
  let s1 := s.modChan a (fun c =>
    { c with
      motion := .braking
      hallTimer := .stopped
      restTimer := .start
      move := c.move.map (fun m =>
        { m with
          duty := 0
          brakePos := c.position
          inOffTime := false
          offTimer := .stopped
          sampleWaits := false
          pending := m.pending.or (some code)
          pendingPred := if m.pending.isSome then m.pendingPred else pred }) })
  let s2 := s1.setGrant a (s1.da.grants[a].map (fun g => { g with reservation := 0 }))
  let s3 := s2.modHeat a (fun t => { t with cooling := .start })
  (s3.freeLeg (s3.grantLeg a)).emit [.scan]

/-! ## Sensor fault (R71) -/

/-- The condition of a sensor fault: LOCKED on a VALID axis outside both windows, outside RELEASING, with DRIVE valid
(R63, R71). -/
def State.sensorFaulty (s : State) (a : Axis) : Bool :=
  match s.latch a with
  | some l => l.state == .locked && !l.sensorFault && s.validity[a] == .valid && s.st.drive.isSome
      && s.ac[a].motion != .releasing && (s.lockWindow a s.ac[a].position).isNone
  | none => false

/-- The sensor-fault test and what a fault does (R36, R71): the latch reads UNKNOWN, LOCKED_OUT is set, the axis becomes
UNVERIFIED, and a move in STARTING or RUNNING ends with LOCKED_OUT. -/
def State.sensorTest (s : State) (a : Axis) : State :=
  match latchOf a with
  | none => s
  | some l =>
    if s.sensorFaulty a then
      let s1 := (s.modLatch l (fun x => { x with state := .unknown, sensorFault := true, firstReading := false }))
      let s2 := (s1.modChan a (fun c => { c with lockedOut := true })).demote a .unverified
      if s2.ac[a].motion.driving then s2.enterBraking a .lockedOut none else s2
    else s

/-! ## The end of a move -/

/-- A move is on target (R39): hold moves and homing drives always, others within the tolerance. -/
def Move.onTarget (m : Move) (p : Nat) : Bool :=
  match m.kind, m.target with
  | .hold, _ => true
  | .homing, _ => true
  | _, some t => decide (dist p t ≤ m.tolerance)
  | _, none => true

/-- A move is clean by the four conditions of R39; one that has reached its stop point and then saturates in BRAKING meets them
(log 46). -/
def Move.clean (m : Move) (code : Code) : Bool :=
  m.endedAtStop && m.limitEvents == 0 && code != .obstructed && decide (Config.cleanSamples ≤ m.runSamples)

/-- Ilr after a clean move (R40). -/
def learnIlr (ilr : Nat) (m : Move) : Nat :=
  (clamp ((ilr : Int) + Int.tdiv (((m.runSum / m.runSamples : Nat) : Int) - ilr) 8) 5 200).toNat

/-- C after a clean move (R41). -/
def learnCoast (coast : Nat) (m : Move) (p : Nat) : Nat :=
  (clamp ((coast : Int) + Int.tdiv ((dist p m.brakePos : Int) - coast) 4) 0 255).toNat

/-- The channel's own part of DWELL entry (R39 to R41): outcome and off-target flag, and after a clean move the learned
values and the stall streak (R37). -/
def Channel.endMove (c : Channel) (m : Move) : Channel :=
  let code := m.pending.getD .done
  let clean := m.clean code
  { c with
    motion := .dwell
    hallTimer := .stopped
    restTimer := .start
    ilr := if clean then learnIlr c.ilr m else c.ilr
    coast := if clean then learnCoast c.coast m c.position else c.coast
    streak := if clean then 0 else c.streak
    lastOutcome := some code
    offTarget := !(m.onTarget c.position)
    move := some { m with final := c.position } }

/-- A relock check opens when the final position lies in a lock window; it ends a hold, and passes at once when the latch
reads LOCKED (R68). -/
def State.openRelock (s : State) (a : Axis) (job : Option Slot) : State :=
  match latchOf a with
  | none => s
  | some l =>
    if (s.lockWindow a s.ac[a].position).isSome then
      s.modLatch l (fun x =>
        { x.drop with
          relock := if x.state = .locked then .passed else .pending
          relockTimer := if x.state = .locked then .stopped else .start
          relockJob := job })
    else s

/-- The end of the channel's move as its owner receives it, with the final position taken at DWELL entry; none when no job owns it
(R35, R39). -/
def Channel.moveEnd (c : Channel) (a : Axis) : List Task :=
  match c.move with
  | some m =>
    match m.job with
    | some j =>
      [.moveEnd
        { axis := a
          slot := j
          kind := m.kind
          code := m.pending.getD .done
          pred := m.pendingPred
          position := m.final
          onTarget := m.onTarget m.final
          pauseEnd := m.pauseEnd }]
    | none => []
  | none => []

/-- The job that claims an axis meets its DONE condition again (R110). -/
def State.claimCheck (s : State) (a : Axis) : List Task :=
  match s.jm.claims[a] with
  | some j => [.doneCheck j]
  | none => []

/-- DWELL entry, the end of a move (R29, R39, R60, R68, R71, R150, R162): the channel's part; VALID after a homing stop; the clean-move
count; the cooling timer of a move that never drove (R159); the grant removed and its leg freed; the relock check; the
sensor-fault test. Then the move's owner, the DONE condition of the job that claims the
axis, the Drive Arbiter's scan and the re-tests follow. -/
def State.enterDwell (s : State) (a : Axis) : State :=
  match s.ac[a].move with
  | none => ((s.modChan a (fun c => { c with motion := .dwell, hallTimer := .stopped, restTimer := .start })).setGrant a none).emit (s.claimCheck a ++ [.scan, .retest])
  | some m =>
    let code := m.pending.getD .done
    let fromRelease := s.ac[a].motion == .releasing
    let leg := s.grantLeg a
    let s1 := s.modChan a (fun c => c.endMove m)
    let s2 := if m.kind = .homing ∧ code = .done then s1.setValidity a .valid else s1
    let s3 := s2.modHeat a (fun t =>
      { t with
        moves := if m.clean code then min Config.maxMoves (t.moves + 1) else t.moves
        cooling := if fromRelease then .start else t.cooling })
    let s4 := (s3.setGrant a none).freeLeg leg
    let s5 := (s4.openRelock a m.job).sensorTest a
    s5.emit (s5.ac[a].moveEnd a ++ s.claimCheck a ++ [.scan, .retest])

/-- A stop request carrying an outcome (R27). OVERCURRENT also sets the overcurrent flag when it ends a move (R33). -/
def State.stopAxis (s : State) (a : Axis) (code : Code) (pred : Option Nat) : State :=
  if s.ac[a].motion.stoppable then
    let s0 := if code = .overcurrent then s.modChan a (fun c => { c with overcurrent := true }) else s
    if s0.ac[a].motion = .releasing then
      ((s0.dropSolenoid a).modMove a (fun m =>
        { m with pending := m.pending.or (some code), pendingPred := if m.pending.isSome then m.pendingPred else pred })).enterDwell a
    else s0.enterBraking a code pred
  else s

/-! ## Starting a move -/

/-- The run duty of a speed class (R22). -/
def DriveAxis.duty (d : DriveAxis) (v : Speed) : Nat :=
  match v with
  | .normal => d.normalDuty
  | .quiet => d.quietDuty
  | .homing => d.homingDuty

/-- The obstruction threshold (R32). -/
def Channel.threshold (c : Channel) : Nat := c.ilr + 8 + 2 * c.marginTrim

/-- The Hall timeout in milliseconds (R30). -/
def Channel.hallTimeoutMs (c : Channel) : Nat := 40 + 8 * c.timeoutTrim

/-- A relock check still pending at a grant is decided then: passed if the latch reads LOCKED, failed otherwise (R68). -/
def State.decideRelock (s : State) (a : Axis) (passed : Bool) : State :=
  match latchOf a with
  | none => s
  | some l =>
    if s.lc[l].relock = .pending then
      let job := s.lc[l].relockJob
      let s1 := s.modLatch l (fun x => { x with relock := if passed then .passed else .failed, relockTimer := .stopped, relockJob := none })
      let s2 := if passed then s1 else s1.modChan a (fun c => { c with lastOutcome := some .latchNotEngaged })
      match job with
      | some j => s2.emit [.relock a j passed]
      | none => s2
    else s

/-- The latch's part of a grant (R19, R64, R66): a release for a latch that reads LOCKED; else a hold where R66 asks for
one, and the solenoid off elsewhere. -/
def State.grantLatch (s : State) (a : Axis) (kind : MoveKind) : State :=
  match latchOf a with
  | none => s
  | some l =>
    match s.lc[l].state with
    | .locked => s.modLatch l (fun x => { x.drop with solenoid := .full, step := .firstPulse, stepTimer := .start })
    | .unknown => s.modLatch l (fun x => x.holdWith none)
    | .opened =>
      match s.lockWindow a s.ac[a].position with
      | some w => s.modLatch l (fun x => x.holdWith (if s.validity[a] = .valid ∧ kind ≠ .homing then some w else none))
      | none => s.modLatch l Latch.drop

/-- The axis's latch reads LOCKED, so that a grant begins with a release (R19). -/
def State.latchLocked (s : State) (a : Axis) : Bool :=
  match s.latch a with
  | some l => l.state == .locked
  | none => false

/-- The move state a grant fixes (R19, R22, R32). -/
def Grant.toMove (g : Grant) (c : Channel) (d : DriveAxis) : Move where
  kind := g.entry.kind
  dir := g.entry.dir
  target := g.target
  stop := g.stop
  travel := g.travel
  speed := g.entry.speed
  job := some g.entry.slot
  rank := g.entry.rank
  tolerance := d.tolerance
  runDuty := d.duty g.entry.speed
  rampStep := if d.rampStep = 0 then 1000 else d.rampStep
  offCode := d.offCode
  threshold := c.threshold
  timeoutMs := c.hallTimeoutMs
  duty := min d.startDuty (d.duty g.entry.speed)
  samples := 0
  runSamples := 0
  runSum := 0
  lowCurrent := true
  obstruction := 0
  limitEvents := 0
  edges := 0
  drivenEdge := false
  brakePos := c.position
  final := c.position
  pending := none
  pendingPred := none
  endedAtStop := false
  inOffTime := false
  offTimer := .stopped
  sampleWaits := false
  pauseEnd := none

/-- A grant reaches its channel (R19, R66, R68): it leaves IDLE for RELEASING when its latch reads LOCKED, else for STARTING, where the
cooling timer stops at 0 (R159). -/
def State.startMove (s : State) (a : Axis) (g : Grant) : State :=
  match s.driveAxis a with
  | none => s
  | some d =>
    let release := s.latchLocked a
    let s1 := s.decideRelock a release
    let s2 := s1.modChan a (fun c =>
      { c with
        motion := if release then .releasing else .starting
        lastDir := g.entry.dir
        stray := 0
        move := some (g.toMove c d)
        hallTimer := .stopped
        restTimer := .stopped })
    let s3 := s2.grantLatch a g.entry.kind
    if release then s3 else s3.modHeat a (fun t => { t with cooling := .stopped })

/-- A latch that opens in RELEASING lets its channel enter STARTING (R20). -/
def State.enterStarting (s : State) (a : Axis) : State :=
  (s.modChan a (fun c => { c with motion := .starting })).modHeat a (fun t => { t with cooling := .stopped })

/-! ## Current samples (R21, R23, R32, R158) -/

/-- H, HOT and the saturation of H after a sample (R158, R160). -/
def State.addHeat (s : State) (a : Axis) (i : Nat) : State :=
  let h := min 65535 (s.tw[a].heat + i * i / 256)
  s.modHeat a (fun t => { t with heat := h, hot := s.hotAfter h t.hot })

/-- RUNNING entry: the reservation drops to its running value and the Drive Arbiter scans (R21, R52, R59). -/
def State.enterRunning (s : State) (a : Axis) : State :=
  let s1 := s.modChan a (fun c => { c with motion := .running })
  let run := match s1.driveAxis a with | some d => d.runRes | none => 0
  (s1.setGrant a (s1.da.grants[a].map (fun g => { g with reservation := run }))).emit [.scan]

/-- A STARTING sample: ramp and blanking (R21). -/
def State.startingSample (s : State) (a : Axis) (m : Move) : State :=
  let duty := min m.runDuty (m.duty + m.rampStep)
  let n := m.samples
  let s1 := s.modMove a (fun x => { x with duty := duty })
  let s2 := if n = Config.blankingSamples then s1.modChan a (fun c => { c with hallTimer := .start }) else s1
  if duty = m.runDuty ∧ Config.blankingSamples ≤ n then s2.enterRunning a else s2

/-- A RUNNING sample: the Ilr sum and the obstruction run (R23, R32). -/
def State.runningSample (s : State) (a : Axis) (m : Move) (i : Nat) : State :=
  let above := m.kind ≠ .homing ∧ m.threshold < i
  let run := if above then m.obstruction + 1 else 0
  let s1 := s.modMove a (fun x => { x with runSamples := m.runSamples + 1, runSum := m.runSum + i, obstruction := run })
  if 3 ≤ run then (s1.modChan a (fun c => { c with obstruction := true })).enterBraking a .obstructed none else s1

/-- One current sample of the given value in 0.1 A, 255 at most (R23). -/
def State.takeSample (s : State) (a : Axis) (tenths : Nat) : State :=
  let i := min 255 tenths
  let s1 := (s.addHeat a i).modMove a (fun m =>
    { m with samples := m.samples + 1, lowCurrent := m.lowCurrent && decide (i < Config.lowCurrentLimit) })
  match s1.ac[a].move with
  | none => s1
  | some m =>
    match s1.ac[a].motion with
    | .starting => s1.startingSample a m
    | .running => s1.runningSample a m i
    | _ => s1

/-! ## Own-leg drive (R28, R46, R48) -/

/-- The level of a common leg: a free one is low (R48). -/
def State.legLevel (s : State) (l : Leg) : Bool := s.da.legs[l].getD false

/-- Which of a dedicated pair's legs is high and which low for a direction (R46). -/
def pairHighLow (sense : Bool) (dir : Dir) (first second : Leg) : Leg × Leg :=
  if (dir == .positive) == sense then (second, first) else (first, second)

/-- The drive of the legs of a grant while its channel drives: off in a current-limit off time (R33), else switched at the duty in force. -/
def State.drivenLeg (s : State) (a : Axis) (g : Grant) (m : Move) : OwnLeg :=
  if m.inOffTime then .off else
  match g.commonLeg, g.secondLeg, s.driveAxis a with
  | some l, _, _ => .switched g.ownLeg (s.legLevel l) m.duty
  | none, some k, some d => .pair (pairHighLow d.sense m.dir g.ownLeg k).1 (pairHighLow d.sense m.dir g.ownLeg k).2 m.duty
  | none, _, _ => .off

/-- The own leg or legs of an axis in each motion state (R28, R48), under the map its grant was made under (R61, R190): on a common leg
they follow its level in RELEASING and BRAKING and switch against it while driving; a dedicated pair is driven by its direction, held low
in BRAKING and off in RELEASING; all are off in DWELL and in IDLE. -/
def State.ownLeg (s : State) (a : Axis) : OwnLeg :=
  match s.da.grants[a], s.ac[a].motion, s.ac[a].move with
  | none, _, _ => .off
  | some g, .releasing, _ => match g.commonLeg with | some l => .held g.ownLeg none (s.legLevel l) | none => .off
  | some g, .braking, _ => match g.commonLeg with | some l => .held g.ownLeg none (s.legLevel l) | none => .held g.ownLeg g.secondLeg false
  | some g, .starting, some m => s.drivenLeg a g m
  | some g, .running, some m => s.drivenLeg a g m
  | some _, _, _ => .off

end Machine
end Sys2Proof
end

