-- ==== Sys2Proof/Machine/Envelope.lean ====
section
/-! DEFINITION. The Envelope Unit (chapter 05): occupied intervals, rules in force, the envelope of an axis, and the rules two axes share. -/

namespace Sys2Proof
namespace Machine

/-- The rule table the unit uses: empty while RULES is invalid (R77). -/
def State.ruleTable (s : State) : List Clearance := s.st.rules.getD []

/-- The soft limits of an axis (R78); only read while DRIVE is valid. -/
def State.softRange (s : State) (a : Axis) : Nat × Nat :=
  match s.driveAxis a with
  | some d => (d.softLo, d.softHi)
  | none => (0, 0)

/-- The hull of two counts (00_scope, section 4.2). -/
def hull (x y : Nat) : Nat × Nat := (min x y, max x y)

/-- The interval an axis is taken to fill when others' envelopes are computed (R79). -/
def State.occupied (s : State) (y : Axis) : Nat × Nat :=
  let p := s.ac[y].position
  if s.validity[y] != .valid then s.softRange y else
  match s.da.grants[y] with
  | some g =>
    if g.entry.kind = .homing then s.softRange y
    else match g.stop with
      | some stop => hull p stop
      | none => (p, p)
  | none => (p, p)

/-- A zone widened by the guard and clipped to 0..32767 (R82, R83). -/
def guarded (z : Nat × Nat) (g : Nat) : Nat × Nat := (z.1 - g, min Config.maxPosition (z.2 + g))

/-- Two intervals meet (R82). -/
def meets (x y : Nat × Nat) : Bool := decide (x.1 ≤ y.2) && decide (y.1 ≤ x.2)

/-- A rule as axis x sees it: the x-zone, the other axis and its zone; none when it does not name x (R76). -/
def ruleFor (x : Axis) (r : Clearance) : Option ((Nat × Nat) × Axis × (Nat × Nat)) :=
  if r.axisA = x then some (r.zoneA, r.axisB, r.zoneB)
  else if r.axisB = x then some (r.zoneB, r.axisA, r.zoneA)
  else none

/-- The narrowing of an interval around a guarded x-zone for an axis at p (R83). -/
def narrow (p : Nat) (z : Nat × Nat) (e : Nat × Nat) : Nat × Nat :=
  if p < z.1 then (e.1, min e.2 (z.1 - 1))
  else if z.2 < p then (max e.1 (z.2 + 1), e.2)
  else if p - z.1 ≤ z.2 - p then (e.1, min e.2 p)
  else (max e.1 p, e.2)

/-- One rule's effect on the envelope of x at p: narrowed when the rule is in force (R82, R83). -/
def State.applyRule (s : State) (x : Axis) (p : Nat) (e : Nat × Nat) (r : Clearance) : Nat × Nat :=
  match ruleFor x r with
  | none => e
  | some (zx, y, zy) => if meets (s.occupied y) (guarded zy r.guard) then narrow p (guarded zx r.guard) e else e

/-- The interval the computation starts from (R81). -/
def startInterval (p lo hi : Nat) : Nat × Nat :=
  if p < lo then (p, hi) else if hi < p then (lo, p) else (lo, hi)

/-- The envelope of an axis, none for "not available" (R81 to R84). -/
def State.envelope (s : State) (x : Axis) : Option (Nat × Nat) :=
  match s.driveAxis x with
  | none => none
  | some d =>
    if s.validity[x] != .valid then none
    else
      let p := s.ac[x].position
      some (s.ruleTable.foldl (s.applyRule x p) (startInterval p d.softLo d.softHi))

/-- A target is within the envelope (R86). -/
def State.within (s : State) (x : Axis) (t : Nat) : Bool :=
  match s.envelope x with
  | some e => decide (e.1 ≤ t) && decide (t ≤ e.2)
  | none => false

/-- The envelope edge in a hold's direction (R87). -/
def edgeOf (dir : Dir) (e : Nat × Nat) : Nat :=
  match dir with
  | .positive => e.2
  | .negative => e.1

/-- A hold is at its limit (R87). -/
def State.atLimit (s : State) (x : Axis) (dir : Dir) : Bool :=
  match s.envelope x with
  | some e => decide (dist (edgeOf dir e) s.ac[x].position ≤ s.tolerance x)
  | none => true

/-- Two axes share a rule (R85). -/
def State.shareRule (s : State) (x y : Axis) : Bool :=
  s.ruleTable.any (fun r => (r.axisA == x && r.axisB == y) || (r.axisA == y && r.axisB == x))

end Machine
end Sys2Proof
end

