-- ==== Sys2Proof/Machine/Arbiter.lean ====
section
/-! DEFINITION. The Drive Arbiter (chapter 03): placing and removing wait-list entries, the terminal, wait and envelope
tests, grants and held grants, and the scan. -/

namespace Sys2Proof
namespace Machine

/-! ## The wait list (R54) -/

/-- The entry of an axis, if it has one. -/
def State.entryOf (s : State) (a : Axis) : Option WaitEntry := s.da.wait.find? (fun e => e.axis == a)

/-- A new entry stands after every entry of its own or a lower rank number (R54). -/
def insertEntry (e : WaitEntry) : List WaitEntry → List WaitEntry
  | [] => [e]
  | x :: rest => if e.rank < x.rank then e :: x :: rest else x :: insertEntry e rest

/-- The entries renumbered 0 upward in list order (R54). -/
def renumber : Nat → List WaitEntry → List WaitEntry
  | _, [] => []
  | n, e :: rest => { e with arrival := n } :: renumber (n + 1) rest

/-- The arrival number of a new entry, and the list it joins, renumbered when the 16-bit counter is at its end (R54). -/
def State.nextArrival (s : State) : Nat × List WaitEntry :=
  if 65535 ≤ s.da.arrival then (s.da.wait.length, renumber 0 s.da.wait) else (s.da.arrival + 1, s.da.wait)

/-- Place a move on the wait list (R54). An axis that already has an entry keeps its arrival number and bypass count, and with them its
class rank and its place on the list (log 56). The placement starts a scan (R59). -/
def State.place (s : State) (j : Slot) (a : Axis) (rank : Nat) (kind : MoveKind) (dir : Dir) (speed : Speed) (target : Option Nat) : State :=
  let s1 :=
    match s.entryOf a with
    | some _ =>
      s.setWait (s.da.wait.map (fun (x : WaitEntry) =>
        if x.axis = a then { x with slot := j, kind := kind, dir := dir, speed := speed, target := target } else x))
    | none =>
      let n := s.nextArrival
      let e : WaitEntry :=
        { axis := a, slot := j, rank := rank, arrival := n.1, bypass := 0, kind := kind, dir := dir, speed := speed, target := target }
      { s with da := { s.da with wait := insertEntry e n.2, arrival := n.1 } }
  s1.emit [.scan]

/-- Take an axis's entry off the list. -/
def State.dropEntry (s : State) (a : Axis) : State := s.setWait (s.da.wait.filter (fun e => e.axis != a))

/-- A held grant is withdrawn, with its reservation and any polarity it alone set (R168). -/
def State.withdraw (s : State) (a : Axis) : State :=
  let leg := s.grantLeg a
  (s.setGrant a none).freeLeg leg

/-- The axis holds a grant that is held for the marker write (R168). -/
def State.heldGrant (s : State) (a : Axis) : Option Grant :=
  match s.da.grants[a] with
  | some g => if g.held then some g else none
  | none => none

/-- An entry given back goes to its place by rank and arrival number (R168). -/
def returnEntry (e : WaitEntry) : List WaitEntry → List WaitEntry
  | [] => [e]
  | x :: rest => if e.rank < x.rank ∨ (e.rank = x.rank ∧ e.arrival < x.arrival) then e :: x :: rest else x :: returnEntry e rest

/-- A held grant goes back on the wait list with its arrival number and bypass count (R168). -/
def State.giveBack (s : State) (a : Axis) : State :=
  match s.heldGrant a with
  | some g =>
    let s1 := s.withdraw a
    { s1 with da := { s1.da with wait := returnEntry g.entry s1.da.wait, arrival := max s1.da.arrival g.entry.arrival } }
  | none => s

/-- A waiting entry or held grant meets a test. -/
def State.hasWork (s : State) (pickEntry : WaitEntry → Bool) : Bool :=
  s.da.wait.any pickEntry || axes.any (fun a => match s.heldGrant a with | some g => pickEntry g.entry | none => false)

/-- Remove the waiting entries and held grants of a job that a test picks (R54, R109, R168). The removal of one starts a scan
(R59); with none to remove nothing changes. -/
def State.dropWork (s : State) (pickEntry : WaitEntry → Bool) : State :=
  if !(s.hasWork pickEntry) then s else
  let s1 := s.setWait (s.da.wait.filter (fun e => !(pickEntry e)))
  let s2 := s1.each axes (fun t a => match t.heldGrant a with | some g => if pickEntry g.entry then t.withdraw a else t | none => t)
  s2.emit [.scan]

/-! ## Tests of one entry (R56 to R58) -/

/-- The terminal tests, in order; the first that fails gives the outcome and, for INTERLOCK, the predicate (R56). -/
def State.terminalTest (s : State) (e : WaitEntry) : Option (Code × Option Nat) :=
  if s.st.drive.isNone then some (.storeInvalid, none)
  else if s.barred e.axis then some (.lockedOut, none)
  else if s.tw[e.axis].hot then some (.hot, none)
  else if s.validity[e.axis] != .valid && e.kind != .homing then some (.unverified, none)
  else match s.falsePredicate (s.rankMask e.axis e.rank) e.axis with
    | some p => some (.interlock, some p.val)
    | none => none

/-- The level an entry needs of its common leg (R48): high when positive direction and sense agree. -/
def neededLevel (d : DriveAxis) (dir : Dir) : Bool := (dir == .positive) == d.sense

/-- The wait tests (R57). -/
def State.waitTest (s : State) (e : WaitEntry) : Bool :=
  match s.st.drive with
  | none => false
  | some c =>
    let d := c.axis[e.axis]
    s.ac[e.axis].motion == .idle
      && decide (s.reservedTotal + d.startRes ≤ c.bTotal)
      && (match d.commonLeg with
        | some l => decide (s.legSum l + d.startRes ≤ c.lMax[l])
            && (match s.da.legs[l] with | some v => v == neededLevel d e.dir | none => true)
        | none => true)
      && s.sp.power == .active && s.sp.cond == .normal
      && (s.st.rules.isSome || axes.all (fun a => s.da.grants[a].isNone))

/-- No other axis that shares a rule with a homed axis holds a grant (R58). -/
def State.homingClear (s : State) (a : Axis) : Bool :=
  axes.all (fun b => b == a || !(s.shareRule a b) || s.da.grants[b].isNone)

/-- The travel limit of a homing drive (R31). -/
def State.travelLimit (s : State) (a : Axis) : Nat := (s.softRange a).2 - (s.softRange a).1 + Config.homingSlack

/-- A target clipped to an interval (R88). -/
def clip (t : Nat) (e : Nat × Nat) : Nat := max e.1 (min e.2 t)

/-- What is decided for an entry that no terminal test removes (R57, R58). -/
def State.decideEntry (s : State) (e : WaitEntry) : Decision :=
  if !(s.waitTest e) then .wait else
  match e.kind with
  | .homing => if s.homingClear e.axis then .grant none none (some (s.travelLimit e.axis)) else .wait
  | .scene =>
    match e.target with
    | some t => if s.within e.axis t then .grant (some t) (some t) none else .remove .deferred
    | none => .remove .deferred
  | .hold =>
    match s.envelope e.axis with
    | some v =>
      if s.atLimit e.axis e.dir then .remove .limited else .grant none (some (edgeOf e.dir v)) none
    | none => .remove .limited
  | .backOff =>
    match s.envelope e.axis, e.target with
    | some v, some t =>
      if s.tolerance e.axis < dist (clip t v) s.ac[e.axis].position then .grant (some (clip t v)) (some (clip t v)) none
      else .remove .madeWithoutMotion
    | _, _ => .remove .madeWithoutMotion

/-! ## Grants -/

/-- The marker write: the last chunk of LEARNED with the marker at 0 and the checksum that brings the area's sum to 0
(R168, R195). -/
def StoreCtl.markerBytes (st : StoreCtl) : List (Nat × Byte) :=
  match st.learnedArea with
  | none => []
  | some (off, len) =>
    let m0 := memWrite st.memory (off + len - 2) 0#8
    let area := memBytes (len - 1) off (m0.filter (fun c => decide (off ≤ c.1)))
    [(off + len - 4, memRead st.memory (off + len - 4)), (off + len - 3, memRead st.memory (off + len - 3)),
     (off + len - 2, 0#8), (off + len - 1, 0#8 - byteSum area)]

/-- Start the marker write, or queue it behind a service write in progress (R168, R188). -/
def State.startMarkerWrite (s : State) : State :=
  match s.st.write with
  | none => { s with st := { s.st with write := some { kind := .marker, bytes := s.st.markerBytes, tag := 0#4, timer := .start }, markerQueued := false } }
  | some w => if w.kind = .marker then s else { s with st := { s.st with markerQueued := true } }

/-- The scene row of a move that is granted becomes GRANTED (R119). -/
def State.markGranted (s : State) (j : Slot) (a : Axis) : State :=
  s.modJob j (fun x =>
    { x with scene := x.scene.map (fun sc =>
        { sc with rows := sc.rows.map (fun r => if r.axis = a ∧ r.state = .waiting then { r with state := .granted } else r) }) })

/-- A common leg that is free takes the level of the move granted on it; one that is set keeps its own (R48). -/
def State.takeLeg (s : State) (l : Option Leg) (level : Bool) : State :=
  match l with
  | some l => if (s.da.legs[l]).isNone then s.setLeg l (some level) else s
  | none => s

/-- Grant an entry (R48, R49, R52, R53, R168): the table, the reservation and the leg; then the channel takes it, or it
is held while the marker write runs. -/
def State.grantEntry (s : State) (e : WaitEntry) (target stop travel : Option Nat) : State :=
  match s.driveAxis e.axis with
  | none => s
  | some d =>
    let held := s.sp.marker
    let g : Grant :=
      { entry := e
        target := target
        stop := stop
        travel := travel
        reservation := d.startRes
        commonLeg := d.commonLeg
        ownLeg := if d.common then d.leg2 else d.leg1
        secondLeg := if d.common then none else some d.leg2
        held := held }
    let s1 := ((s.dropEntry e.axis).setGrant e.axis (some g)).takeLeg d.commonLeg (neededLevel d e.dir)
    if held then s1.startMarkerWrite else (s1.startMove e.axis g).markGranted e.slot e.axis

/-! ## The scan (R55) -/

/-- One more passed entry (R55): bypass counts stop at 3. -/
def State.raiseBypass (s : State) (passed : List Axis) : State :=
  s.setWait (s.da.wait.map (fun e => if passed.contains e.axis then { e with bypass := min 3 (e.bypass + 1) } else e))

/-- The bypass count of an axis's entry has reached 3. -/
def State.bypassFull (s : State) (a : Axis) : Bool :=
  match s.entryOf a with
  | some e => decide (3 ≤ e.bypass)
  | none => false

/-- Held grants meet the terminal tests at each scan, as waiting entries do (R168): before the walk, in axis order, so that a withdrawn
reservation is free for the same scan (log 47). -/
def State.scanHeld (s : State) : State :=
  s.each axes (fun t a =>
    match t.heldGrant a with
    | none => t
    | some g =>
      match t.terminalTest g.entry with
      | some (c, p) => (t.withdraw a).emit [.removed g.entry (.terminal c p)]
      | none => t)

/-- The walk over the entries in list order, each with the bypass count it has by then. halted: no more grants; passed: the entries counted not
fitting so far. -/
def scanWalk : List WaitEntry → (halted : Bool) → (passed : List Axis) → State → State
  | [], _, _, s => s
  | e0 :: rest, halted, passed, s =>
    let e := (s.entryOf e0.axis).getD e0
    match s.terminalTest e with
    | some (c, p) => scanWalk rest halted passed ((s.dropEntry e.axis).emit [.removed e (.terminal c p)])
    | none =>
      if halted then scanWalk rest true passed s
      else
        match s.decideEntry e with
        | .wait => scanWalk rest (s.bypassFull e.axis) (passed ++ [e.axis]) s
        | .remove why => scanWalk rest false passed ((s.dropEntry e.axis).emit [.removed e why])
        | .grant target stop travel =>
          let s1 := (s.grantEntry e target stop travel).raiseBypass passed
          scanWalk rest (passed.any s1.bypassFull) passed s1

/-- One scan, taken whole (R55). -/
def State.scan (s : State) : State :=
  let s1 := s.scanHeld
  scanWalk s1.da.wait false [] s1

end Machine
end Sys2Proof
end

