-- ==== Sys2Proof/Machine/Operands.lean ====
section
/-! DEFINITION. What commands carry: the request kinds with their codes, argument ranges and permissions (chapters 11 and 13), the identifier
table, the answers and refusals, the result and page frames, and the fields of the data frames. -/

namespace Sys2Proof
namespace Machine

/-! ## Request kinds (tables 2 of 13, R172) -/

/-- The request kinds. -/
inductive ReqKind where
  | run | hold | release | stopJob | stopAll | clearFaults | home | trim | enterService | leaveService | storeRead | storeWrite
  | softReset
  deriving DecidableEq, Repr

/-- The code of a request kind (table 2 of 13). -/
def ReqKind.code : ReqKind → Byte
  | .run => 0x01#8 | .hold => 0x02#8 | .release => 0x03#8 | .stopJob => 0x04#8 | .stopAll => 0x05#8
  | .clearFaults => 0x06#8 | .home => 0x07#8 | .trim => 0x08#8 | .enterService => 0x09#8 | .leaveService => 0x0A#8
  | .storeRead => 0x0B#8 | .storeWrite => 0x0C#8 | .softReset => 0x0D#8

/-- The kind of a code, none for a code of no kind (table 2 of 13). -/
def reqKindOf (b : Byte) : Option ReqKind :=
  match b.toNat with
  | 1 => some .run | 2 => some .hold | 3 => some .release | 4 => some .stopJob | 5 => some .stopAll
  | 6 => some .clearFaults | 7 => some .home | 8 => some .trim | 9 => some .enterService | 10 => some .leaveService
  | 11 => some .storeRead | 12 => some .storeWrite | 13 => some .softReset | _ => none

/-- The length a kind uses (table 2 of 13). -/
def ReqKind.length : ReqKind → Nat
  | .run | .release | .stopJob | .clearFaults | .home => 3
  | .hold | .trim | .storeRead => 4
  | .stopAll | .enterService | .leaveService | .softReset => 2
  | .storeWrite => 8

/-- What a role may send (R172). Tailgate runs meet check 3 of R114 as well. -/
def permitted (r : Role) (k : ReqKind) : Bool :=
  match r, k with
  | .service, _ => true
  | .body, .run | .body, .hold | .body, .release | .body, .stopJob | .body, .stopAll | .body, .clearFaults => true
  | .tailgate, .run | .tailgate, .stopJob | .tailgate, .stopAll => true
  | .restraint, .stopAll => true
  | _, _ => false

/-- The kinds refused MODE in Service Mode at step 3 (R97). -/
def ReqKind.barredInService : ReqKind → Bool
  | .run | .hold | .release => true
  | _ => false

/-- Steps 1 to 3 of the acceptance checks (R97): the refusal they give, or none. -/
def State.gate (s : State) (r : Role) (k : ReqKind) (argsGood : Bool) : Option Code :=
  if !argsGood then some .badArgument
  else if !(permitted r k) then some .notPermitted
  else if k.barredInService && s.st.service then some .mode
  else none

/-! ## Arguments (table 2 of 13, R191) -/

/-- An axis argument, none outside 0..6. -/
def axisArg (b : Byte) : Option Axis := axisOfNat b.toNat

/-- An axis-set argument, none when empty or with bit 7 set (R151, R173, R191). -/
def setArg (b : Byte) : Option AxisSet :=
  if b = 0#8 ∨ b.getLsbD 7 then none else some (b.setWidth 7)

/-- A direction argument: 0 negative, 1 positive. -/
def dirArg (b : Byte) : Option Dir :=
  if b = 0#8 then some .negative else if b = 1#8 then some .positive else none

/-! ## Details of two bytes (R191) -/

/-- A detail of two bytes given byte by byte. -/
def pairDetail (x y : Byte) : BitVec 16 := x ++ y

/-- A detail that is one value of at most 255, or a position. -/
def wordDetail (n : Nat) : BitVec 16 := BitVec.ofNat 16 n

/-- The byte of a set of axes: bit n for An. -/
def setByte (m : AxisSet) : Byte := m.setWidth 8

/-- A one-byte axis field; none is 0xFF. -/
def axisByte (a : Option Axis) : Byte :=
  match a with
  | some x => BitVec.ofNat 8 x.val
  | none => 0xFF#8

/-! ## Answers and refusals (R98, R173) -/

/-- Why the checks of a kind refuse: the code, and failing axis and detail where the rule gives them. -/
structure Refused where
  code : Code
  failing : Option Axis
  detail : Option (BitVec 16)
  deriving DecidableEq, Repr

/-- Write an answer into a partner's pending-refusal slot (R98, R174). It overruns an unsent answer; replaced marks that
the one it replaced is in the transmit buffer. -/
def State.putAnswer (s : State) (r : Role) (x : Answer) : State :=
  match s.jm.answers[roleNo r] with
  | none => s.setAnswer r (some { x with overrun := false, loaded := false, replaced := false })
  | some old => s.setAnswer r (some { x with overrun := true, loaded := false, replaced := old.loaded })

/-- An answer with its detail; an outcome without a detail sends a free value (log 4). -/
def State.answerByte (s : State) (r : Role) (kind : Byte) (tag : BitVec 4) (x : Refused) : State :=
  s.putAnswer r
    { kind := kind
      tag := tag
      code := x.code
      failing := x.failing
      detail := x.detail.getD (Config.absentDetail kind.toNat x.code.byte.toNat)
      read := none
      overrun := false
      loaded := false
      replaced := false }

/-- An answer to a request of a known kind. -/
def State.answer (s : State) (r : Role) (k : ReqKind) (tag : BitVec 4) (x : Refused) : State := s.answerByte r k.code tag x

/-- A refusal or answer with a code alone. -/
def Refused.bare (c : Code) : Refused := { code := c, failing := none, detail := none }

/-- The answer of STORE_READ with its chunk and bytes (R192). -/
def State.answerRead (s : State) (r : Role) (tag : BitVec 4) (chunk : Nat) (bytes : List Byte) : State :=
  s.putAnswer r
    { kind := ReqKind.storeRead.code
      tag := tag
      code := .done
      failing := none
      detail := 0#16
      read := some (chunk, bytes)
      overrun := false
      loaded := false
      replaced := false }

/-! ## Identifiers (R170) -/

/-- The built-in partner table. -/
def builtInPartners : PartnerTable where
  request := #v[0x640#11, 0x642#11, 0x644#11, 0x646#11]
  result := #v[0x641#11, 0x643#11, 0x645#11, 0x647#11]
  vehicle := 0x650#11
  occupancy := 0x651#11
  base := 0x660#11
  access := #v[8, 10]
  back := #v[9, 11]

/-- The partner table in use (R170). -/
def State.partners (s : State) : PartnerTable := s.st.partners.getD builtInPartners

/-- The role whose request identifier an identifier is (R171). -/
def State.roleOf (s : State) (id : CanId) : Option Role := roles.find? (fun r => s.partners.request[roleNo r] == id)

/-! ## Frames the part sends -/

/-- The bytes of an answer (tables 3 and R192 of 13). -/
def Answer.frame (x : Answer) : List Byte :=
  let overrunBit : Byte := if x.overrun then 0x80#8 else 0#8
  match x.read with
  | some (n, bytes) =>
    [x.kind, x.tag.setWidth 8 ||| overrunBit ||| BitVec.ofNat 8 (16 * (n / 256 % 4)), x.code.byte, BitVec.ofNat 8 n] ++ bytes
  | none =>
    [x.kind, x.tag.setWidth 8 ||| overrunBit, x.code.byte, 0xFF#8, axisByte x.failing, (x.detail >>> 8).setWidth 8,
      x.detail.setWidth 8, 0#8]

/-- The request kind of a job's result (R94). A pad's job sends none. -/
def JobKind.req : JobKind → ReqKind
  | .hold => .hold | .run => .run | .home => .home

/-- The bytes of a job's result (table 3 of 13, R111). -/
def Job.frame (x : Job) (j : Slot) : List Byte :=
  [x.kind.req.code, x.tag.setWidth 8, codeByte x.outcome, BitVec.ofNat 8 j.val, axisByte x.failing,
    (x.detail >>> 8).setWidth 8, x.detail.setWidth 8, setByte x.offTarget]

/-- The sequence count joined to the first byte of a page or row. -/
def withSeq (seq : BitVec 4) (l : List Byte) : List Byte :=
  match l with
  | b :: rest => (b ||| (seq ++ 0#4)) :: rest
  | [] => []

/-- The four bytes of a row of page 4 or 5, from the page's buffer of seven rows of three bytes (table 9 of 13, R194). -/
def rowFrame (p : Page) (a : Axis) : List Byte :=
  withSeq p.seq (BitVec.ofNat 8 a.val :: (p.buffer.drop (3 * a.val)).take 3)

/-! ## Data frames (tables 5 and 6 of 13) -/

/-- A door code: two bits. -/
def doorOf (n : Nat) : Door :=
  match n % 4 with
  | 0 => .closed | 1 => .opened | _ => .unknown

/-- An Occupancy code: two bits. -/
def triOf (n : Nat) : Tri :=
  match n % 4 with
  | 0 => .no | 1 => .yes | _ => .unknown

def gearOf : Nat → Gear
  | 0 => .p | 1 => .r | 2 => .n | 3 => .d | _ => .unknown
def powerModeOf : Nat → PowerMode
  | 0 => .off | 1 => .accessory | 2 => .run | _ => .unknown

/-- The Vehicle Condition of a frame of at least 6 bytes (table 5 of 13, R132). -/
def vehicleOf (bs : List Byte) : Vehicle where
  speed := if wordAt bs 0 = 0xFFFF then none else some (wordAt bs 0)
  gear := gearOf (byteAt bs 2)
  power := powerModeOf (byteAt bs 3)
  rearLeft := doorOf (byteAt bs 4 / 16)
  rearRight := doorOf (byteAt bs 4 / 64)
  tailgate := doorOf (byteAt bs 5)

/-- A seat nibble (table 6 of 13). -/
def occupantOf (n : Nat) : Occupant where
  occupied := triOf n
  childSeat := triOf (n / 4)

/-- The Occupancy of S2..S6 in a frame of at least 4 bytes (table 6 of 13, R133). -/
def occupantsOf (bs : List Byte) : Vector Occupant 5 :=
  #v[occupantOf (byteAt bs 1), occupantOf (byteAt bs 1 / 16), occupantOf (byteAt bs 2), occupantOf (byteAt bs 2 / 16),
     occupantOf (byteAt bs 3)]

end Machine
end Sys2Proof
end

