-- ==== Sys2Proof/Machine/Jobs.lean ====
section
/-! DEFINITION. The Job Manager's shared operations (chapter 06): taking a slot, the decisive outcome, the abort of a scene, stopping a job,
and the DONE transition. -/

namespace Sys2Proof
namespace Machine

/-! ## Rows of a scene -/

/-- Change the scene of a job. -/
def State.modScene (s : State) (j : Slot) (f : Scene → Scene) : State :=
  s.modJob j (fun x => { x with scene := x.scene.map f })

/-- Change the row of an axis in a scene (R113: an axis stands in one move only). -/
def Scene.modRow (sc : Scene) (a : Axis) (f : Row → Row) : Scene :=
  { sc with rows := sc.rows.map (fun r => if r.axis = a then f r else r) }

/-- Change the row of an axis in a job's scene. -/
def State.modRow (s : State) (j : Slot) (a : Axis) (f : Row → Row) : State := s.modScene j (fun sc => sc.modRow a f)

/-- The row of an axis in a job's scene. -/
def Job.row (x : Job) (a : Axis) : Option Row :=
  match x.scene with
  | some sc => sc.rows.find? (fun r => r.axis == a)
  | none => none

/-- A row leaves its state for another; its deferral timer stops (R123). -/
def Row.enter (r : Row) (v : RowState) : Row := { r with state := v, timer := .stopped }

/-- A move becomes ENDED with an outcome that no move end of its own handed on (R119, R120, R129): the on-target result of its
last end stays. -/
def Row.endWith (r : Row) (c : Code) : Row := { r.enter .ended with lastEnd := some c }

/-- Change the homing list of a job. -/
def State.modHoming (s : State) (j : Slot) (f : Homing → Homing) : State :=
  s.modJob j (fun x => { x with homing := x.homing.map f })

/-- Nothing more is homed under this job (R109, R125, R152). -/
def State.overHoming (s : State) (j : Slot) : State := s.modHoming j (fun h => { h with stage := .idle })

/-! ## The end of a job's work -/

/-- The running block reports the work finished: an ACTIVE job becomes ENDING and its hold timer stops (R93, R101, R110). -/
def State.finishWork (s : State) (j : Slot) : State :=
  (s.modJob j (fun x =>
    if x.state = .done then x else
    { x with
      finished := true
      state := .ending
      holdTimer := x.holdTimer.hold })).emit [.doneCheck j]

/-- The entry is a back-off after an obstructed scene move (R54). -/
def WaitEntry.obstructed (e : WaitEntry) : Bool := e.kind == .backOff && e.rank == 0

/-- A job's claimed axes that a stop request reaches (R27, R109, R125); spareBackOff leaves its back-offs after an
obstruction alone (R125). -/
def State.jobAxes (s : State) (x : Job) (j : Slot) (spareBackOff : Bool) : List Axis :=
  (AxisSet.list x.claimed).filter (fun a =>
    s.ac[a].motion.stoppable &&
      (match s.ac[a].move with
        | some m => m.job == some j && !(spareBackOff && m.kind == .backOff && m.rank == 0)
        | none => false))

/-- What an abort makes of a row (R125). -/
def Row.abort (r : Row) : Row :=
  match r.state with
  | .pending | .waiting | .deferred => r.enter .notRun
  | .paused => r.enter .ended
  | _ => r

/-- The abort of an ACTIVE scene at its first decisive outcome (R125); all its stops come before the first scan (log 65). -/
def State.abortScene (s : State) (j : Slot) : State :=
  match s.jm.slots[j] with
  | none => s
  | some x =>
    let s1 := (s.modScene j (fun sc => { sc with rows := sc.rows.map Row.abort })).overHoming j
    let s2 := s1.dropWork (fun e => e.slot == j && !e.obstructed)
    let s3 := s2.each (s2.jobAxes x j true) (fun t a => t.stopAxis a .stopped none)
    match x.scene with
    | some sc => if sc.backOffs = 0 then s3.finishWork j else s3
    | none => s3.finishWork j

/-- A homing job's decisive outcome: nothing more is placed, and its entry leaves the list with its work (R152, R153). -/
def State.endHoming (s : State) (j : Slot) : State :=
  (((s.overHoming j).dropWork (fun e => e.slot == j))).finishWork j

/-- A decisive outcome reaches a job (R103, R124): the first one fixes the outcome, the failing axis and what goes with it, and ends an ACTIVE
scene or homing. -/
def State.takeOutcome (s : State) (j : Slot) (code : Code) (failing : Option Axis) (aux : Option Nat) : State :=
  match s.jm.slots[j] with
  | none => s
  | some x =>
    if x.state = .done ∨ x.outcome.isSome then s else
    let s1 := s.modJob j (fun y => { y with outcome := some code, failing := failing, aux := aux })
    if x.state = .active then
      match x.cls with
      | .scene => s1.abortScene j
      | .service => s1.endHoming j
      | .attended => s1
    else s1

/-- The row's back-off is still on the wait list or held (R130, R168). -/
def State.backOffUngranted (s : State) (j : Slot) (a : Axis) : Bool :=
  (match s.entryOf a with | some e => e.slot == j && e.kind == .backOff | none => false)
    || (match s.heldGrant a with | some g => g.entry.slot == j && g.entry.kind == .backOff | none => false)

/-- What a stop makes of a row (R130): as an abort, and a back-off not yet granted ends. -/
def State.stopRow (s : State) (j : Slot) (r : Row) : Row :=
  match r.state with
  | .backingOff => if s.backOffUngranted j r.axis then r.enter .ended else r
  | _ => r.abort

/-- The rows a stop has left, and the back-offs still outstanding after it (R127, R130). -/
def State.stopScene (s : State) (j : Slot) (sc : Scene) : Scene :=
  { sc with
    rows := sc.rows.map (s.stopRow j)
    backOffs := sc.backOffs - (sc.rows.filter (fun r => r.state == .backingOff && s.backOffUngranted j r.axis)).length }

/-- An ACTIVE job is ended from outside (R101, R104, R109, R130): by a stop, a release, an expiry or a stuck button. code is the outcome its
stop requests carry; outcome is the decisive one, none for a release. All its stops come before the first scan (log 65). -/
def State.haltJob (s : State) (j : Slot) (code : Code) (outcome : Option Code) : State :=
  match s.jm.slots[j] with
  | none => s
  | some x =>
    if x.state ≠ .active then s else
    let s1 := s.modJob j (fun y =>
      { y with
        state := .ending
        finished := true
        holdTimer := y.holdTimer.hold
        outcome := y.outcome.or outcome
        scene := y.scene.map (s.stopScene j) })
    let s2 := (s1.overHoming j).dropWork (fun e => e.slot == j)
    (s2.each (s2.jobAxes x j false) (fun t a => t.stopAxis a code none)).emit [.doneCheck j]

/-- A stop with outcome STOPPED (R109). -/
def State.stopJob (s : State) (j : Slot) : State := s.haltJob j .stopped (some .stopped)

/-! ## The DONE transition (R110) -/

/-- The DONE condition (R110). -/
def State.doneReady (s : State) (j : Slot) (x : Job) : Bool :=
  x.state != .done && (x.state == .ending || x.finished)
    && (AxisSet.list x.claimed).all (fun a => s.ac[a].motion.atRest)
    && latches.all (fun l => !(s.lc[l].relock == .pending && s.lc[l].relockJob == some j))
    && !x.waitsPause

/-- The detail of a hold job (R103). -/
def State.holdDetail (s : State) (x : Job) (code : Code) : BitVec 16 :=
  if code = .interlock then wordDetail (x.aux.getD 0)
  else match x.axis with
    | some a => if s.validity[a] = .unhomed then 0xFFFF#16 else wordDetail s.ac[a].position
    | none => 0xFFFF#16

/-- The detail of a scene job (R124). -/
def sceneDetail (x : Job) (sc : Scene) (code : Code) : BitVec 16 :=
  let first : Byte := match sc.phase with | some p => BitVec.ofNat 8 p | none => 0xFF#8
  let second := if code = .interlock ∨ code = .blocked then x.aux.getD 0 else sc.number
  pairDetail first (BitVec.ofNat 8 second)

/-- The detail of a homing job (R155). -/
def homingDetail (x : Job) (h : Homing) (code : Code) : BitVec 16 :=
  let second : Byte := if code = .interlock then BitVec.ofNat 8 (x.aux.getD 0) else axisByte h.last
  pairDetail (setByte h.madeValid) second

/-- The detail by class. -/
def State.jobDetail (s : State) (x : Job) (code : Code) : BitVec 16 :=
  match x.cls, x.scene, x.homing with
  | .scene, some sc, _ => sceneDetail x sc code
  | .service, _, some h => homingDetail x h code
  | _, _, _ => s.holdDetail x code

/-- The off-target set of a scene (R124); a hold and a homing job leave it empty (R94, R155). -/
def Job.offTargets (x : Job) : AxisSet :=
  match x.scene with
  | some sc => AxisSet.ofList ((sc.rows.filter (fun r => r.onTarget == some false && r.state != .notRun && r.state != .skipped)).map (fun r => r.axis))
  | none => 0#7

/-- A slot off the three class lists, with its claims released (R95, R96, R110). -/
def JobManager.leave (jm : JobManager) (j : Slot) : JobManager :=
  { jm with
    attended := jm.attended.filter (fun k => k != j)
    scenes := jm.scenes.filter (fun k => k != j)
    services := jm.services.filter (fun k => k != j)
    claims := jm.claims.map (fun c => if c = some j then none else c) }

/-- The axes of a job have no owner any more (R96, R110). -/
def State.releaseAxes (s : State) (j : Slot) : State :=
  { s with ac := s.ac.map (fun c => { c with move := c.move.map (fun m => if m.job = some j then { m with job := none } else m) }) }

/-- The record of a job that is DONE, its outcome fixed and its detail and off-target set written (R103, R110). -/
def State.doneRecord (s : State) (x : Job) : Job :=
  { x with
    state := .done
    outcome := some (x.outcome.getD .done)
    detail := s.jobDetail x (x.outcome.getD .done)
    offTarget := x.offTargets
    holdTimer := x.holdTimer.hold }

/-- What the DONE transition makes of the Job Manager: a partner's slot joins the done list; a pad's is FREE at once, with the outcome in the
pad's field (R105, R110). -/
def JobManager.complete (jm : JobManager) (j : Slot) (y : Job) : JobManager :=
  let left := jm.leave j
  match y.source with
  | .partner _ => { left with slots := left.slots.set j (some y), doneList := left.doneList ++ [j] }
  | .pad p => { left with slots := left.slots.set j none, lastPad := left.lastPad.set (padNo p) y.outcome }

/-- The DONE transition (R105, R110). -/
def State.completeJob (s : State) (j : Slot) (x : Job) : State :=
  { s.releaseAxes j with jm := s.jm.complete j (s.doneRecord x) }

/-- A job whose DONE condition holds reaches DONE (R110). -/
def State.doneCheck (s : State) (j : Slot) : State :=
  match s.jm.slots[j] with
  | some x => if s.doneReady j x then s.completeJob j x else s
  | none => s

/-! ## Acceptance (R92 to R97) -/

/-- The lowest FREE slot of 0..13 (R92). -/
def State.freeSlot (s : State) : Option Slot := partnerSlots.find? (fun j => !(s.slotBusy j))

/-- Steps 5 and 6 for a partner's request (R97). -/
def State.slotFor (s : State) (r : Role) : Except Code Slot :=
  match s.freeSlot with
  | none => .error .noSlot
  | some j => if 4 ≤ s.partnerCount r then .error .quota else .ok j

/-- Step 5 for a pad's press (R97, R104). -/
def State.slotForPad (s : State) (p : Pad) : Except Code Slot :=
  if s.slotBusy (padSlot p) then .error .noSlot else .ok (padSlot p)

/-- An accepted request becomes a job: its slot, its claims and its class-list place (R93 to R96). -/
def JobManager.take (jm : JobManager) (j : Slot) (x : Job) : JobManager :=
  { jm with
    slots := jm.slots.set j (some x)
    attended := if x.cls = .attended then jm.attended ++ [j] else jm.attended
    scenes := if x.cls = .scene then jm.scenes ++ [j] else jm.scenes
    services := if x.cls = .service then jm.services ++ [j] else jm.services
    claims := Vector.ofFn (fun a => if AxisSet.has x.claimed a then some j else jm.claims[a]) }

/-- A job takes its slot; the park-quiet timer stops (R165). -/
def State.takeSlot (s : State) (j : Slot) (x : Job) : State :=
  { s with
    jm := s.jm.take j x
    sp := { s.sp with parkQuiet := .stopped } }

/-- A new job record (R94). -/
def Job.fresh (cls : JobClass) (source : Source) (tag : BitVec 4) (kind : JobKind) (claimed : AxisSet) : Job where
  state := .active
  cls := cls
  source := source
  tag := tag
  kind := kind
  button := none
  axis := none
  dir := none
  claimed := claimed
  scene := none
  homing := none
  outcome := none
  failing := none
  aux := none
  detail := 0#16
  offTarget := 0#7
  holdTimer := .stopped
  finished := false
  waitsPause := false

end Machine
end Sys2Proof
end

