-- ==== Sys2Proof/Machine/Scenes.lean ====
section
/-! DEFINITION. The Scene Sequencer and the homing sequencer (chapters 07 and 09) as pieces of work on one job: phase walks, move ends, re-tests,
BLOCKED, back-offs, the pause, and the steps of a homing list. -/

namespace Sys2Proof
namespace Machine

/-! ## Shared tests -/

/-- An ACTIVE job that no decisive outcome has reached: the scenes and homings that go on. -/
def Job.running (x : Job) : Bool := x.state == .active && x.outcome.isNone

/-- The job in a slot when it goes on. -/
def State.runningJob (s : State) (j : Slot) : Option Job :=
  match s.jm.slots[j] with
  | some x => if x.running then some x else none
  | none => none

/-- The scene in a slot. -/
def State.sceneOf (s : State) (j : Slot) : Option Scene := s.jm.slots[j].bind (fun x => x.scene)

/-- The axis's relock check, opened by a move of the job, is pending (R68, R110). -/
def State.relockPending (s : State) (j : Slot) (a : Axis) : Bool :=
  match s.latch a with
  | some l => l.relock == .pending && l.relockJob == some j
  | none => false

/-- A row is ended-ok (section 7.3). -/
def State.endedOk (s : State) (j : Slot) (r : Row) : Bool :=
  r.state == .ended && r.lastEnd == some .done && !(s.relockPending j r.axis)

/-- A row is unfinished (section 7.3). -/
def Row.unfinished (r : Row) : Bool :=
  match r.state with
  | .pending | .waiting | .deferred | .granted | .backingOff | .paused => true
  | _ => false

/-- The rows of the current phase, in record order. -/
def Scene.phaseRows (sc : Scene) : List Row := sc.rows.filter (fun r => sc.phase == some r.phase)

/-- A target lies within the axis's tolerance of its position (R118). -/
def State.onPlace (s : State) (a : Axis) (t : Nat) : Bool := decide (dist s.ac[a].position t ≤ s.tolerance a)

/-- Place a scene move toward its target at rank 1 (R118). The direction of a target equal to the position is free (log 6). -/
def State.placeRow (s : State) (j : Slot) (r : Row) : State :=
  let p := s.ac[r.axis].position
  let s1 := s.modRow j r.axis (fun x => x.enter .waiting)
  if p < r.target then s1.place j r.axis 1 .scene .positive r.speed (some r.target)
  else if r.target < p then s1.place j r.axis 1 .scene .negative r.speed (some r.target)
  else s1.coin.2.place j r.axis 1 .scene (if s1.coin.1 then .positive else .negative) r.speed (some r.target)

/-- A move becomes ENDED with an outcome that decides the job (R118, R119, R129). -/
def State.failRow (s : State) (j : Slot) (a : Axis) (c : Code) (pred : Option Nat) : State :=
  (s.modRow j a (fun r => r.endWith c)).takeOutcome j c (some a) pred

/-- A move becomes DEFERRED and its timer starts at 0 (R118, R119, R123). -/
def State.deferRow (s : State) (j : Slot) (a : Axis) : State :=
  s.modRow j a (fun r => { r with state := .deferred, timer := .start })

/-! ## Phases (R117, R118) -/

/-- The least of a list of numbers. -/
def leastOf : List Nat → Option Nat
  | [] => none
  | n :: rest => match leastOf rest with | some m => some (min n m) | none => some n

/-- The next phase above the current one that holds a move, or the lowest one when none was started (R117). -/
def Scene.nextPhase (sc : Scene) : Option Nat :=
  leastOf ((sc.rows.map (fun r => r.phase)).filter (fun n => match sc.phase with | some p => decide (p < n) | none => true))

/-- Start the next phase, or report the work finished when none remains (R117). -/
def State.startNextPhase (s : State) (j : Slot) : State :=
  match s.sceneOf j with
  | none => s
  | some sc =>
    match sc.nextPhase with
    | none => s.finishWork j
    | some n =>
      (s.modScene j (fun y => { y with phase := some n })).emit
        [.phaseRows j ((sc.rows.filter (fun r => r.phase == n)).map (fun r => r.axis))]

/-- One move of a phase-start walk (R118). -/
def State.startRow (s : State) (j : Slot) (r : Row) : State :=
  if s.validity[r.axis] ≠ .valid then s.failRow j r.axis .unverified none
  else if s.onPlace r.axis r.target then s.modRow j r.axis (fun x => x.enter .skipped)
  else if s.within r.axis r.target then s.placeRow j r
  else s.deferRow j r.axis

/-- The walk of a phase start, one move at a time: each placement's scan comes before the next move (R118). The end of the
walk makes the BLOCKED test, and ends a phase whose moves are all skipped. -/
def State.walkPhase (s : State) (j : Slot) (l : List Axis) : State :=
  match s.runningJob j with
  | none => s
  | some x =>
    match l with
    | [] => s.emit [.blockedTest j, .phaseCheck j]
    | a :: rest =>
      match x.row a with
      | some r => (s.startRow j r).emit [.phaseRows j rest]
      | none => s.emit [.phaseRows j rest]

/-- The phase ends when every one of its moves is ended-ok or SKIPPED (R117). -/
def State.phaseCheck (s : State) (j : Slot) : State :=
  match s.runningJob j with
  | none => s
  | some x =>
    match x.scene with
    | none => s
    | some sc =>
      if sc.phase.isSome && sc.phaseRows.all (fun r => s.endedOk j r || r.state == .skipped) then s.startNextPhase j else s

/-! ## BLOCKED and re-tests (R121 to R123) -/

/-- The BLOCKED test (R122). -/
def State.blockedTest (s : State) (j : Slot) : State :=
  match s.runningJob j with
  | none => s
  | some x =>
    match x.scene with
    | none => s
    | some sc =>
      match sc.phaseRows.find? (fun r => r.state == .deferred) with
      | none => s
      | some first =>
        if sc.phaseRows.all (fun r => !r.unfinished || r.state == .deferred) && axes.all (fun a => s.ac[a].motion.atRest)
        then s.takeOutcome j .blocked none (some first.axis.val) else s

/-- One DEFERRED move of a re-test: orders 1, 3 and 4 of R118 (R121). -/
def State.retestRow (s : State) (j : Slot) (r : Row) : State :=
  if r.state ≠ .deferred then s
  else if s.validity[r.axis] ≠ .valid then s.failRow j r.axis .unverified none
  else if s.within r.axis r.target then s.placeRow j r
  else s

/-- The re-test of one job's DEFERRED moves, one at a time, and the BLOCKED test after it (R121), which comes before the re-tests of the
jobs taken after this one (log 51). -/
def State.retestWalk (s : State) (j : Slot) (l : List Axis) : State :=
  match s.runningJob j with
  | none => s
  | some x =>
    match l with
    | [] => s.emit [.blockedTest j]
    | a :: rest =>
      match x.row a with
      | some r => (s.retestRow j r).emit [.retestRows j rest]
      | none => s.emit [.retestRows j rest]

/-- The DEFERRED moves of a job's current phase, in record order. -/
def State.deferredAxes (s : State) (j : Slot) : List Axis :=
  match s.runningJob j with
  | some x => match x.scene with
    | some sc => (sc.phaseRows.filter (fun r => r.state == .deferred)).map (fun r => r.axis)
    | none => []
  | none => []

/-- The re-test event (R121): every job with DEFERRED moves re-tests its own, the jobs in a free order (log 6). -/
def State.retest (s : State) : State :=
  let o := s.shuffled (s.jm.scenes.filter (fun j => !(s.deferredAxes j).isEmpty))
  o.2.emit (o.1.map (fun j => Task.retestRows j (s.deferredAxes j)))

/-! ## Back-offs (R88, R126, R127) -/

/-- A back-off's requested target: the final position moved against the move by the back-off distance, within 0..32767 (R88). -/
def backOffTarget (p : Nat) (dir : Dir) (n : Nat) : Nat :=
  match dir with
  | .positive => p - n
  | .negative => min Config.maxPosition (p + n)

/-- The back-off distance of an axis; 0 while DRIVE is invalid, when nothing moves. -/
def State.backOffBy (s : State) (a : Axis) : Nat :=
  match s.driveAxis a with
  | some d => d.backOff
  | none => 0

/-- A scene move that ended OBSTRUCTED in an ACTIVE job is backed off (R126). -/
def State.backOffRow (s : State) (j : Slot) (a : Axis) (p : Nat) : State :=
  let dir := s.ac[a].lastDir
  let s1 := s.modScene j (fun sc => { sc.modRow a (fun r => r.enter .backingOff) with backOffs := sc.backOffs + 1 })
  s1.place j a 0 .backOff dir.opposite .quiet (some (backOffTarget p dir (s.backOffBy a)))

/-- A back-off has ended: its move is ENDED, and with none outstanding the aborted scene's work is finished (R127). -/
def State.backOffEnded (s : State) (j : Slot) (a : Axis) : State :=
  let s1 := s.modScene j (fun sc => { sc.modRow a (fun r => r.enter .ended) with backOffs := sc.backOffs - 1 })
  match s1.sceneOf j with
  | some sc => if sc.backOffs = 0 then s1.finishWork j else s1
  | none => s1

/-! ## The pause within a scene (R128, R129) -/

/-- A PAUSED move at a resume within the window (R129). -/
def State.resumeRow (s : State) (j : Slot) (r : Row) : State :=
  if r.state ≠ .paused then s
  else if s.validity[r.axis] ≠ .valid then s.failRow j r.axis .unverified none
  else if s.onPlace r.axis r.target then
    (s.modRow j r.axis (fun x => { x.endWith .done with onTarget := some true })).emit [.phaseCheck j]
  else s.placeRow j r

/-- The PAUSED moves of a job at a resume, one at a time, in record order (R129). -/
def State.resumeWalk (s : State) (j : Slot) (l : List Axis) : State :=
  match s.runningJob j with
  | none => s
  | some x =>
    match l with
    | [] => s
    | a :: rest =>
      match x.row a with
      | some r => (s.resumeRow j r).emit [.resumeRows j rest]
      | none => s.emit [.resumeRows j rest]

/-- The PAUSED moves of a job. -/
def Job.pausedAxes (x : Job) : List Axis :=
  match x.scene with
  | some sc => (sc.rows.filter (fun r => r.state == .paused)).map (fun r => r.axis)
  | none => []

/-- The expiry of the window for a scene with PAUSED moves: they are ENDED with SUPPLY_FAULT, which decides the job with no failing axis
(R129). -/
def State.expireRows (s : State) (j : Slot) : State :=
  (s.modScene j (fun sc =>
    { sc with rows := sc.rows.map (fun r => if r.state = .paused then r.endWith .supplyFault else r) })).takeOutcome j .supplyFault none none

/-! ## Move ends of a scene (R120) -/

/-- The end of a granted scene move (R120). A pause end is taken by how its pause stands (R129). An end handed on again while the row's
back-off is outstanding becomes its last end and leaves it BACKING_OFF (log 55); one for a row that is NOT_RUN makes it ENDED (log 66). -/
def State.sceneEnd (s : State) (j : Slot) (x : Job) (e : MoveEnd) : State :=
  let backing : Bool := match x.row e.axis with | some r => r.state == .backingOff | none => false
  let s1 := s.modRow j e.axis (fun r => { r with lastEnd := some e.code, lastPos := some e.position, onTarget := some e.onTarget })
  let ended := if backing then s1 else s1.modRow j e.axis (fun r => r.enter .ended)
  match e.code with
  | .done => ended.emit [.phaseCheck j]
  | .stopped => ended
  | .obstructed =>
    if x.state = .active then (s1.backOffRow j e.axis e.position).takeOutcome j .obstructed (some e.axis) none
    else ended.takeOutcome j .obstructed (some e.axis) none
  | .paused =>
    if x.running then
      let s2 := s1.modRow j e.axis (fun r => r.enter .paused)
      match e.pauseEnd with
      | none => s2
      | some .resumed => s2.emit [.resumeRows j [e.axis]]
      | some .expired => s2.expireRows j
    else ended
  | c => ended.takeOutcome j c (some e.axis) e.pred

/-! ## Homing (R149 to R155) -/

/-- The homing direction of an axis. Without DRIVE the entry is removed STORE_INVALID at its first scan (R56). -/
def State.homingDir (s : State) (a : Axis) : Dir :=
  match s.driveAxis a with
  | some d => d.homingDir
  | none => .negative

/-- Place the homing drive of an axis (R152). -/
def State.placeDrive (s : State) (j : Slot) (a : Axis) : State :=
  (s.modHoming j (fun h => { h with stage := .drive, last := some a })).place j a 2 .homing (s.homingDir a) .homing none

/-- Place the back-off after a homing stop, toward a requested target (R153). -/
def State.placeHomingBackOff (s : State) (j : Slot) (a : Axis) (t : Nat) : State :=
  (s.modHoming j (fun h => { h with stage := .backOff t })).place j a 2 .backOff (s.homingDir a).opposite .quiet (some t)

/-- Home the next axis of the list; an empty list finishes a homing job, or starts the scene's first phase (R116, R153). -/
def State.homeNext (s : State) (j : Slot) : State :=
  match s.runningJob j with
  | none => s
  | some x =>
    match x.homing with
    | none => s
    | some h =>
      match h.list with
      | a :: _ => s.placeDrive j a
      | [] => if x.cls = .scene then s.startNextPhase j else s.finishWork j

/-- The homing of the axis in hand has ended well (R153). -/
def State.axisHomed (s : State) (j : Slot) : State :=
  (s.modHoming j (fun h => { h with list := h.list.drop 1, stage := .idle })).emit [.homeNext j]

/-- The end of the pause for a homing list in hand (R154). -/
def State.resumeHoming (s : State) (j : Slot) : State :=
  match s.runningJob j with
  | none => s
  | some x =>
    match x.homing with
    | none => s
    | some h =>
      match h.list, h.stage with
      | a :: _, .pausedDrive => s.placeDrive j a
      | a :: _, .pausedBackOff t => s.placeHomingBackOff j a t
      | _, _ => s

/-- The expiry of the window for a paused homing: SUPPLY_FAULT with the paused axis (R154). -/
def State.expireHoming (s : State) (j : Slot) (a : Axis) : State :=
  (s.overHoming j).takeOutcome j .supplyFault (some a) none

/-- A homing drive or back-off of the axis in hand ended PAUSED (R154). -/
def State.pauseHoming (s : State) (j : Slot) (a : Axis) (stage : HomingStage) (pe : Option PauseEnd) : State :=
  let s1 := s.modHoming j (fun h => { h with stage := stage })
  match pe with
  | none => s1
  | some .resumed => s1.emit [.resumeHoming j]
  | some .expired => s1.expireHoming j a

/-- An outcome that reaches a homing job without ending the axis in hand: decisive unless it is DONE, STOPPED or PAUSED (R152, R153). -/
def State.homingOutcome (s : State) (j : Slot) (e : MoveEnd) : State :=
  match e.code with
  | .done | .stopped | .paused => s
  | c => (s.overHoming j).takeOutcome j c (some e.axis) e.pred

/-- The end of a homing drive or of its back-off (R152, R153). A drive that ends DONE made its axis VALID (R150, R155),
one that was VALID before as well (log 53). -/
def State.homingEnd (s : State) (j : Slot) (h : Homing) (e : MoveEnd) : State :=
  let s1 := if e.kind = .homing ∧ e.code = .done then s.modHoming j (fun y => { y with madeValid := y.madeValid ||| AxisSet.one e.axis }) else s
  if h.list.head? ≠ some e.axis then s1.homingOutcome j e else
  match h.stage, e.code with
  | .drive, .done => s1.placeHomingBackOff j e.axis (backOffTarget e.position s.ac[e.axis].lastDir (s.backOffBy e.axis))
  | .drive, .paused => s1.pauseHoming j e.axis .pausedDrive e.pauseEnd
  | .drive, .stopped => s1.overHoming j
  | .backOff _, .done => s1.axisHomed j
  | .backOff t, .paused => s1.pauseHoming j e.axis (.pausedBackOff t) e.pauseEnd
  | .backOff _, .stopped => s1.overHoming j
  | _, _ => s1.homingOutcome j e

/-! ## Hold jobs (R102) -/

/-- The end of a hold's move (R102, R103). -/
def State.holdEnd (s : State) (j : Slot) (e : MoveEnd) : State :=
  match e.code with
  | .done => s.finishWork j
  | .paused =>
    ((s.takeOutcome j .supplyFault (some e.axis) none).modJob j (fun x => { x with waitsPause := e.pauseEnd.isNone })).finishWork j
  | c => (s.takeOutcome j c (some e.axis) e.pred).finishWork j

/-! ## What the Drive Arbiter, the channels and the latches hand on -/

/-- A move end reaches the job that owns the move (R39, R102, R120, R152). -/
def State.takeMoveEnd (s : State) (e : MoveEnd) : State :=
  match s.jm.slots[e.slot] with
  | none => s
  | some x =>
    if x.state = .done then s else
    let backing : Bool := match x.row e.axis with | some r => r.state == .backingOff | none => false
    let s1 :=
      match e.kind with
      | .hold => s.holdEnd e.slot e
      | .scene => s.sceneEnd e.slot x e
      | .backOff =>
        if backing then s.backOffEnded e.slot e.axis
        else match x.homing with | some h => s.homingEnd e.slot h e | none => s
      | .homing => match x.homing with | some h => s.homingEnd e.slot h e | none => s
    s1.emit [.doneCheck e.slot]

/-- The row of an axis is WAITING_GRANT: an abort in the same event has not dropped it (R119, R125). -/
def State.rowWaits (s : State) (j : Slot) (a : Axis) : Bool :=
  match s.jm.slots[j].bind (fun x => x.row a) with
  | some r => r.state == .waiting
  | none => false

/-- An entry taken off the wait list without a grant goes back to its job (R56, R58, R60). -/
def State.takeRemoved (s : State) (e : WaitEntry) (why : Removal) : State :=
  match s.jm.slots[e.slot] with
  | none => s
  | some _ =>
    let s1 :=
      match e.kind, why with
      | .backOff, .terminal c p => if e.obstructed then s.backOffEnded e.slot e.axis else (s.overHoming e.slot).takeOutcome e.slot c (some e.axis) p
      | .backOff, _ => if e.obstructed then s.backOffEnded e.slot e.axis else s.axisHomed e.slot
      | .hold, .terminal c p => (s.takeOutcome e.slot c (some e.axis) p).finishWork e.slot
      | .hold, _ => (s.takeOutcome e.slot .doneLimited (some e.axis) none).finishWork e.slot
      | .scene, .terminal c p => if s.rowWaits e.slot e.axis then s.failRow e.slot e.axis c p else s
      | .scene, _ => if s.rowWaits e.slot e.axis then (s.deferRow e.slot e.axis).emit [.blockedTest e.slot] else s
      | .homing, .terminal c p => (s.overHoming e.slot).takeOutcome e.slot c (some e.axis) p
      | .homing, _ => s
    s1.emit [.doneCheck e.slot]

/-- A relock check fails for a row: a move that has ended, or that waits to be granted again, becomes ENDED with LATCH_NOT_ENGAGED (R120).
One that has been granted again stays GRANTED and ends with the outcome of its own end (R125; log 58). -/
def Row.relockFailed (r : Row) : Row :=
  match r.state with
  | .ended | .paused | .waiting | .deferred => r.endWith .latchNotEngaged
  | _ => r

/-- A failed relock check decides a job that no decisive outcome has reached, and its row follows; a decided job keeps its outcome and its
moves (R103, R120, R125, R127; log 59). -/
def State.relockFails (s : State) (a : Axis) (j : Slot) : State :=
  match s.jm.slots[j] with
  | some x => if x.outcome.isNone then (s.modRow j a Row.relockFailed).takeOutcome j .latchNotEngaged (some a) none else s
  | none => s

/-- The decision of a relock check reaches the job of the move that opened it (R68, R103, R120, R153). -/
def State.takeRelock (s : State) (a : Axis) (j : Slot) (passed : Bool) : State :=
  (if passed then s.emit [.phaseCheck j] else s.relockFails a j).emit [.doneCheck j]

end Machine
end Sys2Proof
end

