-- ==== Sys2Proof/Machine/Accept.lean ====
section
/-! DEFINITION. The acceptance checks that partners and pads share, and what an accepted hold, run or homing request becomes (R97, R99,
R114, R115, R151). -/

namespace Sys2Proof
namespace Machine

/-! ## Holds (R99) -/

/-- Step 4 of a new hold (R99). -/
def State.holdCheck (s : State) (a : Axis) (dir : Dir) : Option Refused :=
  match s.jm.claims[a] with
  | some j => some { code := .busy, failing := none, detail := some (wordDetail j.val) }
  | none =>
    if s.validity[a] ≠ .valid then some (.bare .unverified)
    else if s.barred a then some (.bare .lockedOut)
    else match s.falsePredicate (s.attendedMask a) a with
      | some p => some { code := .notAllowed, failing := none, detail := some (wordDetail p.val) }
      | none => if s.atLimit a dir then some { code := .atLimit, failing := none, detail := some (wordDetail s.ac[a].position) } else none

/-- The job of an accepted hold (R94, R99, R104). -/
def holdJob (source : Source) (tag : BitVec 4) (button : Option Button) (a : Axis) (dir : Dir) (timer : Timer) : Job :=
  { Job.fresh .attended source tag .hold (AxisSet.one a) with
    button := button
    axis := some a
    dir := some dir
    holdTimer := timer }

/-- An accepted hold: a job that claims the axis, with its entry on the wait list at rank 0 (R99, R104). -/
def State.acceptHold (s : State) (j : Slot) (source : Source) (tag : BitVec 4) (button : Option Button) (a : Axis) (dir : Dir) (timer : Timer) : State :=
  (s.takeSlot j (holdJob source tag button a dir timer)).place j a 0 .hold dir .normal none

/-! ## Arrangements (R114, R115) -/

/-- The axes of an arrangement's moves. -/
def Arrangement.axes (x : Arrangement) : AxisSet := AxisSet.ofList (x.moves.map (fun m => m.axis))

/-- The claimed set: with AUTO_HOME every axis of the part that is not VALID as well (R115). -/
def State.claimSet (s : State) (x : Arrangement) : AxisSet :=
  if x.autoHome then x.axes ||| AxisSet.ofList (axes.filter (fun a => s.validity[a] != .valid)) else x.axes

/-- The run needs the predicate of an axis (check 7 of R114); P0 and P1 are the same for every axis. -/
def State.runNeeds (s : State) (x : Arrangement) (claimed : AxisSet) (n : Fin 5) (a : Axis) : Bool :=
  (AxisSet.has claimed a && (s.automaticMask a).getLsbD n.val)
    || (n == 1 && x.parkRequired)
    || (n == 4 && x.rearAccess && AxisSet.has x.axes a)

/-- Check 7 of R114: the lowest-numbered false predicate needed, and the lowest-numbered axis that needs it false, none for P0
and P1. -/
def State.runPredicate (s : State) (x : Arrangement) (claimed : AxisSet) : Option Refused :=
  (predNos.find? (fun n => axes.any (fun a => s.runNeeds x claimed n a && !(s.predicate n a)))).map (fun n =>
    { code := .notAllowed
      failing := if n.val < 2 then none else axes.find? (fun a => s.runNeeds x claimed n a && !(s.predicate n a))
      detail := some (wordDetail n.val) })

/-- Busy with the lowest-numbered claimed axis of a set and its owning slot (R114, R151, R173). -/
def State.claimedCheck (s : State) (m : AxisSet) : Option Refused :=
  (lowestAxis m (fun a => s.jm.claims[a].isSome)).map (fun a =>
    { code := .busy
      failing := some a
      detail := some (wordDetail (match s.jm.claims[a] with | some j => j.val | none => 0)) })

/-- LOCKED_OUT with the lowest-numbered barred axis of a set (R114, R151). -/
def State.barredCheck (s : State) (m : AxisSet) : Option Refused :=
  (lowestAxis m s.barred).map (fun a => { code := .lockedOut, failing := some a, detail := none })

/-- The valid arrangement of a number (R114). -/
def State.arrangement (s : State) (n : Nat) : Option Arrangement := (s.st.arrangements.getD []).find? (fun x => x.number == n)

/-- Step 4 of a run (R114). tailgate: the sender is the tailgate controller. -/
def State.runCheck (s : State) (tailgate : Bool) (n : Nat) : Except Refused Arrangement :=
  match s.arrangement n with
  | none => .error (.bare .unknownArrangement)
  | some x =>
    if s.st.drive.isNone || s.st.rules.isNone then .error (.bare .storeInvalid)
    else if tailgate && !x.cargo then .error (.bare .notPermitted)
    else
      let claimed := s.claimSet x
      let unverified : Option Refused :=
        if x.autoHome then none
        else (lowestAxis x.axes (fun a => s.validity[a] != .valid)).map (fun a => { code := .unverified, failing := some a, detail := none })
      match (((s.claimedCheck claimed).or (s.barredCheck claimed)).or unverified).or (s.runPredicate x claimed) with
      | some e => .error e
      | none => .ok x

/-- The rows of an arrangement's moves, in record order, each PENDING (R113, R115). -/
def Arrangement.rows (x : Arrangement) : List Row :=
  x.moves.map (fun m =>
    { axis := m.axis
      phase := m.phase
      target := m.target
      speed := if x.quiet || m.quiet then .quiet else .normal
      state := .pending
      timer := .stopped
      lastEnd := none
      lastPos := none
      onTarget := none })

/-- A homing list at its start. -/
def Homing.start (l : List Axis) : Homing := { list := l, stage := .idle, madeValid := 0#7, last := none }

/-- The axes an accepted run has to home first, in the homing order (R116). -/
def State.homingQueue (s : State) (x : Arrangement) : List Axis :=
  if x.autoHome then s.homingOrder.filter (fun a => AxisSet.has (s.claimSet x) a && s.validity[a] != .valid) else []

/-- The job of an accepted run (R94, R115, R116). -/
def State.runJob (s : State) (source : Source) (tag : BitVec 4) (button : Option Button) (x : Arrangement) : Job :=
  { Job.fresh .scene source tag .run (s.claimSet x) with
    button := button
    scene := some { number := x.number, rows := x.rows, phase := none, backOffs := 0 }
    homing := if (s.homingQueue x).isEmpty then none else some (.start (s.homingQueue x)) }

/-- An accepted run: a scene job, with its auto-home begun or its lowest phase started (R115, R116). -/
def State.acceptRun (s : State) (j : Slot) (source : Source) (tag : BitVec 4) (button : Option Button) (x : Arrangement) : State :=
  let s1 := s.takeSlot j (s.runJob source tag button x)
  if (s.homingQueue x).isEmpty then s1.startNextPhase j else s1.emit [.homeNext j]

/-! ## Homing (R151) -/

/-- P0 and P1 (R139, R151, R187). -/
def State.standingCheck (s : State) : Option Refused :=
  if !s.standstill then some { code := .notAllowed, failing := none, detail := some (wordDetail 0) }
  else if !s.inPark then some { code := .notAllowed, failing := none, detail := some (wordDetail 1) }
  else none

/-- Step 4 of HOME_AXES (R151). -/
def State.homeCheck (s : State) (m : AxisSet) : Option Refused :=
  (s.standingCheck.or (s.claimedCheck m)).or (s.barredCheck m)

/-- The job of an accepted homing request (R94, R151). -/
def State.homeJob (s : State) (r : Role) (tag : BitVec 4) (m : AxisSet) : Job :=
  { Job.fresh .service (.partner r) tag .home m with
    homing := some (.start (s.homingOrder.filter (fun a => AxisSet.has m a))) }

/-- An accepted homing request (R151). -/
def State.acceptHome (s : State) (j : Slot) (r : Role) (tag : BitVec 4) (m : AxisSet) : State :=
  (s.takeSlot j (s.homeJob r tag m)).emit [.homeNext j]

end Machine
end Sys2Proof
end

