-- ==== Sys2Proof/Machine/Pads.lean ====
section
/-! DEFINITION. What the Pad Scanner hands to the Job Manager (R104, R105, R108, R178 to R181). -/

namespace Sys2Proof
namespace Machine

/-- The axis and direction of a hold button; none for ACCESS (R178). -/
def padMove (p : Pad) (b : Button) : Option (Axis × Dir) :=
  match p, b with
  | .left, .slideFwd => some (0, .positive) | .left, .slideRear => some (0, .negative)
  | .left, .backFold => some (2, .positive) | .left, .backUp => some (2, .negative)
  | .right, .slideFwd => some (1, .positive) | .right, .slideRear => some (1, .negative)
  | .right, .backFold => some (3, .positive) | .right, .backUp => some (3, .negative)
  | _, .access => none

/-- The primary seat of a pad (R178). -/
def primarySeat : Pad → SeatNo
  | .left => 2 | .right => 4

/-- The ACTIVE scene jobs (R108). -/
def State.activeScenes (s : State) : List Slot :=
  s.jm.scenes.filter (fun j => match s.jm.slots[j] with | some x => x.state == .active | none => false)

/-- A counted press of a hold button (R104). -/
def State.padHold (s : State) (p : Pad) (b : Button) (a : Axis) (dir : Dir) : State :=
  if s.st.service then s.setLastPad p (some .mode)
  else match s.holdCheck a dir with
    | some e => s.setLastPad p (some e.code)
    | none => match s.slotForPad p with
      | .error c => s.setLastPad p (some c)
      | .ok j => s.acceptHold j (.pad p) 0#4 (some b) a dir .stopped

/-- The arrangement an ACCESS press names (R181). -/
def State.accessNumber (s : State) (p : Pad) : Nat :=
  if s.seatUse (primarySeat p) = .usable then s.partners.access[padNo p] else s.partners.back[padNo p]

/-- A counted press of ACCESS (R105, R181). -/
def State.padAccess (s : State) (p : Pad) : State :=
  if s.st.service then s.setLastPad p (some .mode)
  else match s.runCheck false (s.accessNumber p) with
    | .error e => s.setLastPad p (some e.code)
    | .ok x => match s.slotForPad p with
      | .error c => s.setLastPad p (some c)
      | .ok j => s.acceptRun j (.pad p) 0#4 (some .access) x

/-- A counted press (R104, R105, R108): with a scene ACTIVE it stops every ACTIVE scene, in the order of their
acceptance (log 57) and all before the first scan (log 65), and is consumed. -/
def State.countPress (s : State) (p : Pad) (b : Button) : State :=
  match s.activeScenes with
  | j :: rest => s.each (j :: rest) State.stopJob
  | [] => match padMove p b with
    | some (a, dir) => s.padHold p b a dir
    | none => s.padAccess p

/-- A pad counts a press and is ENGAGED with it (R179). -/
def State.engage (s : State) (p : Pad) (b : Button) : State :=
  (s.modPad p (fun x => { x with cond := .engaged b })).countPress p b

/-- At ACTIVE entry a FREE pad with a button pressed counts the earliest (R179). -/
def State.padEntry (s : State) (p : Pad) : State :=
  match s.ps[padNo p].cond, s.ps[padNo p].pressed with
  | .free, (b, _) :: _ => s.engage p b
  | _, _ => s

/-- The pad's ACTIVE hold job is ended from outside (R104): by the release of its button, or as stuck. -/
def State.endPadHold (s : State) (p : Pad) (code : Code) (outcome : Option Code) : State :=
  match s.jm.slots[padSlot p] with
  | some x => if x.kind = .hold then s.haltJob (padSlot p) code outcome else s
  | none => s

end Machine
end Sys2Proof
end

