-- ==== Sys2Proof/Machine/Settle.lean ====
section
/-! DEFINITION. What follows every event inside the same event: the work it has raised, the page buffers, the transmit buffer and the
park-quiet timer. -/

namespace Sys2Proof
namespace Machine

/-! ## The work one event raises (log 2) -/

/-- Do one piece of work. -/
def State.runTask (s : State) (t : Task) : State :=
  match t with
  | .scan => s.scan
  | .moveEnd e => s.takeMoveEnd e
  | .removed e why => s.takeRemoved e why
  | .relock a j passed => s.takeRelock a j passed
  | .retest => s.retest
  | .retestRows j l => s.retestWalk j l
  | .phaseRows j l => s.walkPhase j l
  | .phaseCheck j => s.phaseCheck j
  | .blockedTest j => s.blockedTest j
  | .homeNext j => s.homeNext j
  | .resumeRows j l => s.resumeWalk j l
  | .resumeHoming j => s.resumeHoming j
  | .doneCheck j => s.doneCheck j
  | .padEntry p => s.padEntry p

/-- The work hands a move end, a removal or a relock decision to the job in a slot. -/
def Task.reaches (t : Task) (j : Slot) : Bool :=
  match t with
  | .moveEnd e => e.slot == j
  | .removed e _ => e.slot == j
  | .relock _ k _ => k == j
  | _ => false

/-- A DONE check that waits for what the same event still hands to its job, and is made again after that (R110, R120): a job whose
two axes stop in one event takes both ends. -/
def Task.waitsFor (t : Task) (rest : List Task) : Bool :=
  match t with
  | .doneCheck j => rest.any (fun u => u.reaches j)
  | _ => false

/-- One piece of raised work, and what it raises itself before the rest. -/
def State.settleOnce (s : State) (t : Task) (rest : List Task) : State :=
  if t.waitsFor rest then { s with raised := rest } else
  let s1 := { s with raised := [] }.runTask t
  { s1 with raised := s1.raised ++ rest }

/-- The raised work done in order, at most fuel pieces of it. -/
def settle : (fuel : Nat) → State → State
  | 0, s => s
  | fuel + 1, s =>
    match s.raised with
    | [] => s
    | t :: rest => settle fuel (s.settleOnce t rest)

/-! ## Page buffers (R17, R175) -/

/-- A page takes a content (R175, R176): nothing when it holds it already; else the buffer changes, with the mark clear the count goes up by
one and the mark is set, and a page whose send timer has reached 50 ms falls due with that. -/
def Page.write (p : Page) (content : List Byte) : Page :=
  if p.buffer = content then p
  else { p with
    buffer := content
    changed := true
    seq := if p.changed then p.seq else p.seq + 1#4
    due := p.due || decide (50 ≤ p.timer.ms) }

/-- Every page takes its content (R17). -/
def State.publish (s : State) : State :=
  { s with np := { s.np with pages := Vector.ofFn (fun p => s.np.pages[p].write (s.pageContent p)) } }

/-! ## The transmit buffer (R174, R176, R194) -/

/-- Load a frame. -/
def State.load (s : State) (id : CanId) (data : List Byte) (source : TxSource) : State :=
  { s with np := { s.np with tx := some { id := id, data := data, source := source } } }

/-- The identifier of a page (R170). -/
def State.pageId (s : State) (p : PageNo) : CanId := s.partners.base + BitVec.ofNat 11 p.val

/-- The first role in role order with an answer waiting (R174). -/
def State.answerReady (s : State) : Option (Role × Answer) :=
  roles.findSome? (fun r => (s.jm.answers[roleNo r]).map (fun x => (r, x)))

/-- The result identifier of a role (R170). -/
def State.resultId (s : State) (r : Role) : CanId := s.partners.result[roleNo r]

/-- Load an answer; its slot keeps it, marked as in transmission (R174). -/
def State.loadAnswer (s : State) (r : Role) (x : Answer) : State :=
  (s.setAnswer r (some { x with loaded := true })).load (s.resultId r) x.frame (.answer r)

/-- Load the result at the head of the done list (R111). -/
def State.loadResult (s : State) (j : Slot) (x : Job) : State :=
  match x.source with
  | .partner r => s.load (s.resultId r) (x.frame j) (.result j)
  | .pad _ => s

/-- The head of the done list with its record (R174). -/
def State.resultReady (s : State) : Option (Slot × Job) :=
  match s.jm.doneList with
  | j :: _ => (s.jm.slots[j]).map (fun x => (j, x))
  | [] => none

/-- A page counts as sent at the loading of its frame, or of its A0 row (R175, R194). -/
def Page.sent (p : Page) : Page := { p with changed := false, due := false, timer := .start }

/-- Load a page: the frame of pages 0 to 3, or the A0 row of pages 4 and 5, whose other rows wait (R175, R194). -/
def State.loadPage (s : State) (p : PageNo) : State :=
  let page := s.np.pages[p]
  let s1 := s.modPage p Page.sent
  if p.val < 4 then s1.load (s.pageId p) (withSeq page.seq page.buffer) (.page p)
  else
    let s2 := s1.load (s.pageId p) (rowFrame page 0) (.row p 0)
    { s2 with np := { s2.np with rows := [(p, 1), (p, 2), (p, 3), (p, 4), (p, 5), (p, 6)] } }

/-- Load the next waiting row (R194). -/
def State.loadRow (s : State) (p : PageNo) (a : Axis) (rest : List (PageNo × Axis)) : State :=
  let s1 := s.load (s.pageId p) (rowFrame s.np.pages[p] a) (.row p a)
  { s1 with np := { s1.np with rows := rest } }

/-- A page's send is due; in PARK only a page with its mark set is sent (R174, R176). -/
def State.pageReady (s : State) (p : PageNo) : Bool := s.np.pages[p].due && (s.sp.power != .park || s.np.pages[p].changed)

/-- The lowest page that is ready (R174). -/
def State.duePage (s : State) : Option PageNo := pageNos.find? s.pageReady

/-- Load from the third group: rows that wait, then pages that are due (R174, R194), after a rejoin as well (log 63). -/
def State.pumpPages (s : State) : State :=
  match s.np.rows with
  | (p, a) :: rest => s.loadRow p a rest
  | [] => match s.duePage with
    | some p => s.loadPage p
    | none => s

/-- Load the next frame when the transmit buffer is empty and the bus is usable: answers, results, rows, pages; in PARK rows and pages alone
(R174, R176). -/
def State.pump (s : State) : State :=
  if s.np.tx.isSome || s.np.busOff then s
  else if s.sp.power = .park then s.pumpPages
  else match s.answerReady with
    | some (r, x) => s.loadAnswer r x
    | none => match s.resultReady with
      | some (j, x) => s.loadResult j x
      | none => s.pumpPages

/-! ## The park-quiet timer (R165) -/

/-- What must hold for 3 s before the part parks (R165). -/
def State.parkReady (s : State) : Bool :=
  s.sp.power == .active && s.iu.vehicleFresh && s.iu.vehicle.power == .off && s.noJob
    && axes.all (fun a => s.ac[a].motion == .idle) && !s.st.service

/-- The park-quiet timer starts when the last condition comes to hold and stops at 0 when one fails (R165). -/
def State.parkUpdate (s : State) : State :=
  let t : Timer := if s.parkReady then (if s.sp.parkQuiet.running then s.sp.parkQuiet else .start) else .stopped
  { s with sp := { s.sp with parkQuiet := t } }

/-- The arrival counter returns to 0 at an event that leaves the wait list empty (R54). -/
def State.arrivalUpdate (s : State) : State :=
  { s with da := { s.da with arrival := if s.da.wait.isEmpty then 0 else s.da.arrival } }

/-- The work an event has raised is over with the event (log 2). -/
def State.settled (s : State) : State := { settle Config.settleFuel s with raised := [] }

/-- What ends every event. -/
def State.conclude (s : State) : State := s.settled.arrivalUpdate.parkUpdate.publish.pump

end Machine
end Sys2Proof
end

