-- ==== Sys2Proof/Machine/ChannelEvents.lean ====
section
/-! DEFINITION. The meanings of the channel events (chapters 02 and 03, R158, R159): samples, Hall edges, timeouts, the current limits, the ends of
BRAKING and DWELL, the cooling step. -/

namespace Sys2Proof
namespace Machine

/-- The answer of every meaning: the next state, with all that follows inside the event. -/
def State.done (s : State) : Host.Outcome State Fault Refusal := .next s.conclude

/-! ## Current samples and the own-leg limit -/

/-- A sample falls due in STARTING or RUNNING; in an off time it waits for the end of the off time (R23). -/
def State.sampleDue (s : State) (a : Axis) (tenths : Nat) : State :=
  match s.ac[a].move with
  | none => s
  | some m =>
    if !s.ac[a].motion.driving then s
    else if m.inOffTime then s.modMove a (fun x => { x with sampleWaits := true })
    else s.takeSample a tenths

/-- CURRENT_SAMPLE (R21, R23, R32, R158). -/
def execCurrentSample (a : Axis) (tenths : Nat) (s : State) : Host.Outcome State Fault Refusal := (s.sampleDue a tenths).done

/-- A limit event in STARTING or RUNNING (R33): the leg goes off for its off time; the sixth event ends the move. -/
def State.limitEvent (s : State) (a : Axis) : State :=
  match s.ac[a].move with
  | none => s
  | some m =>
    if !s.ac[a].motion.driving || m.inOffTime then s
    else
      let s1 := (s.modChan a (fun c => { c with limitSeen := true })).modMove a (fun x => { x with limitEvents := m.limitEvents + 1 })
      if m.limitEvents + 1 < 6 then s1.modMove a (fun x => { x with inOffTime := true, offTimer := .start })
      else (s1.modChan a (fun c => { c with overcurrent := true, lockedOut := true })).enterBraking a .overcurrent none

/-- CURRENT_LIMIT_EVENT (R33). -/
def execCurrentLimitEvent (a : Axis) (s : State) : Host.Outcome State Fault Refusal := (s.limitEvent a).done

/-- The off time ends: the leg resumes, and a sample that waited is taken (R23, R33). -/
def State.offTimeOver (s : State) (a : Axis) (tenths : Nat) : State :=
  match s.ac[a].move with
  | none => s
  | some m =>
    if !s.ac[a].motion.driving || !m.inOffTime then s
    else
      let s1 := s.modMove a (fun x => { x with inOffTime := false, offTimer := .stopped, sampleWaits := false })
      if m.sampleWaits then s1.takeSample a tenths else s1

/-- OFF_TIME_END (R23, R33). -/
def execOffTimeEnd (a : Axis) (tenths : Nat) (s : State) : Host.Outcome State Fault Refusal := (s.offTimeOver a tenths).done

/-! ## Common-leg overcurrent (R50) -/

/-- The leg is a common leg of the map (R46). -/
def State.isCommonLeg (s : State) (l : Leg) : Bool :=
  axes.any (fun a => match s.driveAxis a with | some d => d.commonLeg == some l | none => false)

/-- The members of the leg's group in RELEASING, STARTING or RUNNING (R50). -/
def State.legDrivers (s : State) (l : Leg) : List Axis :=
  axes.filter (fun a => s.grantLeg a == some l && s.ac[a].motion.stoppable)

/-- The leg fault latches, and the driving members receive OVERCURRENT, in a free order (R50; log 6), all of them before the first scan (log 65). In
PARK nothing is measured (R45). -/
def State.legOvercurrent (s : State) (l : Leg) : State :=
  if s.sp.power = .park || !(s.isCommonLeg l) || s.da.legFault[l] then s
  else
    let s1 := { s with da := { s.da with legFault := s.da.legFault.set l true } }
    let o := s1.shuffled (s1.legDrivers l)
    o.2.each o.1 (fun t a => t.stopAxis a .overcurrent none)

/-- COMMON_LEG_OVERCURRENT (R50). -/
def execCommonLegOvercurrent (l : Leg) (s : State) : Host.Outcome State Fault Refusal := (s.legOvercurrent l).done

/-! ## Hall edges (R24 to R26, R31, R34, R35) -/

/-- A stray edge (R25, R148). -/
def State.strayEdge (s : State) (a : Axis) : State :=
  let s1 := s.modChan a (fun c => { c with stray := min 255 (c.stray + 1) })
  if s.ac[a].stray + 1 = Config.strayLimit then s1.demote a .unverified else s1

/-- The position after an edge in the last direction, none when it would pass 0 or 32767 (R24, R35). -/
def Channel.stepped (c : Channel) : Option Nat :=
  match c.lastDir with
  | .positive => if c.position < Config.maxPosition then some (c.position + 1) else none
  | .negative => if c.position = 0 then none else some (c.position - 1)

/-- An edge that would pass a limit, outside a homing drive (R35): the axis is UNHOMED, and HALL_FAULT ends the move or replaces its
outcome. An end handed on again keeps the final position and the on-target result of its DWELL entry (R39). -/
def State.saturate (s : State) (a : Axis) : State :=
  let s1 := s.setValidity a .unhomed
  match s1.ac[a].motion with
  | .releasing => ((s1.dropSolenoid a).modMove a (fun m => { m with pending := some .hallFault, pendingPred := none })).enterDwell a
  | .starting | .running => s1.enterBraking a .hallFault none
  | .braking =>
    (s1.modMove a (fun m => { m with pending := some .hallFault, pendingPred := none })).modChan a (fun c => { c with restTimer := .start })
  | .dwell | .idle =>
    let s2 := (s1.modMove a (fun m => { m with pending := some .hallFault, pendingPred := none })).modChan a (fun c => { c with lastOutcome := some .hallFault })
    s2.emit (s2.ac[a].moveEnd a)

/-- What a counted edge can set off while the channel drives, beside the sensor fault of its new position. -/
inductive EdgeCause where
  | sensor | brakingPoint | travel | noise
  deriving DecidableEq, Repr

/-- The remaining distance to a stop point (R26). -/
def remaining (dir : Dir) (p stop : Nat) : Int :=
  match dir with
  | .positive => (stop : Int) - p
  | .negative => (p : Int) - stop

/-- The braking point is reached (R26). -/
def Channel.atBrakingPoint (c : Channel) (m : Move) : Bool :=
  match m.stop with
  | some t => decide (remaining m.dir c.position t ≤ c.coast)
  | none => false

/-- The causes an edge sets off, at the state after it is counted. spaced: the edge came less than 1.0 ms after another edge in STARTING or
RUNNING (R34). -/
def State.edgeCauses (s : State) (a : Axis) (spaced : Bool) : List EdgeCause :=
  let driving := s.ac[a].motion.driving
  match s.ac[a].move with
  | none => if s.sensorFaulty a then [.sensor] else []
  | some m =>
    (if s.sensorFaulty a then [.sensor] else [])
      ++ (if driving && s.ac[a].atBrakingPoint m then [.brakingPoint] else [])
      ++ (if driving && (match m.travel with | some t => decide (t ≤ m.edges) | none => false) then [.travel] else [])
      ++ (if driving && spaced then [.noise] else [])

/-- One cause; once the channel brakes, a later one ends nothing (R38). -/
def State.edgeCause (s : State) (a : Axis) (c : EdgeCause) : State :=
  match c with
  | .sensor => s.sensorTest a
  | .brakingPoint =>
    if s.ac[a].motion.driving then (s.modMove a (fun m => { m with endedAtStop := true })).enterBraking a .done none else s
  | .travel => if s.ac[a].motion.driving then s.enterBraking a .homingFailed none else s
  | .noise => if s.ac[a].motion.driving then (s.enterBraking a .hallFault none).setValidity a .unhomed else s

/-- The bookkeeping of a counted edge: the edge count, the timers it restarts, and the hold of its latch (R24, R28, R30, R65). -/
def State.countEdge (s : State) (a : Axis) (p : Nat) : State :=
  let s1 := s.modChan a (fun c =>
    { c with
      position := p
      hallTimer := if c.hallTimer.running then .start else c.hallTimer
      restTimer := if c.motion = .braking then .start else c.restTimer
      move := c.move.map (fun m => { m with edges := m.edges + 1, drivenEdge := m.drivenEdge || c.motion.driving }) })
  s1.holdClears a

/-- A Hall edge counted in a move: causes that fall together are taken in a free order (R38; log 6). -/
def State.moveEdge (s : State) (a : Axis) (p gapMicros : Nat) : State :=
  let spaced := decide (gapMicros < 1000) && (match s.ac[a].move with | some m => m.drivenEdge | none => false)
  let s1 := s.countEdge a p
  let o := s1.shuffled (s1.edgeCauses a spaced)
  o.2.each o.1 (fun t c => t.edgeCause a c)

/-- The channel's move is a homing drive; its move state stays after DWELL, so IDLE needs its own test (R31, R35). -/
def Channel.homingDrive (c : Channel) : Bool :=
  match c.move with
  | some m => m.kind == .homing
  | none => false

/-- A Hall edge (R24, R25, R35). In PARK no edge is seen (R45). -/
def State.hallEdge (s : State) (a : Axis) (gapMicros : Nat) : State :=
  if s.sp.power = .park then s
  else if s.ac[a].motion = .idle && !(s.solenoidDriven a) then s.strayEdge a
  else match s.ac[a].stepped with
    | some p => s.moveEdge a p gapMicros
    | none => if s.ac[a].homingDrive && s.ac[a].motion != .idle then s.moveEdge a s.ac[a].position gapMicros else s.saturate a

/-- HALL_EDGE (R24). -/
def execHallEdge (a : Axis) (gapMicros : Nat) (s : State) : Host.Outcome State Fault Refusal := (s.hallEdge a gapMicros).done

/-! ## The Hall timeout (R30, R31, R37, R150) -/

/-- The position a homing stop gives; a home reference above 32767 is a free value (log 5). -/
def State.homePosition (s : State) (a : Axis) : Nat :=
  match s.driveAxis a with
  | some d => if d.homeRef ≤ Config.maxPosition then d.homeRef else min Config.maxPosition (Config.homeBeyondRange d.homeRef)
  | none => s.ac[a].position

/-- A STALLED outcome: the stall flag, the streak, and LOCKED_OUT at the third (R30, R37). -/
def Channel.stalled (c : Channel) : Channel :=
  { c with stall := true, streak := min 3 (c.streak + 1), lockedOut := c.lockedOut || decide (3 ≤ c.streak + 1) }

/-- The Hall timeout expires in STARTING after blanking, or in RUNNING. -/
def State.hallTimeout (s : State) (a : Axis) : State :=
  match s.ac[a].move with
  | none => s
  | some m =>
    if !s.ac[a].motion.driving || !s.ac[a].hallTimer.running then s
    else if m.lowCurrent then (s.modChan a (fun c => { c with lockedOut := true })).enterBraking a .motorOpen none
    else if m.kind = .homing then
      ((s.enterBraking a .done none).modChan a (fun c => { c with position := s.homePosition a })).sensorTest a
    else (s.modChan a Channel.stalled).enterBraking a .stalled none

/-- HALL_TIMEOUT (R30). -/
def execHallTimeout (a : Axis) (s : State) : Host.Outcome State Fault Refusal := (s.hallTimeout a).done

/-! ## The ends of BRAKING and DWELL -/

/-- BRAKING ends 80 ms after the last edge (R28). -/
def State.brakingOver (s : State) (a : Axis) : State :=
  if s.ac[a].motion = .braking then s.enterDwell a else s

/-- BRAKING_END (R28, R39). -/
def execBrakingEnd (a : Axis) (s : State) : Host.Outcome State Fault Refusal := (s.brakingOver a).done

/-- DWELL ends after 150 ms, and the Drive Arbiter scans (R29). -/
def State.dwellOver (s : State) (a : Axis) : State :=
  if s.ac[a].motion = .dwell then (s.modChan a (fun c => { c with motion := .idle, restTimer := .stopped })).emit [.scan] else s

/-- DWELL_EXPIRY (R29). -/
def execDwellExpiry (a : Axis) (s : State) : Host.Outcome State Fault Refusal := (s.dwellOver a).done

/-! ## Cooling (R159 to R161) -/

/-- H after a cooling step (R159). -/
def cooled (h : Nat) : Nat := h - (h / 64 + 1)

/-- ESTIMATED clears at or below half of heat_resume (R161). -/
def State.estimatedAfter (s : State) (h : Nat) (e : Bool) : Bool := e && !(decide (h ≤ s.heatResume / 2))

/-- The cooling timer reaches 1 s (R159). -/
def State.coolStep (s : State) (a : Axis) : State :=
  if s.tw[a].cooling.running then
    let h := cooled s.tw[a].heat
    s.modHeat a (fun t => { t with heat := h, cooling := .start, hot := s.hotAfter h t.hot, estimated := s.estimatedAfter h t.estimated })
  else s

/-- COOLING_STEP (R159). -/
def execCoolingStep (a : Axis) (s : State) : Host.Outcome State Fault Refusal := (s.coolStep a).done

end Machine
end Sys2Proof
end

