-- ==== Sys2Proof/Machine/LatchEvents.lean ====
section
/-! DEFINITION. The meanings of the latch events (chapter 04, R147): the release sequence, the hold, the relock check, and a debounced level. -/

namespace Sys2Proof
namespace Machine

/-! ## The release sequence (R64) -/

/-- The first pulse ends: the gap, with the solenoid off. -/
def State.firstPulseOver (s : State) (l : LatchNo) : State :=
  if s.lc[l].step = .firstPulse then s.modLatch l (fun x => { x with step := .gap, solenoid := .off }) else s

/-- RELEASE_FIRST_PULSE_END (R64). -/
def execReleaseFirstPulseEnd (l : LatchNo) (s : State) : Host.Outcome State Fault Refusal := (s.firstPulseOver l).done

/-- The gap ends: the retry pulse at full. -/
def State.gapOver (s : State) (l : LatchNo) : State :=
  if s.lc[l].step = .gap then s.modLatch l (fun x => { x with step := .retryPulse, solenoid := .full }) else s

/-- RELEASE_GAP_END (R64). -/
def execReleaseGapEnd (l : LatchNo) (s : State) : Host.Outcome State Fault Refusal := (s.gapOver l).done

/-- The retry pulse ends without OPEN: the release has failed, and the move ends LATCH_STUCK (R20, R64). -/
def State.retryOver (s : State) (l : LatchNo) : State :=
  if s.lc[l].step = .retryPulse then
    let a := axisOfLatch l
    let s1 := s.modLatch l Latch.drop
    if s1.ac[a].motion = .releasing then
      (s1.modMove a (fun m => { m with pending := m.pending.or (some .latchStuck) })).enterDwell a
    else s1
  else s

/-- RELEASE_RETRY_END (R64). -/
def execReleaseRetryEnd (l : LatchNo) (s : State) : Host.Outcome State Fault Refusal := (s.retryOver l).done

/-! ## The hold and the relock check -/

/-- The solenoid timer reaches 3 s (R65). -/
def State.holdOver (s : State) (l : LatchNo) : State :=
  if s.lc[l].solenoid = .hold && s.lc[l].solenoidTimer.running then s.modLatch l Latch.drop else s

/-- SOLENOID_HOLD_TIMEOUT (R65). -/
def execSolenoidHoldTimeout (l : LatchNo) (s : State) : Host.Outcome State Fault Refusal := (s.holdOver l).done

/-- RELOCK_CHECK_EXPIRY: 400 ms without LOCKED fail a pending check (R68). -/
def execRelockCheckExpiry (l : LatchNo) (s : State) : Host.Outcome State Fault Refusal := (s.decideRelock (axisOfLatch l) false).done

/-! ## A debounced level (R62, R70, R71, R74, R147) -/

/-- The latch state of a raw level (R62). -/
def levelState : SwitchLevel → LatchState
  | .closed => .locked | .opened => .opened

/-- The consistency check of a covered axis against a reading (R147). -/
def State.consistency (s : State) (a : Axis) (r : LatchState) : State :=
  if s.validity[a] ≠ .valid then s
  else
    let inside := (s.lockWindow a s.ac[a].position).isSome
    let good := s.st.drive.isSome && ((r == .locked && inside) || (r == .opened && !inside))
    if good then s else s.demote a .unverified

/-- The check on one latch, made and no longer due (R147). -/
def State.checkLatch (s : State) (l : LatchNo) (r : LatchState) : State :=
  (s.modLatch l (fun x => { x with checkDue := false })).consistency (axisOfLatch l) r

/-- IDLE or DWELL with the solenoid off: where a change from LOCKED to OPEN is a manual release (R70). -/
def State.leverFree (s : State) (l : LatchNo) : Bool := s.ac[(axisOfLatch l)].motion.atRest && s.lc[l].solenoid == .off

/-- A manual release (R70, R148). -/
def State.manualRelease (s : State) (l : LatchNo) : State := s.demote (axisOfLatch l) .unverified

/-- A LOCKED reading passes a pending relock check (R68). -/
def State.relockPass (s : State) (l : LatchNo) : State :=
  if s.lc[l].state = .locked then s.decideRelock (axisOfLatch l) true else s

/-- A release ends with OPEN: the hold starts with its window, and the channel enters STARTING (R20, R64, R65). -/
def State.releaseDone (s : State) (l : LatchNo) : State :=
  let a := axisOfLatch l
  let w := if s.validity[a] = .valid && !(s.ac[a].homingDrive) then s.lockWindow a s.ac[a].position else none
  (s.modLatch l (fun x => x.holdWith w)).enterStarting a

/-- The first reading after a reset, a wake or a cleared sensor fault (R62, R72, R74, R147). -/
def State.firstReading (s : State) (l : LatchNo) (r : LatchState) : State :=
  let before := s.lc[l].stateBefore
  let due := s.lc[l].checkDue
  let s1 := s.modLatch l (fun x => { x with state := r, firstReading := false, stateBefore := none })
  match before with
  | some b =>
    let s2 := if b = .locked && r == .opened && s1.leverFree l then s1.manualRelease l else s1
    (if b ≠ .locked then s2.sensorTest (axisOfLatch l) else s2).relockPass l
  | none =>
    let s2 := if due then s1.checkLatch l r else s1
    (s2.sensorTest (axisOfLatch l)).relockPass l

/-- A debounced change between LOCKED and OPEN (R64, R68 to R71). -/
def State.latchChange (s : State) (l : LatchNo) (r : LatchState) : State :=
  let a := axisOfLatch l
  let s1 := s.modLatch l (fun x => { x with state := r })
  if r = .opened then
    if s1.ac[a].motion = .releasing then s1.releaseDone l
    else if s1.leverFree l then s1.manualRelease l
    else s1
  else (s1.sensorTest a).relockPass l

/-- A raw level has held for 10 ms. In PARK and in a sensor fault nothing is read (R62, R72, R75). -/
def State.latchReading (s : State) (l : LatchNo) (v : SwitchLevel) : State :=
  if s.sp.power = .park || s.lc[l].sensorFault then s
  else if s.lc[l].firstReading then s.firstReading l (levelState v)
  else if s.lc[l].state = levelState v then s
  else s.latchChange l (levelState v)

/-- LATCH_DEBOUNCE (R62). -/
def execLatchDebounce (l : LatchNo) (v : SwitchLevel) (s : State) : Host.Outcome State Fault Refusal := (s.latchReading l v).done

end Machine
end Sys2Proof
end

