-- ==== Sys2Proof/Machine/Power.lean ====
section
/-! DEFINITION. The meanings of the supply, power and load events (chapter 10, R43, R146, R184): pause, resume, expiry, power-on reset, the first
load, park, wake, and the marker write. -/

namespace Sys2Proof
namespace Machine

/-- A change of any predicate of any axis starts a scan (R59, R140). before is the table before the event's change. -/
def State.scanOnChange (s : State) (before : List (List Bool)) : State :=
  if s.predicateTable = before then s else s.emit [.scan]

/-! ## Power-on reset (R169) -/

/-- The supply lies outside 9.0..18.0 V (R163). -/
def outOfBand (mv : Nat) : Bool := decide (mv < Config.pauseLowMv) || decide (Config.pauseHighMv < mv)

/-- The least and the greatest number of byte writes that an interruption can leave of a write (R166, R190; log 12): of a park write, at
least the marker at 0, and at most all but the last chunk's marker and checksum. -/
def StoreWrite.cuts (w : StoreWrite) : Nat × Nat :=
  match w.kind with
  | .park => (1, w.bytes.length - 2)
  | .service | .marker => (0, w.bytes.length)

/-- What a write that a reset interrupts has left: a free number of its byte writes (R190; log 12). -/
def State.interrupted (s : State) : List Host.Cell × Nat :=
  match s.st.write with
  | none => (s.st.memory, s.picks)
  | some w =>
    let d := s.draw (w.cuts.2 + 1 - w.cuts.1)
    (memWriteAll s.st.memory (w.bytes.take (w.cuts.1 + d.1)), d.2.picks)

/-- A power-on reset, with the supply evaluated at once (R169). -/
def State.powerOn (s : State) (mv : Nat) : State :=
  let m := s.interrupted
  let s1 := State.afterPowerOn m.1 m.2 s.pending
  if outOfBand mv then { s1 with sp := { s1.sp with cond := .pausedWindow, window := .start } } else s1

/-- POWER_ON_RESET (R169). -/
def execPowerOnReset (mv : Nat) (s : State) : Host.Outcome State Fault Refusal := (s.powerOn mv).done

/-! ## Supply pause (R163, R164) -/

/-- The axes that a stop for the whole part reaches (R27). -/
def State.stoppableAxes (s : State) : List Axis := axes.filter (fun a => s.ac[a].motion.stoppable)

/-- A pause begins (R163): moves end PAUSED, in a free order (log 6) and all before the first scan (log 65), every solenoid goes off, held grants
go back (R168). -/
def State.startPause (s : State) : State :=
  let s1 := { s with sp := { s.sp with cond := .pausedWindow, window := .start } }
  let o := s1.shuffled s1.stoppableAxes
  let s2 := o.2.each o.1 (fun t a => t.stopAxis a .paused none)
  let s3 := { s2 with lc := s2.lc.map Latch.drop }
  s3.each axes State.giveBack

/-- The supply moves to a level outside its band (R163); below 6.0 V it is a power-on reset (R164). -/
def State.supplyLow (s : State) (mv : Nat) : State :=
  if mv < Config.brownOutMv then s.powerOn mv
  else if s.sp.cond = .normal && outOfBand mv then s.startPause
  else s

/-- SUPPLY_PAUSE (R163). -/
def execSupplyPause (mv : Nat) (s : State) : Host.Outcome State Fault Refusal := (s.supplyLow mv).done

/-- How the pause has ended, for every move that it ends and that has not reached its end yet (R129, R154). -/
def State.markPause (s : State) (pe : PauseEnd) : State :=
  { s with ac := s.ac.map (fun c => { c with move := c.move.map (fun m =>
      if m.pending = some .paused ∧ m.pauseEnd = none then { m with pauseEnd := some pe } else m) }) }

/-- The job's homing is held for the pause (R154). -/
def Job.homingPaused (x : Job) : Bool :=
  match x.homing with
  | some h => match h.stage with | .pausedDrive | .pausedBackOff _ => true | _ => false
  | none => false

/-- The jobs that go on and have paused scene moves. -/
def State.pausedScenes (s : State) : List Slot :=
  slotNos.filter (fun j => match s.runningJob j with | some x => !x.pausedAxes.isEmpty | none => false)

/-- The jobs that go on and have a paused homing. -/
def State.pausedHomings (s : State) : List Slot :=
  slotNos.filter (fun j => match s.runningJob j with | some x => x.homingPaused | none => false)

/-- The pause that ended a hold's move has ended (R102, R110). -/
def Job.unpause (x : Job) : Job := { x with waitsPause := false }

/-- The hold jobs that wait for the end of the pause may reach DONE (R102, R110), in slot order (log 50). -/
def State.releaseHolds (s : State) : State :=
  let s1 := { s with jm := { s.jm with slots := s.jm.slots.map (fun (x : Option Job) => x.map Job.unpause) } }
  s1.emit ((slotNos.filter (fun j => match s.jm.slots[j] with | some x => x.waitsPause | none => false)).map Task.doneCheck)

/-- The resume of each job with something paused (R129, R154). -/
def State.resumeTasks (s : State) : List Task :=
  s.pausedScenes.map (fun j => Task.resumeRows j (match s.jm.slots[j] with | some x => x.pausedAxes | none => []))
    ++ s.pausedHomings.map Task.resumeHoming

/-- The pause ends by resume within its window (R164): the jobs in a free order (log 6), then the scan. -/
def State.resume (s : State) : State :=
  let s1 := ({ s with sp := { s.sp with cond := .normal, window := .stopped } }).markPause .resumed
  let o := s1.shuffled s1.resumeTasks
  (o.2.emit o.1).releaseHolds.emit [.scan]

/-- The level lies in the band that ends a pause (R164). -/
def inResumeBand (mv : Nat) : Bool := decide (Config.resumeLowMv ≤ mv) && decide (mv ≤ Config.resumeHighMv)

/-- The supply moves into its band (R164); a level below 6.0 V is a power-on reset. -/
def State.supplyBack (s : State) (mv : Nat) : State :=
  if mv < Config.brownOutMv then s.powerOn mv
  else if !(inResumeBand mv) then s
  else match s.sp.cond with
    | .normal => s
    | .pausedWindow => s.resume
    | .pausedExpired => ({ s with sp := { s.sp with cond := .normal } }).emit [.scan]

/-- SUPPLY_RESUME (R164). -/
def execSupplyResume (mv : Nat) (s : State) : Host.Outcome State Fault Refusal := (s.supplyBack mv).done

/-- The axis whose homing a job holds for the pause. -/
def State.homingHead (s : State) (j : Slot) : Option Axis := (s.jm.slots[j].bind (fun x => x.homing)).bind (fun h => h.list.head?)

/-- The 2 s window runs out (R164): paused scene moves and homings end SUPPLY_FAULT; paused holds may reach DONE. The scenes come first, then
the homings, then the holds, each in slot order (log 60). -/
def State.windowOver (s : State) : State :=
  if s.sp.cond ≠ .pausedWindow then s
  else
    let s1 := ({ s with sp := { s.sp with cond := .pausedExpired, window := .stopped } }).markPause .expired
    let scenes := s1.pausedScenes
    let homings := s1.pausedHomings
    let s2 := s1.each scenes State.expireRows
    let s3 := s2.each homings (fun t j => match t.homingHead j with | some a => t.expireHoming j a | none => t)
    s3.releaseHolds

/-- PAUSE_WINDOW_EXPIRY (R164). -/
def execPauseWindowExpiry (s : State) : Host.Outcome State Fault Refusal := s.windowOver.done

/-! ## ACTIVE entry (R167) -/

/-- The part enters ACTIVE: checks still due are made with the latch taken as UNKNOWN (R147), the Drive Arbiter scans, and the pads take
a button still held (R179), the two pads in a free order (log 6). That the checks come first, then the scan, then the pads, is log 68. -/
def State.enterActive (s : State) : State :=
  let s1 := { s with sp := { s.sp with power := .active, waking := .stopped, wakingOver := false } }
  let s2 := s1.each latches (fun t l => if t.lc[l].checkDue then t.checkLatch l .unknown else t)
  let o := s2.shuffled ([Pad.left, Pad.right].filter (fun p => s2.ps[padNo p].cond == .free && !s2.ps[padNo p].pressed.isEmpty))
  o.2.emit (Task.scan :: o.1.map Task.padEntry)

/-- WAKING's 40 ms end; before the first load has ended, ACTIVE waits for it (R167, R169). -/
def State.wakingDone (s : State) : State :=
  if s.sp.power ≠ .waking || !s.sp.waking.running then s
  else if s.st.loaded then s.enterActive
  else { s with sp := { s.sp with waking := s.sp.waking.hold, wakingOver := true } }

/-- WAKING_END (R167). -/
def execWakingEnd (s : State) : Host.Outcome State Fault Refusal := s.wakingDone.done

/-! ## The first load (R43, R146, R169, R184) -/

/-- A validity code of LEARNED; another code is UNHOMED (R146). -/
def validityOf : Nat → Validity
  | 0 => .valid | 1 => .unverified | _ => .unhomed

/-- What a load gives every channel, whatever the store holds: the stall streak and the stray-edge count at 0, the last direction positive, the
latched fault flags clear (R43). -/
def Channel.cleared (c : Channel) : Channel :=
  { c with stray := 0, streak := 0, lastDir := .positive, limitSeen := false, stall := false, obstruction := false, overcurrent := false }

/-- The learned values, trims and, after a clean park, the position of a channel (R43, R146, R169). -/
def Channel.restored (c : Channel) (drive : Option DriveAxis) (learned : Option LearnedAxis) (clean : Bool) : Channel :=
  match learned, drive with
  | some x, _ =>
    { c with
      ilr := max 5 (min 200 x.ilr)
      coast := x.coast
      marginTrim := min 15 x.marginTrim
      timeoutTrim := min 15 x.timeoutTrim
      position := if clean then min Config.maxPosition x.position else c.position }
  | none, some d => { c with ilr := max 5 (min 200 d.defaultIlr), coast := d.defaultCoast, marginTrim := 6, timeoutTrim := 5 }
  | none, none => { c with ilr := 50, coast := 20, marginTrim := 6, timeoutTrim := 5 }

/-- The persistent state of a channel after the first load (R43). -/
def Channel.restore (c : Channel) (drive : Option DriveAxis) (learned : Option LearnedAxis) (clean : Bool) : Channel :=
  c.cleared.restored drive learned clean

/-- Heat and wear after the first load (R169). -/
def State.restoreHeat (s : State) (t : Thermal) (learned : Option LearnedAxis) (clean : Bool) : Thermal :=
  let h := match learned with | some x => if clean then x.heat else s.heatResume | none => s.heatResume
  { t with
    heat := h
    estimated := !clean
    hot := s.hotAfter h false
    moves := match learned with | some x => min Config.maxMoves x.moves | none => 0 }

/-- One axis of the LEARNED working copy. -/
def State.learnedAxis (s : State) (a : Axis) : Option LearnedAxis := s.st.learned.map (fun x => x.axis[a])

/-- LEARNED is valid with its marker at 1: positions and heat are restored (R146, R169). -/
def State.cleanPark (s : State) : Bool := match s.st.learned with | some x => x.marker | none => false

/-- What the first load restores (R43, R146, R169). -/
def State.restore (s : State) : State :=
  let clean := s.cleanPark
  { s with
    ac := Vector.ofFn (fun a => s.ac[a].restore (s.driveAxis a) (s.learnedAxis a) clean)
    tw := Vector.ofFn (fun a => s.restoreHeat s.tw[a] (s.learnedAxis a) clean)
    validity := if clean then Vector.ofFn (fun a => match s.learnedAxis a with | some x => validityOf x.validity | none => .unhomed) else s.validity
    sp := { s.sp with marker := clean } }

/-- The consistency check after a restoring load: at once where the latch has been read, with the state it then has (log 54), else at its
first reading (R147). -/
def State.armCheck (s : State) (l : LatchNo) : State :=
  if s.lc[l].firstReading then s.modLatch l (fun x => { x with checkDue := true }) else s.checkLatch l s.lc[l].state

/-- The first load ends (R146, R169, R184). -/
def State.firstLoad (s : State) : State :=
  if s.st.loaded then s
  else
    let before := s.predicateTable
    let s1 := { s with st := { loadStore s.st with loaded := true } }.restore
    let s2 := if s1.cleanPark then s1.each latches State.armCheck else s1
    let s3 := s2.scanOnChange before
    if s3.sp.wakingOver then s3.enterActive else s3

/-- FIRST_LOAD_END (R184). -/
def execFirstLoadEnd (s : State) : Host.Outcome State Fault Refusal := s.firstLoad.done

/-! ## Park (R166, R195) -/

/-- The eleven bytes of an axis in LEARNED (table 16 of 13). -/
def State.learnedBytes (s : State) (a : Axis) : List Byte :=
  let c := s.ac[a]
  wordBytes c.position ++ [toByte s.validity[a].code, toByte c.ilr, toByte c.coast, toByte (16 * c.marginTrim + c.timeoutTrim)]
    ++ wordBytes s.tw[a].heat ++ tripleBytes s.tw[a].moves

/-- Bytes with their addresses from a first one on. -/
def addressed : Nat → List Byte → List (Nat × Byte)
  | _, [] => []
  | a, b :: rest => (a, b) :: addressed (a + 1) rest

/-- The park-entry write in its order (R166, R195): the marker at 0, the per-axis content, the marker at 1. Both writes of the last
chunk carry the checksum that brings the area's sum to 0 at the end of the write. Content that the area has no room for is not
written (log 12). -/
def State.parkBytes (s : State) : List (Nat × Byte) :=
  match s.st.learnedArea with
  | none => []
  | some (off, len) =>
    let content := addressed off ((axes.flatMap s.learnedBytes).take (len - 2))
    let after := memWrite (memWriteAll s.st.memory content) (off + len - 2) 1#8
    let sum := byteSum (memBytes (len - 1) off (after.filter (fun c => decide (off ≤ c.1))))
    [(off + len - 2, 0#8), (off + len - 1, 0#8 - sum)] ++ content ++ [(off + len - 2, 1#8), (off + len - 1, 0#8 - sum)]

/-- Everything that stops at PARK entry (R144, R159, R166, R176, R180). -/
def State.enterPark (s : State) : State :=
  { s with
    sp := { s.sp with power := .park, parkQuiet := .stopped }
    tw := s.tw.map (fun t => { t with cooling := t.cooling.hold })
    iu := { s.iu with vehicleTimer := .stopped, occupancyTimer := .stopped }
    ps := s.ps.map (fun p => { p with pressed := p.pressed.map (fun b => (b.1, b.2.hold)) })
    st := { s.st with write := if s.st.learnedArea.isSome then some { kind := .park, bytes := s.parkBytes, tag := 0#4, timer := .start } else none } }

/-- The park-quiet timer reaches 3 s (R165, R166). -/
def State.parkNow (s : State) : State :=
  if s.sp.parkQuiet.running && s.st.write.isNone then s.enterPark else s

/-- PARK_ENTRY (R166). -/
def execParkEntry (s : State) : Host.Outcome State Fault Refusal := s.parkNow.done

/-! ## Wake (R75, R144, R167, R176) -/

/-- A Latch Channel at the start of WAKING (R75, R147). One in sensor fault takes no reading; its check comes at ACTIVE entry. -/
def Latch.wake (l : Latch) : Latch :=
  if l.sensorFault then { l with checkDue := true } else { l with state := .unknown, firstReading := true, stateBefore := none, checkDue := true }

/-- The part enters WAKING from PARK (R167). -/
def State.enterWaking (s : State) : State :=
  { s with
    sp := { s.sp with power := .waking, waking := .start, wakingOver := false, wakePending := false, parkQuiet := .stopped }
    lc := s.lc.map Latch.wake
    iu := .reset
    tw := s.tw.map (fun t => { t with cooling := t.cooling.resume })
    ps := s.ps.map (fun p => { p with pressed := p.pressed.map (fun b => (b.1, b.2.resume)) })
    np := { s.np with pages := s.np.pages.map (fun p => { p with due := true }) } }

/-- A wake event (R166, R167): in PARK it wakes the part, or during the park write it waits for the write's end. -/
def State.wake (s : State) : State :=
  if s.sp.power ≠ .park then s
  else if s.st.write.isSome then { s with sp := { s.sp with wakePending := true } }
  else s.enterWaking

/-- WAKE_EVENT (R167). A frame and a press wake alike, and neither is received. -/
def execWakeEvent (_source : WakeSource) (s : State) : Host.Outcome State Fault Refusal := s.wake.done

/-- The park write ends (R166): the marker is 1, and a pending wake is taken. -/
def State.parkWritten (s : State) : State :=
  match s.st.write with
  | none => s
  | some w =>
    if w.kind ≠ .park then s
    else
      let s1 := { s with
        st := { s.st with memory := memWriteAll s.st.memory w.bytes, write := none }
        sp := { s.sp with marker := true } }
      if s1.sp.wakePending then s1.enterWaking else s1

/-- PARK_WRITE_COMPLETE (R166). -/
def execParkWriteComplete (s : State) : Host.Outcome State Fault Refusal := s.parkWritten.done

end Machine
end Sys2Proof
end

