-- ==== Sys2Proof/Machine/Service.lean ====
section
/-! DEFINITION. Service Mode, the store's writes and the soft reset (chapter 12, R44, R61, R74, R112, R168, R182): the operations, and the meanings of the
store's own events. -/

namespace Sys2Proof
namespace Machine

/-! ## Leaving Service Mode (R189) -/

/-- The heat state under the levels of a new DRIVE (R160, R161). -/
def State.reheat (s : State) (t : Thermal) : Thermal :=
  { t with hot := s.hotAfter t.heat t.hot, estimated := s.estimatedAfter t.heat t.estimated }

/-- The part leaves Service Mode and reloads (R51, R160, R184, R189): validity, positions and learned values stay, leg faults stay on legs that are
still common, HOT and ESTIMATED meet the new levels. Before the first load has ended the reload makes its areas valid just so (log 62). -/
def State.leaveService (s : State) : State :=
  let before := s.predicateTable
  let st := loadStore s.st
  let s1 := { s with
    st := { st with service := false, serviceTimer := .stopped, leavePending := false }
    sp := { s.sp with marker := match st.learned with | some x => x.marker | none => false } }
  let s2 := { s1 with
    da := { s1.da with legFault := Vector.ofFn (fun l => s1.da.legFault[l] && s1.isCommonLeg l) }
    tw := s1.tw.map s1.reheat }
  s2.scanOnChange before

/-- Every slot is FREE and no write is in progress (R189). -/
def State.storeIdle (s : State) : Bool := s.noJob && s.st.write.isNone

/-- The service timer reaches 30 s (R189). -/
def State.serviceTimedOut (s : State) : State :=
  if !s.st.service || !s.st.serviceTimer.running then s
  else if s.storeIdle then s.leaveService
  else { s with st := { s.st with leavePending := true, serviceTimer := s.st.serviceTimer.hold } }

/-- SERVICE_TIMEOUT (R189). -/
def execServiceTimeout (s : State) : Host.Outcome State Fault Refusal := s.serviceTimedOut.done

/-- The leave that a timeout put off comes about when every slot is FREE and no write is in progress (R189). -/
def State.deferredLeave (s : State) : State :=
  if s.st.service && s.st.leavePending && s.storeIdle then s.leaveService else s

/-- SERVICE_DEFERRED_LEAVE (R189). -/
def execServiceDeferredLeave (s : State) : Host.Outcome State Fault Refusal := s.deferredLeave.done

/-- A frame on the service tool's request identifier (R171, R187, R189). -/
def State.serviceActivity (s : State) : State :=
  if s.st.service then { s with st := { s.st with serviceTimer := .start, leavePending := false } } else s

/-! ## Soft reset (R44, R61, R74, R112, R144, R157, R169, R182, R190) -/

/-- A Latch Channel at a soft reset (R74). A sensor fault stays. -/
def Latch.softReset (l : Latch) : Latch :=
  let x := { l.drop with relock := .none, relockTimer := .stopped, relockJob := none }
  if l.sensorFault then x else { x with state := .unknown, firstReading := true, stateBefore := some l.state }

/-- A channel's part of a soft reset (R44, R112): the four latched flags clear, and its move reaches no job any more. -/
def Channel.softReset (c : Channel) : Channel :=
  { c with
    limitSeen := false
    stall := false
    obstruction := false
    overcurrent := false
    move := c.move.map (fun m => { m with job := none }) }

/-- A pad at a soft reset (R182). -/
def PadState.softReset (p : PadState) : PadState := { p with cond := if p.pressed.isEmpty then .free else .waiting }

/-- A page at a soft reset: count 0, mark clear, due at once, with the content of the event (R182). -/
def Page.softReset (content : List Byte) : Page := .reset content

/-- The jobs, lists, claims and answers go, the wait list is emptied and held grants are dropped (R61, R112, R168). -/
def State.dropJobs (s : State) : State :=
  let s1 := { s with jm := .reset, ac := s.ac.map Channel.softReset }
  let s2 := { s1 with da := { s1.da with wait := [], arrival := 0 } }
  s2.each axes (fun t a => if (t.heldGrant a).isSome then t.withdraw a else t)

/-- The soft reset itself, with the tag of its request: stop requests first, then the latches, the units, a reload from Service Mode, and the
port with the answer (R173, R182, R190). -/
def State.softResetNow (s : State) (tag : BitVec 4) : State :=
  let s1 := s.dropJobs
  let s2 := s1.each s1.stoppableAxes (fun t a => t.stopAxis a .stopped none)
  let s3 := { s2 with
    lc := s2.lc.map Latch.softReset
    iu := .reset
    sp := { s2.sp with parkQuiet := .stopped }
    st := { s2.st with serviceTimer := .stopped, leavePending := false, resetQueued := none, markerQueued := false }
    ps := s2.ps.map PadState.softReset }
  let s4 := if s3.st.service then s3.leaveService else s3
  let s5 := { s4 with np := { s4.np with tx := none, rows := [], pages := Vector.ofFn (fun p => Page.softReset (s4.pageContent p)) } }
  s5.answer .service .softReset tag (.bare .done)

/-- A soft reset waits for a write in progress (R168, R190). -/
def State.softReset (s : State) (tag : BitVec 4) : State :=
  if s.st.write.isSome then { s with st := { s.st with resetQueued := some tag } } else s.softResetNow tag

/-! ## The ends of the store's writes (R168, R188, R190) -/

/-- The write's bytes reach the store, and no write is in progress. -/
def State.writeStore (s : State) (w : StoreWrite) : State :=
  { s with st := { s.st with memory := memWriteAll s.st.memory w.bytes, write := none } }

/-- A service write ends (R188): the answer, then what waits for the end: a soft reset (R190), or a marker write. With both waiting the reset is
taken and the marker write dropped (log 67). -/
def State.serviceWritten (s : State) : State :=
  match s.st.write with
  | none => s
  | some w =>
    if w.kind ≠ .service then s
    else
      let s1 := (s.writeStore w).answer .service .storeWrite w.tag (.bare .done)
      match s1.st.resetQueued with
      | some t => s1.softResetNow t
      | none => if s1.st.markerQueued then s1.startMarkerWrite else s1

/-- STORE_WRITE_COMPLETE (R188). -/
def execStoreWriteComplete (s : State) : Host.Outcome State Fault Refusal := s.serviceWritten.done

/-- A held grant reaches its channel (R168). -/
def State.releaseHeld (s : State) (a : Axis) : State :=
  match s.heldGrant a with
  | some g => ((s.setGrant a (some { g with held := false })).startMove a { g with held := false }).markGranted g.entry.slot a
  | none => s

/-- The marker write ends (R168): the marker is 0; every held grant reaches its channel, unless a soft reset waits (R190). -/
def State.markerWritten (s : State) : State :=
  match s.st.write with
  | none => s
  | some w =>
    if w.kind ≠ .marker then s
    else
      let s1 := s.writeStore w
      let s2 := { s1 with sp := { s1.sp with marker := false } }
      match s2.st.resetQueued with
      | some t => s2.softResetNow t
      | none => s2.each axes State.releaseHeld

/-- MARKER_WRITE_COMPLETE (R168). -/
def execMarkerWriteComplete (s : State) : Host.Outcome State Fault Refusal := s.markerWritten.done

end Machine
end Sys2Proof
end

