-- ==== Sys2Proof/Machine/Frames.lean ====
section
/-! DEFINITION. The reception of frames (R132 to R134, R141, R171, R193), and the meanings of the data frames and of the freshness timers. -/

namespace Sys2Proof
namespace Machine

/-! ## Interlock stops (R141) -/

/-- The needed predicate that is false for an axis in RELEASING, STARTING or RUNNING, by the mask of its grant's rank (R141). -/
def State.interlock (s : State) (a : Axis) : Option (Fin 5) :=
  match s.ac[a].move with
  | some m => if s.ac[a].motion.stoppable then s.falsePredicate (s.rankMask a m.rank) a else none
  | none => none

/-- One axis's interlock stop (R141). -/
def State.interlockStop (s : State) (a : Axis) : State :=
  match s.interlock a with
  | some p => s.stopAxis a .interlock (some p.val)
  | none => s

/-- The stops of one arrival or expiry, in a free order (R141; log 6). -/
def State.interlockStops (s : State) : State :=
  let o := s.shuffled (axes.filter (fun a => (s.interlock a).isSome))
  o.2.each o.1 State.interlockStop

/-- What follows a change of the data held (R140, R141): all its stops, and then one scan when a predicate has changed (log 52),
before the ends of moves stopped in RELEASING reach their jobs (log 61). -/
def State.reevaluate (s : State) (before : List (List Bool)) : State := (s.scanOnChange before).interlockStops

/-- A Vehicle Condition frame (R132, R134); one shorter than 6 bytes is ignored (R193). -/
def State.vehicleArrival (s : State) (bs : List Byte) : State :=
  if bs.length < 6 then s
  else { s with iu := { s.iu with vehicle := vehicleOf bs, vehicleFresh := true, vehicleTimer := .start } }.reevaluate s.predicateTable

/-- An Occupancy frame (R133, R134); one shorter than 4 bytes is ignored (R193). -/
def State.occupancyArrival (s : State) (bs : List Byte) : State :=
  if bs.length < 4 then s
  else { s with iu := { s.iu with seats := occupantsOf bs, occupancyFresh := true, occupancyTimer := .start } }.reevaluate s.predicateTable

/-- A freshness timer reaches its end (R134). -/
def State.turnStale (s : State) (k : DataKind) : State :=
  match k with
  | .vehicleCondition =>
    if s.iu.vehicleTimer.running then
      { s with iu := { s.iu with vehicleFresh := false, vehicleTimer := s.iu.vehicleTimer.hold } }.reevaluate s.predicateTable
    else s
  | .occupancy =>
    if s.iu.occupancyTimer.running then
      { s with iu := { s.iu with occupancyFresh := false, occupancyTimer := s.iu.occupancyTimer.hold } }.reevaluate s.predicateTable
    else s

/-- FRESHNESS_EXPIRY (R134). -/
def execFreshnessExpiry (k : DataKind) (s : State) : Host.Outcome State Fault Refusal := (s.turnStale k).done

/-! ## Reception (R171) -/

/-- A data frame is received (R171): in PARK it is a wake event and nothing else (R167); during bus-off it is lost (R177); a request identifier
hands it to that role's request, a data identifier to the Interlock Unit. -/
def State.frameIn (s : State) (id : CanId) (bytes : List Byte) (request : Role → State → State) : State :=
  if s.sp.power = .park then s.wake
  else if s.np.busOff then s
  else match s.roleOf id with
    | some r => request r (if r = .service then s.serviceActivity else s)
    | none =>
      if id = s.partners.vehicle then s.vehicleArrival bytes
      else if id = s.partners.occupancy then s.occupancyArrival bytes
      else s

end Machine
end Sys2Proof
end

