-- ==== Sys2Proof/Machine/Requests.lean ====
section
/-! DEFINITION. The meanings of the request frames (R97 to R108, R114, R151, R156, R172, R173, R187 to R189, R193), one definition for each kind,
and of the frames that spell no request. -/

namespace Sys2Proof
namespace Machine

/-- An answer that carries its code alone. -/
def State.refuse (s : State) (r : Role) (k : ReqKind) (tag : BitVec 4) (c : Code) : State := s.answer r k tag (.bare c)

/-- An answer DONE with a detail. -/
def State.answerDone (s : State) (r : Role) (k : ReqKind) (tag : BitVec 4) (d : BitVec 16) : State :=
  s.answer r k tag { code := .done, failing := none, detail := some d }

/-! ## Runs and holds -/

/-- RUN_ARRANGEMENT from a role (R97, R114, R115). -/
def State.reqRun (s : State) (r : Role) (tag : BitVec 4) (number : Byte) : State :=
  match s.gate r .run (decide (number.toNat ≤ 15)) with
  | some c => s.refuse r .run tag c
  | none => match s.runCheck (r == .tailgate) number.toNat with
    | .error e => s.answer r .run tag e
    | .ok x => match s.slotFor r with
      | .error c => s.refuse r .run tag c
      | .ok j => s.acceptRun j (.partner r) tag none x

/-- The partner's ACTIVE hold job on an axis (R99 to R101). -/
def State.activeHold (s : State) (r : Role) (a : Axis) : Option Slot :=
  partnerSlots.find? (fun j => match s.jm.slots[j] with
    | some x => x.state == .active && x.kind == .hold && x.source == .partner r && x.axis == some a
    | none => false)

/-- A repeat for an ACTIVE hold job: a keep-alive, or BUSY for the opposite direction (R100). -/
def State.repeatHold (s : State) (r : Role) (tag : BitVec 4) (j : Slot) (dir : Dir) : State :=
  match s.jm.slots[j] with
  | some x =>
    if x.dir = some dir then s.modJob j (fun y => { y with holdTimer := .start })
    else s.answer r .hold tag { code := .busy, failing := none, detail := some (wordDetail j.val) }
  | none => s

/-- A new hold request (R97, R99). -/
def State.newHold (s : State) (r : Role) (tag : BitVec 4) (a : Axis) (dir : Dir) : State :=
  match s.holdCheck a dir with
  | some e => s.answer r .hold tag e
  | none => match s.slotFor r with
    | .error c => s.refuse r .hold tag c
    | .ok j => s.acceptHold j (.partner r) tag none a dir .start

/-- HOLD_MOVE from a role (R97, R99, R100). -/
def State.reqHold (s : State) (r : Role) (tag : BitVec 4) (axis dir : Byte) : State :=
  match axisArg axis, dirArg dir with
  | some a, some d =>
    match s.gate r .hold true with
    | some c => s.refuse r .hold tag c
    | none => match s.activeHold r a with
      | some j => s.repeatHold r tag j d
      | none => s.newHold r tag a d
  | _, _ => s.refuse r .hold tag .badArgument

/-- RELEASE_MOVE from a role (R97, R101). -/
def State.reqRelease (s : State) (r : Role) (tag : BitVec 4) (axis : Byte) : State :=
  match axisArg axis with
  | none => s.refuse r .release tag .badArgument
  | some a => match s.gate r .release true with
    | some c => s.refuse r .release tag c
    | none => match s.activeHold r a with
      | some j => s.haltJob j .done none
      | none => s.refuse r .release tag .noJob

/-! ## Stops -/

/-- The partner's jobs that carry a tag and are not FREE and not DONE (R106). -/
def State.taggedJobs (s : State) (r : Role) (tag : BitVec 4) : List Slot :=
  partnerSlots.filter (fun j => match s.jm.slots[j] with
    | some x => x.source == .partner r && x.tag == tag && x.state != .done
    | none => false)

/-- STOP_JOB from a role (R97, R106). The jobs with the tag are stopped in slot order (log 49), all before the first scan
(log 65). -/
def State.reqStopJob (s : State) (r : Role) (tag : BitVec 4) (target : Byte) : State :=
  match s.gate r .stopJob (decide (target.toNat ≤ 15)) with
  | some c => s.refuse r .stopJob tag c
  | none => match s.taggedJobs r (target.setWidth 4) with
    | [] => s.refuse r .stopJob tag .noJob
    | j :: rest => (s.each (j :: rest) State.stopJob).answerDone r .stopJob tag (wordDetail j.val)

/-- STOP_ALL from a role (R97, R107): the ATTENDED, SCENE and SERVICE lists are walked, and all stops come before the first scan (log 65). -/
def State.reqStopAll (s : State) (r : Role) (tag : BitVec 4) : State :=
  match s.gate r .stopAll true with
  | some c => s.refuse r .stopAll tag c
  | none => (s.each (s.jm.attended ++ s.jm.scenes ++ s.jm.services) State.stopJob).refuse r .stopAll tag .done

/-! ## Faults, homing, trims -/

/-- A Latch Channel whose sensor fault CLEAR_FAULTS ends (R72). -/
def Latch.clearFault (l : Latch) : Latch :=
  if l.sensorFault then { l with sensorFault := false, state := .unknown, firstReading := true, stateBefore := none } else l

/-- A channel that CLEAR_FAULTS names (R36, R173). -/
def Channel.clearFaults (c : Channel) : Channel :=
  { c with limitSeen := false, stall := false, obstruction := false, overcurrent := false, lockedOut := false, streak := 0 }

/-- CLEAR_FAULTS on one axis (R51, R72, R173). -/
def State.clearAxis (s : State) (a : Axis) : State :=
  let s1 := s.modChan a Channel.clearFaults
  let s2 := match latchOf a with | some l => s1.modLatch l Latch.clearFault | none => s1
  match s2.driveAxis a with
  | some d => match d.commonLeg with
    | some l => { s2 with da := { s2.da with legFault := s2.da.legFault.set l false } }
    | none => s2
  | none => s2

/-- CLEAR_FAULTS from a role (R97, R173). -/
def State.reqClearFaults (s : State) (r : Role) (tag : BitVec 4) (set : Byte) : State :=
  match setArg set with
  | none => s.refuse r .clearFaults tag .badArgument
  | some m => match s.gate r .clearFaults true with
    | some c => s.refuse r .clearFaults tag c
    | none => match s.claimedCheck m with
      | some e => s.answer r .clearFaults tag e
      | none => (s.each (AxisSet.list m) State.clearAxis).answerDone r .clearFaults tag (pairDetail (setByte m) 0#8)

/-- HOME_AXES from a role (R97, R151). -/
def State.reqHome (s : State) (r : Role) (tag : BitVec 4) (set : Byte) : State :=
  match setArg set with
  | none => s.refuse r .home tag .badArgument
  | some m => match s.gate r .home true with
    | some c => s.refuse r .home tag c
    | none => match s.homeCheck m with
      | some e => s.answer r .home tag e
      | none => match s.slotFor r with
        | .error c => s.refuse r .home tag c
        | .ok j => s.acceptHome j r tag m

/-- A trim one up or one down, within 0..15 (R156). -/
def trimUp (n : Nat) : Nat := min 15 (n + 1)
def trimDown (n : Nat) : Nat := n - 1

/-- The trims of a channel after a code 0..8 (R156). -/
def Channel.trim (c : Channel) (code : Nat) : Channel :=
  match code with
  | 1 => { c with marginTrim := trimUp c.marginTrim }
  | 2 => { c with marginTrim := trimDown c.marginTrim }
  | 3 => { c with timeoutTrim := trimUp c.timeoutTrim }
  | 4 => { c with timeoutTrim := trimDown c.timeoutTrim }
  | 5 => { c with marginTrim := trimUp c.marginTrim, timeoutTrim := trimUp c.timeoutTrim }
  | 6 => { c with marginTrim := trimDown c.marginTrim, timeoutTrim := trimDown c.timeoutTrim }
  | 7 => { c with marginTrim := trimUp c.marginTrim, timeoutTrim := trimDown c.timeoutTrim }
  | 8 => { c with marginTrim := trimDown c.marginTrim, timeoutTrim := trimUp c.timeoutTrim }
  | _ => c

/-- TRIM_ADJUST from a role (R97, R156). -/
def State.reqTrim (s : State) (r : Role) (tag : BitVec 4) (axis code : Byte) : State :=
  match axisArg axis with
  | none => s.refuse r .trim tag .badArgument
  | some a => match s.gate r .trim (decide (code.toNat ≤ 8)) with
    | some c => s.refuse r .trim tag c
    | none => match s.jm.claims[a] with
      | some j => s.answer r .trim tag { code := .busy, failing := none, detail := some (wordDetail j.val) }
      | none =>
        let s1 := s.modChan a (fun c => c.trim code.toNat)
        s1.answerDone r .trim tag (pairDetail (toByte s1.ac[a].marginTrim) (toByte s1.ac[a].timeoutTrim))

/-! ## Service Mode and the store -/

/-- ENTER_SERVICE from a role (R97, R187). -/
def State.reqEnterService (s : State) (r : Role) (tag : BitVec 4) : State :=
  match s.gate r .enterService true with
  | some c => s.refuse r .enterService tag c
  | none =>
    let entered := { s with st := { s.st with service := true, serviceTimer := .start, leavePending := false } }
    if s.st.service then entered.refuse r .enterService tag .done
    else if !s.noJob then s.refuse r .enterService tag .busy
    else match s.standingCheck with
      | some e => s.answer r .enterService tag e
      | none => entered.refuse r .enterService tag .done

/-- The area validity set as a byte (table 10 of 13). -/
def State.validityByte (s : State) : Byte := s.st.report.valid.setWidth 8

/-- LEAVE_SERVICE from a role (R97, R189). -/
def State.reqLeaveService (s : State) (r : Role) (tag : BitVec 4) : State :=
  match s.gate r .leaveService true with
  | some c => s.refuse r .leaveService tag c
  | none =>
    if !s.st.service then s.refuse r .leaveService tag .mode
    else if !s.storeIdle then s.refuse r .leaveService tag .busy
    else
      let s1 := s.leaveService
      s1.answerDone r .leaveService tag (pairDetail s1.validityByte 0#8)

/-- The four bytes of a chunk 0..515 (R188, R195): the store, then the load report, whose two unnamed bytes read as 0 (log 69). -/
def State.readChunk (s : State) (n : Nat) : List Byte :=
  if n ≤ 511 then chunkBytes s.st.memory n
  else if n = 512 then [s.validityByte, 0#8, (s.st.report.clampedTargets >>> 8).setWidth 8, s.st.report.clampedTargets.setWidth 8]
  else if n = 513 then
    [setByte s.st.report.clampedDuties, (s.st.report.skipped >>> 8).setWidth 8, s.st.report.skipped.setWidth 8, 0#8]
  else [0#8, 0#8, 0#8, 0#8]

/-- STORE_READ from a role (R97, R188, R192). -/
def State.reqStoreRead (s : State) (r : Role) (tag : BitVec 4) (chunk : BitVec 16) : State :=
  match s.gate r .storeRead (decide (chunk.toNat ≤ 515)) with
  | some c => s.refuse r .storeRead tag c
  | none => s.answerRead r tag chunk.toNat (s.readChunk chunk.toNat)

/-- STORE_WRITE from a role (R97, R188). -/
def State.reqStoreWrite (s : State) (r : Role) (tag : BitVec 4) (chunk : BitVec 16) (bytes : List Byte) : State :=
  match s.gate r .storeWrite (decide (chunk.toNat ≤ 511)) with
  | some c => s.refuse r .storeWrite tag c
  | none =>
    if !s.st.service then s.refuse r .storeWrite tag .mode
    else if !s.storeIdle then s.refuse r .storeWrite tag .busy
    else { s with st := { s.st with write := some { kind := .service, bytes := addressed (4 * chunk.toNat) bytes, tag := tag, timer := .start } } }

/-- SOFT_RESET from a role (R97, R173, R190). -/
def State.reqSoftReset (s : State) (r : Role) (tag : BitVec 4) : State :=
  match s.gate r .softReset true with
  | some c => s.refuse r .softReset tag c
  | none => s.softReset tag

/-! ## A request frame by its bytes (R193) -/

/-- A request frame of a role (R193): too short for a kind and tag, it is ignored; of no kind, or shorter than its kind uses, it is
refused BAD_ARGUMENT; else it is that request. -/
def State.request (s : State) (r : Role) (bs : List Byte) : State :=
  if bs.length < 2 then s
  else
    let b := fun i => bs.getD i 0#8
    let tag := (b 1).setWidth 4
    let chunk := b 2 ++ b 3
    match reqKindOf (b 0) with
    | none => s.answerByte r (b 0) tag (.bare .badArgument)
    | some k =>
      if bs.length < k.length then s.refuse r k tag .badArgument
      else match k with
        | .run => s.reqRun r tag (b 2)
        | .hold => s.reqHold r tag (b 2) (b 3)
        | .release => s.reqRelease r tag (b 2)
        | .stopJob => s.reqStopJob r tag (b 2)
        | .stopAll => s.reqStopAll r tag
        | .clearFaults => s.reqClearFaults r tag (b 2)
        | .home => s.reqHome r tag (b 2)
        | .trim => s.reqTrim r tag (b 2) (b 3)
        | .enterService => s.reqEnterService r tag
        | .leaveService => s.reqLeaveService r tag
        | .storeRead => s.reqStoreRead r tag chunk
        | .storeWrite => s.reqStoreWrite r tag chunk [b 4, b 5, b 6, b 7]
        | .softReset => s.reqSoftReset r tag

/-- A data frame taken by its identifier and bytes alone (R171, R193). -/
def State.anyFrame (s : State) (id : CanId) (bs : List Byte) : State := s.frameIn id bs (fun r t => t.request r bs)

/-! ## The commands -/

/-- The bytes of a request frame: kind, tag, arguments (table 1 of 13). -/
def frameBytes (k : ReqKind) (tag : BitVec 4) (args : List Byte) : List Byte := k.code :: tag.setWidth 8 :: args

/-- The two bytes of a chunk number (R191). -/
def chunkArg (n : BitVec 16) : List Byte := [(n >>> 8).setWidth 8, n.setWidth 8]

/-- RUN_ARRANGEMENT (R114). -/
def execRunArrangement (id : CanId) (tag : BitVec 4) (number : Byte) (s : State) : Host.Outcome State Fault Refusal :=
  (s.frameIn id (frameBytes .run tag [number]) (fun r t => t.reqRun r tag number)).done

/-- HOLD_MOVE (R99, R100). -/
def execHoldMove (id : CanId) (tag : BitVec 4) (axis dir : Byte) (s : State) : Host.Outcome State Fault Refusal :=
  (s.frameIn id (frameBytes .hold tag [axis, dir]) (fun r t => t.reqHold r tag axis dir)).done

/-- RELEASE_MOVE (R101). -/
def execReleaseMove (id : CanId) (tag : BitVec 4) (axis : Byte) (s : State) : Host.Outcome State Fault Refusal :=
  (s.frameIn id (frameBytes .release tag [axis]) (fun r t => t.reqRelease r tag axis)).done

/-- STOP_JOB (R106). -/
def execStopJob (id : CanId) (tag : BitVec 4) (target : Byte) (s : State) : Host.Outcome State Fault Refusal :=
  (s.frameIn id (frameBytes .stopJob tag [target]) (fun r t => t.reqStopJob r tag target)).done

/-- STOP_ALL (R107). -/
def execStopAll (id : CanId) (tag : BitVec 4) (s : State) : Host.Outcome State Fault Refusal :=
  (s.frameIn id (frameBytes .stopAll tag []) (fun r t => t.reqStopAll r tag)).done

/-- CLEAR_FAULTS (R173). -/
def execClearFaults (id : CanId) (tag : BitVec 4) (set : Byte) (s : State) : Host.Outcome State Fault Refusal :=
  (s.frameIn id (frameBytes .clearFaults tag [set]) (fun r t => t.reqClearFaults r tag set)).done

/-- HOME_AXES (R151). -/
def execHomeAxes (id : CanId) (tag : BitVec 4) (set : Byte) (s : State) : Host.Outcome State Fault Refusal :=
  (s.frameIn id (frameBytes .home tag [set]) (fun r t => t.reqHome r tag set)).done

/-- TRIM_ADJUST (R156). -/
def execTrimAdjust (id : CanId) (tag : BitVec 4) (axis code : Byte) (s : State) : Host.Outcome State Fault Refusal :=
  (s.frameIn id (frameBytes .trim tag [axis, code]) (fun r t => t.reqTrim r tag axis code)).done

/-- ENTER_SERVICE (R187). -/
def execEnterService (id : CanId) (tag : BitVec 4) (s : State) : Host.Outcome State Fault Refusal :=
  (s.frameIn id (frameBytes .enterService tag []) (fun r t => t.reqEnterService r tag)).done

/-- LEAVE_SERVICE (R189). -/
def execLeaveService (id : CanId) (tag : BitVec 4) (s : State) : Host.Outcome State Fault Refusal :=
  (s.frameIn id (frameBytes .leaveService tag []) (fun r t => t.reqLeaveService r tag)).done

/-- STORE_READ (R188). -/
def execStoreRead (id : CanId) (tag : BitVec 4) (chunk : BitVec 16) (s : State) : Host.Outcome State Fault Refusal :=
  (s.frameIn id (frameBytes .storeRead tag (chunkArg chunk)) (fun r t => t.reqStoreRead r tag chunk)).done

/-- STORE_WRITE (R188). -/
def execStoreWrite (id : CanId) (tag : BitVec 4) (chunk : BitVec 16) (b0 b1 b2 b3 : Byte) (s : State) : Host.Outcome State Fault Refusal :=
  (s.frameIn id (frameBytes .storeWrite tag (chunkArg chunk ++ [b0, b1, b2, b3]))
    (fun r t => t.reqStoreWrite r tag chunk [b0, b1, b2, b3])).done

/-- SOFT_RESET (R173). -/
def execSoftReset (id : CanId) (tag : BitVec 4) (s : State) : Host.Outcome State Fault Refusal :=
  (s.frameIn id (frameBytes .softReset tag []) (fun r t => t.reqSoftReset r tag)).done

/-- REQUEST_FRAME_OTHER (R193). -/
def execRequestFrameOther (id : CanId) (bs : List Byte) (s : State) : Host.Outcome State Fault Refusal := (s.anyFrame id bs).done

/-- A frame by its kind: a remote frame wakes a parked part and is ignored elsewhere (R167, R171). -/
def State.otherFrame (s : State) (id : CanId) (remote : Bool) (bs : List Byte) : State :=
  if remote then s.wake else s.anyFrame id bs

/-- FRAME_OTHER_ID (R171). -/
def execFrameOtherId (id : CanId) (remote : Bool) (bs : List Byte) (s : State) : Host.Outcome State Fault Refusal :=
  (s.otherFrame id remote bs).done

/-- VEHICLE_CONDITION (R132, R134 to R141). -/
def execVehicleCondition (id : CanId) (bs : List Byte) (s : State) : Host.Outcome State Fault Refusal := (s.anyFrame id bs).done

/-- OCCUPANCY (R133, R134 to R141). -/
def execOccupancy (id : CanId) (bs : List Byte) (s : State) : Host.Outcome State Fault Refusal := (s.anyFrame id bs).done

/-! ## The jobs' timers -/

/-- The hold timer of an ACTIVE bus hold job reaches 250 ms (R101). -/
def State.holdLost (s : State) (j : Slot) : State :=
  match s.jm.slots[j] with
  | some x => if x.kind = .hold && x.state == .active && x.holdTimer.running then s.haltJob j .holdLost (some .holdLost) else s
  | none => s

/-- HOLD_EXPIRY (R101). -/
def execHoldExpiry (j : Slot) (s : State) : Host.Outcome State Fault Refusal := (s.holdLost j).done

/-- The deferral timer of a DEFERRED move reaches 8 s (R123). -/
def State.deferralOver (s : State) (j : Slot) (a : Axis) : State :=
  match s.runningJob j with
  | none => s
  | some x => match x.row a with
    | some r => if r.state = .deferred then s.takeOutcome j .blocked none (some a.val) else s
    | none => s

/-- DEFERRAL_TIMEOUT (R123). -/
def execDeferralTimeout (j : Slot) (a : Axis) (s : State) : Host.Outcome State Fault Refusal := (s.deferralOver j a).done

end Machine
end Sys2Proof
end

