-- ==== Sys2Proof/Machine/PortEvents.lean ====
section
/-! DEFINITION. The meanings of the Network Port's events (R111, R174 to R177) and of the Pad Scanner's (R179, R180). -/

namespace Sys2Proof
namespace Machine

/-! ## The port -/

/-- The answer slot of a role whose frame has been sent (R98, R174): it empties, or it keeps the answer that replaced the one sent, whose
overrun flag clears while the mark is present. -/
def State.answerSent (s : State) (r : Role) : State :=
  match s.jm.answers[roleNo r] with
  | some x =>
    if x.loaded then s.setAnswer r none
    else s.setAnswer r (some { x with overrun := x.overrun && !x.replaced, replaced := false })
  | none => s

/-- A job's result has been sent: its slot leaves the done list and is FREE (R111). -/
def State.resultSent (s : State) (j : Slot) : State :=
  match s.jm.doneList with
  | k :: rest => if k = j then { s with jm := { s.jm with doneList := rest, slots := s.jm.slots.set j none } } else s
  | [] => s

/-- The transmission of the loaded frame is complete (R174, R177). -/
def State.frameSent (s : State) : State :=
  match s.np.tx with
  | none => s
  | some f =>
    if s.np.busOff then s
    else
      let s1 := { s with np := { s.np with tx := none, errors := s.np.errors - 1 } }
      match f.source with
      | .answer r => s1.answerSent r
      | .result j => s1.resultSent j
      | .page _ => s1
      | .row _ _ => s1

/-- FRAME_SENT (R174). -/
def execFrameSent (s : State) : Host.Outcome State Fault Refusal := s.frameSent.done

/-- A page's send falls due (R176); in PARK for a page whose change waits. -/
def State.pageFallsDue (s : State) (p : PageNo) : State :=
  if s.sp.power = .park && !s.np.pages[p].changed then s else s.modPage p (fun x => { x with due := true })

/-- PAGE_DUE (R176). -/
def execPageDue (p : PageNo) (s : State) : Host.Outcome State Fault Refusal := (s.pageFallsDue p).done

/-- An error while the part transmits (R177): the count rises by 8, and above 255 the port is in bus-off, with its frame kept. -/
def State.transmitError (s : State) : State :=
  if s.np.tx.isNone || s.np.busOff then s
  else
    let n := s.np.errors + 8
    let off := decide (255 < n)
    { s with np := { s.np with errors := n, busOff := off, busOffTimer := if off then .start else s.np.busOffTimer } }

/-- TX_ERROR (R177). -/
def execTxError (s : State) : Host.Outcome State Fault Refusal := s.transmitError.done

/-- The controller rejoins 200 ms after bus-off, with its error count at 0 (R177). -/
def State.rejoin (s : State) : State :=
  if s.np.busOff then { s with np := { s.np with busOff := false, errors := 0, busOffTimer := .stopped } } else s

/-- BUS_OFF_REJOIN (R177). -/
def execBusOffRejoin (s : State) : Host.Outcome State Fault Refusal := s.rejoin.done

/-! ## The pads -/

/-- The button is debounced pressed. -/
def PadState.isPressed (p : PadState) (b : Button) : Bool := p.pressed.any (fun x => x.1 == b)

/-- A debounced press (R179, R180): it starts its stuck timer; in ACTIVE a FREE pad counts it. In PARK a press is a wake event (R167). -/
def State.padPress (s : State) (p : Pad) (b : Button) : State :=
  if s.sp.power = .park then s.wake
  else if s.ps[padNo p].isPressed b then s
  else
    let s1 := s.modPad p (fun x => { x with pressed := x.pressed ++ [(b, Timer.start)] })
    if s1.sp.power = .active && s1.ps[padNo p].cond == .free then s1.engage p b else s1

/-- PAD_BUTTON_PRESS (R179). -/
def execPadButtonPress (p : Pad) (b : Button) (s : State) : Host.Outcome State Fault Refusal := (s.padPress p b).done

/-- WAITING while another button is pressed, else FREE (R179). -/
def PadState.afterRelease (p : PadState) : PadCond := if p.pressed.isEmpty then .free else .waiting

/-- The condition of a pad after the release of a button that is no longer among its pressed ones (R179). -/
def PadState.release (p : PadState) (b : Button) : PadCond :=
  match p.cond with
  | .free => .free
  | .engaged c => if c = b then p.afterRelease else .engaged c
  | .waiting => p.afterRelease
  | .stuck c => if c = b then p.afterRelease else .stuck c

/-- A debounced release (R104, R179): of the counted hold button, it ends the pad's hold. In PARK no debounce runs. -/
def State.padRelease (s : State) (p : Pad) (b : Button) : State :=
  if s.sp.power = .park || !(s.ps[padNo p].isPressed b) then s
  else
    let counted := s.ps[padNo p].cond == .engaged b && b != .access
    let s1 := s.modPad p (fun x => { x with pressed := x.pressed.filter (fun y => y.1 != b) })
    let s2 := s1.modPad p (fun x => { x with cond := x.release b })
    if counted then s2.endPadHold p .done none else s2

/-- PAD_BUTTON_RELEASE (R179). -/
def execPadButtonRelease (p : Pad) (b : Button) (s : State) : Host.Outcome State Fault Refusal := (s.padRelease p b).done

/-- A stuck timer that PARK stops before its event is taken: held at 30 s, it exceeds them after the wake (R180). -/
def PadState.holdStuck (p : PadState) (b : Button) : PadState :=
  { p with pressed := p.pressed.map (fun x => if x.1 = b then (x.1, { running := false, ms := min 30000 x.2.ms }) else x) }

/-- A stuck timer exceeds 30 s (R180): the pad is STUCK with that button, and an ENGAGED pad reports its counted button. In PARK the timer
stands. -/
def State.padSticks (s : State) (p : Pad) (b : Button) : State :=
  if s.sp.power = .park then s.modPad p (fun x => x.holdStuck b)
  else if !(s.ps[padNo p].isPressed b) then s
  else
    let s1 := s.modPad p (fun x => { x with cond := .stuck b })
    match s.ps[padNo p].cond with
    | .stuck _ => s
    | .engaged _ => s1.endPadHold p .holdLost (some .holdLost)
    | _ => s1

/-- PAD_STUCK (R180). -/
def execPadStuck (p : Pad) (b : Button) (s : State) : Host.Outcome State Fault Refusal := (s.padSticks p b).done

end Machine
end Sys2Proof
end

