-- ==== Sys2Proof/Machine/Dispatch.lean ====
section
/-! DEFINITION. The dispatch of every command to its meaning: one arm for each constructor of Instr. -/

namespace Sys2Proof
namespace Machine

def exec (i : Instr) (s : State) : Host.Outcome State Fault Refusal :=
  match i with
  | .runArrangement id tag number => Sys2Proof.Machine.execRunArrangement id tag number s
  | .holdMove id tag axis dir => Sys2Proof.Machine.execHoldMove id tag axis dir s
  | .releaseMove id tag axis => Sys2Proof.Machine.execReleaseMove id tag axis s
  | .stopJob id tag target => Sys2Proof.Machine.execStopJob id tag target s
  | .stopAll id tag => Sys2Proof.Machine.execStopAll id tag s
  | .clearFaults id tag set => Sys2Proof.Machine.execClearFaults id tag set s
  | .homeAxes id tag set => Sys2Proof.Machine.execHomeAxes id tag set s
  | .trimAdjust id tag axis code => Sys2Proof.Machine.execTrimAdjust id tag axis code s
  | .enterService id tag => Sys2Proof.Machine.execEnterService id tag s
  | .leaveService id tag => Sys2Proof.Machine.execLeaveService id tag s
  | .storeRead id tag chunk => Sys2Proof.Machine.execStoreRead id tag chunk s
  | .storeWrite id tag chunk b0 b1 b2 b3 => Sys2Proof.Machine.execStoreWrite id tag chunk b0 b1 b2 b3 s
  | .softReset id tag => Sys2Proof.Machine.execSoftReset id tag s
  | .requestFrameOther id data => Sys2Proof.Machine.execRequestFrameOther id data s
  | .frameOtherId id remote data => Sys2Proof.Machine.execFrameOtherId id remote data s
  | .vehicleCondition id data => Sys2Proof.Machine.execVehicleCondition id data s
  | .occupancy id data => Sys2Proof.Machine.execOccupancy id data s
  | .freshnessExpiry kind => Sys2Proof.Machine.execFreshnessExpiry kind s
  | .holdExpiry slot => Sys2Proof.Machine.execHoldExpiry slot s
  | .currentSample axis tenths => Sys2Proof.Machine.execCurrentSample axis tenths s
  | .hallEdge axis gapMicros => Sys2Proof.Machine.execHallEdge axis gapMicros s
  | .hallTimeout axis => Sys2Proof.Machine.execHallTimeout axis s
  | .currentLimitEvent axis => Sys2Proof.Machine.execCurrentLimitEvent axis s
  | .offTimeEnd axis tenths => Sys2Proof.Machine.execOffTimeEnd axis tenths s
  | .commonLegOvercurrent leg => Sys2Proof.Machine.execCommonLegOvercurrent leg s
  | .brakingEnd axis => Sys2Proof.Machine.execBrakingEnd axis s
  | .dwellExpiry axis => Sys2Proof.Machine.execDwellExpiry axis s
  | .markerWriteComplete => Sys2Proof.Machine.execMarkerWriteComplete s
  | .releaseFirstPulseEnd latch => Sys2Proof.Machine.execReleaseFirstPulseEnd latch s
  | .releaseGapEnd latch => Sys2Proof.Machine.execReleaseGapEnd latch s
  | .releaseRetryEnd latch => Sys2Proof.Machine.execReleaseRetryEnd latch s
  | .solenoidHoldTimeout latch => Sys2Proof.Machine.execSolenoidHoldTimeout latch s
  | .relockCheckExpiry latch => Sys2Proof.Machine.execRelockCheckExpiry latch s
  | .latchDebounce latch level => Sys2Proof.Machine.execLatchDebounce latch level s
  | .deferralTimeout slot axis => Sys2Proof.Machine.execDeferralTimeout slot axis s
  | .coolingStep axis => Sys2Proof.Machine.execCoolingStep axis s
  | .supplyPause millivolts => Sys2Proof.Machine.execSupplyPause millivolts s
  | .supplyResume millivolts => Sys2Proof.Machine.execSupplyResume millivolts s
  | .pauseWindowExpiry => Sys2Proof.Machine.execPauseWindowExpiry s
  | .powerOnReset millivolts => Sys2Proof.Machine.execPowerOnReset millivolts s
  | .firstLoadEnd => Sys2Proof.Machine.execFirstLoadEnd s
  | .storeWriteComplete => Sys2Proof.Machine.execStoreWriteComplete s
  | .serviceTimeout => Sys2Proof.Machine.execServiceTimeout s
  | .serviceDeferredLeave => Sys2Proof.Machine.execServiceDeferredLeave s
  | .parkEntry => Sys2Proof.Machine.execParkEntry s
  | .parkWriteComplete => Sys2Proof.Machine.execParkWriteComplete s
  | .wakeEvent source => Sys2Proof.Machine.execWakeEvent source s
  | .wakingEnd => Sys2Proof.Machine.execWakingEnd s
  | .frameSent => Sys2Proof.Machine.execFrameSent s
  | .pageDue page => Sys2Proof.Machine.execPageDue page s
  | .txError => Sys2Proof.Machine.execTxError s
  | .busOffRejoin => Sys2Proof.Machine.execBusOffRejoin s
  | .padButtonPress pad button => Sys2Proof.Machine.execPadButtonPress pad button s
  | .padButtonRelease pad button => Sys2Proof.Machine.execPadButtonRelease pad button s
  | .padStuck pad button => Sys2Proof.Machine.execPadStuck pad button s

end Machine
end Sys2Proof
end

