-- ==== Sys2Proof/Machine/Tick.lean ====
section
/-! DEFINITION. What the block does on an empty queue (log 1): one millisecond passes on every timer that runs, and each timed event that falls
due then joins the queue as its command. -/

namespace Sys2Proof
namespace Machine

/-! ## One millisecond -/

/-- One millisecond on a timer. -/
def Timer.tick (t : Timer) : Timer := if t.running then { t with ms := t.ms + 1 } else t

def Move.tick (m : Move) : Move := { m with offTimer := m.offTimer.tick }

def Channel.tick (c : Channel) : Channel :=
  { c with hallTimer := c.hallTimer.tick, restTimer := c.restTimer.tick, move := c.move.map Move.tick }

def Latch.tick (l : Latch) : Latch :=
  { l with stepTimer := l.stepTimer.tick, solenoidTimer := l.solenoidTimer.tick, relockTimer := l.relockTimer.tick }

def Row.tick (r : Row) : Row := { r with timer := r.timer.tick }

def Scene.tick (sc : Scene) : Scene := { sc with rows := sc.rows.map Row.tick }

def Job.tick (x : Job) : Job := { x with holdTimer := x.holdTimer.tick, scene := x.scene.map Scene.tick }

def Thermal.tick (t : Thermal) : Thermal := { t with cooling := t.cooling.tick }

def StoreWrite.tick (w : StoreWrite) : StoreWrite := { w with timer := w.timer.tick }

def Page.tick (p : Page) : Page := { p with timer := p.timer.tick }

def PadState.tick (p : PadState) : PadState := { p with pressed := p.pressed.map (fun b => (b.1, b.2.tick)) }

/-- One millisecond on every running timer of the part. -/
def State.advance (s : State) : State :=
  { s with
    ac := s.ac.map Channel.tick
    lc := s.lc.map Latch.tick
    jm := { s.jm with slots := s.jm.slots.map (fun (x : Option Job) => x.map Job.tick) }
    iu := { s.iu with vehicleTimer := s.iu.vehicleTimer.tick, occupancyTimer := s.iu.occupancyTimer.tick }
    tw := s.tw.map Thermal.tick
    sp := { s.sp with window := s.sp.window.tick, waking := s.sp.waking.tick, parkQuiet := s.sp.parkQuiet.tick }
    st := { s.st with serviceTimer := s.st.serviceTimer.tick, write := s.st.write.map StoreWrite.tick }
    np := { s.np with busOffTimer := s.np.busOffTimer.tick, pages := s.np.pages.map Page.tick }
    ps := s.ps.map PadState.tick }

/-! ## The events that a millisecond makes due -/

/-- The timer runs and has reached this very millisecond. -/
def Timer.reaches (t : Timer) (ms : Nat) : Bool := t.running && t.ms == ms

/-- The off time ends in the millisecond in which its time is over (R33; log 43). -/
def Move.offTimeDue (m : Move) : Bool := m.inOffTime && m.offTimer.reaches ((Config.offTimeMicros m.offCode + 999) / 1000)

/-- The current a sample would read at the end of an off time that the block reaches by itself (log 43). -/
def State.resumeCurrent (s : State) (a : Axis) : Nat := Config.resumeCurrent s.picks a.val % 256

/-- The timed event of a channel (R28, R29, R30, R33) and of its cooling timer (R159). A cooling timer that PARK entry held at 1 s, its step not
yet taken, steps in the first millisecond after the wake. -/
def State.channelDue (s : State) (a : Axis) : List Instr :=
  (match s.ac[a].move with
    | some m =>
      (if s.ac[a].hallTimer.reaches m.timeoutMs then [Instr.hallTimeout a] else [])
        ++ (if m.offTimeDue then [.offTimeEnd a (s.resumeCurrent a)] else [])
    | none => [])
    ++ (if s.ac[a].motion == .braking && s.ac[a].restTimer.reaches 80 then [.brakingEnd a] else [])
    ++ (if s.ac[a].motion == .dwell && s.ac[a].restTimer.reaches 150 then [.dwellExpiry a] else [])
    ++ (if s.tw[a].cooling.running && decide (1000 ≤ s.tw[a].cooling.ms) then [.coolingStep a] else [])

/-- The timed events of a Latch Channel (R64, R65, R68). -/
def State.latchDue (s : State) (l : LatchNo) : List Instr :=
  (if s.lc[l].step == .firstPulse && s.lc[l].stepTimer.reaches 300 then [Instr.releaseFirstPulseEnd l] else [])
    ++ (if s.lc[l].step == .gap && s.lc[l].stepTimer.reaches 500 then [.releaseGapEnd l] else [])
    ++ (if s.lc[l].step == .retryPulse && s.lc[l].stepTimer.reaches 800 then [.releaseRetryEnd l] else [])
    ++ (if s.lc[l].solenoidTimer.reaches 3000 then [.solenoidHoldTimeout l] else [])
    ++ (if s.lc[l].relock == .pending && s.lc[l].relockTimer.reaches 400 then [.relockCheckExpiry l] else [])

/-- The timed events of a job: the hold timer (R101) and the deferral timers (R123). -/
def State.jobDue (s : State) (j : Slot) : List Instr :=
  match s.jm.slots[j] with
  | none => []
  | some x =>
    (if x.holdTimer.reaches 250 then [Instr.holdExpiry j] else [])
      ++ (match x.scene with
        | some sc => (sc.rows.filter (fun r => r.timer.reaches 8000)).map (fun r => .deferralTimeout j r.axis)
        | none => [])

/-- How long a write to the store takes, in milliseconds (R166, R168, R188). -/
def WriteKind.duration : WriteKind → Nat
  | .service => 5 | .park => 30 | .marker => 5

/-- The event that ends a write. -/
def WriteKind.completion : WriteKind → Instr
  | .service => .storeWriteComplete | .park => .parkWriteComplete | .marker => .markerWriteComplete

/-- The timed events of the supply, power and store (R164, R165, R167, R189) and of the freshness timers (R134). -/
def State.unitDue (s : State) : List Instr :=
  (if s.iu.vehicleTimer.reaches 400 then [Instr.freshnessExpiry .vehicleCondition] else [])
    ++ (if s.iu.occupancyTimer.reaches 600 then [.freshnessExpiry .occupancy] else [])
    ++ (if s.sp.window.reaches 2000 then [.pauseWindowExpiry] else [])
    ++ (if s.sp.waking.reaches 40 then [.wakingEnd] else [])
    ++ (if s.sp.parkQuiet.reaches 3000 then [.parkEntry] else [])
    ++ (if s.st.serviceTimer.reaches 30000 then [.serviceTimeout] else [])
    ++ (if s.st.service && s.st.leavePending && s.noJob && s.st.write.isNone then [.serviceDeferredLeave] else [])
    ++ (match s.st.write with
      | some w => if w.timer.reaches w.kind.duration then [w.kind.completion] else []
      | none => [])
    ++ (if s.np.busOffTimer.reaches 200 then [.busOffRejoin] else [])

/-- A page's send falls due (R176): a change waits and 50 ms have passed since its send, or 500 ms have; in PARK for a change alone. -/
def State.pageDueNow (s : State) (p : PageNo) : Bool :=
  !s.np.pages[p].due
    && ((s.np.pages[p].changed && decide (50 ≤ s.np.pages[p].timer.ms))
      || (s.sp.power != .park && decide (500 ≤ s.np.pages[p].timer.ms)))

/-- The buttons of a pad whose stuck timer exceeds 30 s with this millisecond (R180). -/
def State.padDue (s : State) (p : Pad) : List Instr :=
  (s.ps[padNo p].pressed.filter (fun b => b.2.reaches 30001)).map (fun b => .padStuck p b.1)

/-- Every timed event that this millisecond makes due. The end of the first load has no time in the manual and comes as a command alone. -/
def State.timedEvents (s : State) : List Instr :=
  axes.flatMap s.channelDue ++ latches.flatMap s.latchDue ++ slotNos.flatMap s.jobDue ++ s.unitDue
    ++ (pageNos.filter s.pageDueNow).map Instr.pageDue ++ s.padDue .left ++ s.padDue .right

/-- One millisecond of idling: a frame that is ready is loaded (R174; after a reset the first page, R176), the timers advance, and the events
that fall due then are queued, in a free order (log 1, log 6). -/
def State.tick (s : State) : State :=
  let s1 := s.pump.advance
  let o := s1.shuffled s1.timedEvents
  { o.2 with picks := o.2.picks + 1, pending := o.2.pending ++ o.1 }

end Machine
end Sys2Proof
end

