-- ==== Sys2Proof/Safety.lean ====
section
/-! DEFINITION. What counts as a good state, and what one event leaves unchanged, in the terms the statements use. -/

namespace Sys2Proof
namespace Machine

/-! ## Good states -/

/-- The store is in its canonical form. -/
def State.StoreGood (s : State) : Prop := Memory.wf s.st.memory = true

/-- The persistent values of a channel lie in the ranges of table 1 of 02. -/
def Channel.InRange (c : Channel) : Prop :=
  c.position ≤ 32767 ∧ c.stray ≤ 255 ∧ 5 ≤ c.ilr ∧ c.ilr ≤ 200 ∧ c.coast ≤ 255 ∧ c.marginTrim ≤ 15 ∧ c.timeoutTrim ≤ 15 ∧ c.streak ≤ 3

/-- Every channel lies in its ranges. -/
def State.ChannelsGood (s : State) : Prop := ∀ a : Axis, s.ac[a].InRange

/-- The wait list holds one entry for each axis, in ascending rank and, within one rank, in ascending arrival order, with no arrival number above the
counter of 16 bits (R54). -/
def Arbiter.WaitGood (d : Arbiter) : Prop :=
  (d.wait.map WaitEntry.axis).Nodup
    ∧ d.wait.Pairwise (fun e f => e.rank < f.rank ∨ (e.rank = f.rank ∧ e.arrival < f.arrival))
    ∧ (∀ e ∈ d.wait, e.arrival ≤ d.arrival) ∧ d.arrival ≤ 65535

/-- What an axis reserves can only fall from here on (R52): a grant held for the marker write stands on an IDLE axis, and a grant that has not reached
RUNNING holds at least the running reservation. -/
def State.Spare (s : State) (d : DriveCopy) (a : Axis) : Prop :=
  ∀ g, s.da.grants[a] = some g → (g.held = true → s.ac[a].motion = .idle)
    ∧ (g.held = true ∨ s.ac[a].motion = .releasing ∨ s.ac[a].motion = .starting → d.axis[a].runRes ≤ g.reservation)

/-- With DRIVE valid, the reservations lie within B_total, and those of each common leg's group within its L_max (R47, R52). -/
def State.BudgetGood (s : State) : Prop :=
  ∀ d, s.st.drive = some d → (∀ a : Axis, d.axis[a].runRes ≤ d.axis[a].startRes)
    ∧ s.reservedTotal ≤ d.bTotal ∧ (∀ l : Leg, s.legSum l ≤ d.lMax[l]) ∧ ∀ a : Axis, s.Spare d a

/-- The Job Manager's records agree: the done list holds exactly the DONE slots, each once (R110); an axis is claimed by a slot exactly when the slot's
job, not yet DONE, claims it (R96); each class list holds exactly the slots of its class that are not DONE, each once (R95); and the pads' jobs, and
they alone, stand in the pads' slots (R92). -/
structure JobManager.Good (u : JobManager) : Prop where
  done : u.doneList.Nodup ∧ ∀ j : Slot, j ∈ u.doneList ↔ ∃ x, u.slots[j] = some x ∧ x.state = .done
  claims : ∀ (a : Axis) (j : Slot), u.claims[a] = some j ↔ ∃ x, u.slots[j] = some x ∧ x.state ≠ .done ∧ AxisSet.has x.claimed a = true
  attended : u.attended.Nodup ∧ ∀ j : Slot, j ∈ u.attended ↔ ∃ x, u.slots[j] = some x ∧ x.state ≠ .done ∧ x.cls = .attended
  scenes : u.scenes.Nodup ∧ ∀ j : Slot, j ∈ u.scenes ↔ ∃ x, u.slots[j] = some x ∧ x.state ≠ .done ∧ x.cls = .scene
  services : u.services.Nodup ∧ ∀ j : Slot, j ∈ u.services ↔ ∃ x, u.slots[j] = some x ∧ x.state ≠ .done ∧ x.cls = .service
  placed : ∀ (j : Slot) (x : Job) (p : Pad), u.slots[j] = some x → (x.source = .pad p ↔ j = padSlot p)

/-- Between events no work is left over (log 2). -/
def State.Quiet (s : State) : Prop := s.raised = []

/-! ## What ends every event -/

/-- An answer without its mark of being in the transmit buffer, which the loading of a frame alone sets. -/
def Answer.unmarked (x : Answer) : Answer := { x with loaded := false }

/-- t is u after the end of an event in which no work was raised: the same in everything but what the loading of a frame, the page
buffers, the park-quiet timer and the arrival counter take from it (R17, R54, R165, R174, R175). -/
structure State.Settles (u t : State) : Prop where
  ac : t.ac = u.ac
  lc : t.lc = u.lc
  da : t.da = { u.da with arrival := if u.da.wait.isEmpty then 0 else u.da.arrival }
  slots : t.jm.slots = u.jm.slots
  lists : t.jm.attended = u.jm.attended ∧ t.jm.scenes = u.jm.scenes ∧ t.jm.services = u.jm.services ∧ t.jm.doneList = u.jm.doneList
  claims : t.jm.claims = u.jm.claims
  answers : t.jm.answers.map (fun x => x.map Answer.unmarked) = u.jm.answers.map (fun x => x.map Answer.unmarked)
  lastPad : t.jm.lastPad = u.jm.lastPad
  iu : t.iu = u.iu
  validity : t.validity = u.validity
  tw : t.tw = u.tw
  sp : t.sp = { u.sp with parkQuiet := t.sp.parkQuiet }
  st : t.st = u.st
  port : t.np.errors = u.np.errors ∧ t.np.busOff = u.np.busOff ∧ t.np.busOffTimer = u.np.busOffTimer
  ps : t.ps = u.ps
  picks : t.picks = u.picks
  quiet : t.Quiet
  pending : t.pending = u.pending

/-! ## What the work that an event raises leaves unchanged -/

/-- A channel is the same but that its move may reach no job any more (R112). -/
def Channel.SameMove (c d : Channel) : Prop :=
  d = c ∨ d = { c with move := c.move.map (fun m => { m with job := none }) }

/-- What the work raised in one event can make of a channel: its position, trims, and latched flags stay, LOCKED_OUT and the overcurrent flag are
at most set; its learned values stay in their ranges; a channel that is not IDLE stays as it is, or, from RELEASING, STARTING or RUNNING, comes to BRAKING or DWELL. -/
structure Channel.Follows (c d : Channel) : Prop where
  position : d.position = c.position
  trims : d.marginTrim = c.marginTrim ∧ d.timeoutTrim = c.timeoutTrim
  flags : d.limitSeen = c.limitSeen ∧ d.stall = c.stall ∧ d.obstruction = c.obstruction
  lockedOut : c.lockedOut = true → d.lockedOut = true
  overcurrent : c.overcurrent = true → d.overcurrent = true
  range : c.InRange → d.InRange
  moving : c.motion ≠ .idle → c.SameMove d ∨ (c.motion.stoppable = true ∧ (d.motion = .braking ∨ d.motion = .dwell))

/-- What a row holds of its move in the arrangement (R113). -/
def Row.plan (r : Row) : Axis × Nat × Nat × Speed := (r.axis, r.phase, r.target, r.speed)

/-- What a scene holds of its arrangement: the number, and its moves in record order (R113, R115). -/
def Scene.plan (sc : Scene) : Nat × List (Axis × Nat × Nat × Speed) := (sc.number, sc.rows.map Row.plan)

/-- What the work raised in one event can make of a job: the record of the request and the moves of its arrangement stay, its homing list loses
axes at its beginning alone, a decisive outcome stays the first, and a job only goes on towards DONE (R93, R94, R103, R115, R153). -/
structure Job.Follows (x y : Job) : Prop where
  record : y.cls = x.cls ∧ y.source = x.source ∧ y.tag = x.tag ∧ y.kind = x.kind ∧ y.axis = x.axis ∧ y.dir = x.dir ∧ y.claimed = x.claimed
  decided : x.outcome.isSome = true → y.outcome = x.outcome ∧ y.failing = x.failing ∧ y.aux = x.aux
  ended : x.state ≠ .active → y.state ≠ .active
  done : x.state = .done → y.state = .done ∧ y.outcome = x.outcome ∧ y.detail = x.detail ∧ y.offTarget = x.offTarget
  plan : y.scene.map Scene.plan = x.scene.map Scene.plan
  homing : ∀ h, x.homing = some h → ∃ k, y.homing = some k ∧ k.list <:+ h.list

/-- A slot keeps its claims and its place on the class lists (R95, R96). -/
def JobManager.Keeps (u t : JobManager) (j : Slot) : Prop :=
  (∀ a : Axis, u.claims[a] = some j → t.claims[a] = some j)
    ∧ (j ∈ u.attended → j ∈ t.attended) ∧ (j ∈ u.scenes → j ∈ t.scenes) ∧ (j ∈ u.services → j ∈ t.services)

/-- A pad's job stands in that pad's slot alone (R92). -/
def JobManager.PadsPlaced (u : JobManager) : Prop :=
  ∀ (j : Slot) (x : Job) (p : Pad), u.slots[j] = some x → x.source = .pad p → j = padSlot p

/-- What the work raised in one event can make of a pad's slot: its job goes on with its claims, or its end has left the slot FREE and its outcome, DONE
where it had none, in the pad's last-pad-outcome field; a FREE slot and its field stay (R105). -/
structure JobManager.PadKeeps (u t : JobManager) (p : Pad) : Prop where
  job : ∀ x, u.slots[padSlot p] = some x → x.source = .pad p →
    (∃ y, t.slots[padSlot p] = some y ∧ x.Follows y ∧ u.Keeps t (padSlot p))
      ∨ (t.slots[padSlot p] = none ∧ ∃ c, t.lastPad[padNo p] = some c ∧ (x.outcome.isSome = true → x.outcome = some c))
  free : u.slots[padSlot p] = none → t.slots[padSlot p] = none ∧ t.lastPad[padNo p] = u.lastPad[padNo p]

/-- What the scan asks of an entry holds for the move in an axis's channel (R56, R57): DRIVE is valid, the part is ACTIVE with its supply NORMAL, the
axis is neither barred nor HOT, it is VALID or driven by a homing drive, and every predicate that the mask of the move's rank names is true; its
grant stands, the reservations lie within B_total and within L_max of its common leg, which is set at the level the move needs, and while RULES is invalid
no other axis holds a grant. -/
def State.Cleared (s : State) (a : Axis) : Prop :=
  s.sp.power = .active ∧ s.sp.cond = .normal ∧ s.barred a = false ∧ s.tw[a].hot = false
    ∧ ∃ c m g, s.st.drive = some c ∧ s.ac[a].move = some m ∧ s.da.grants[a] = some g ∧ g.held = false
      ∧ (s.validity[a] = .valid ∨ m.kind = .homing) ∧ s.falsePredicate (s.rankMask a m.rank) a = none
      ∧ s.reservedTotal ≤ c.bTotal
      ∧ g.commonLeg = c.axis[a].commonLeg
      ∧ (∀ l, c.axis[a].commonLeg = some l → s.legSum l ≤ c.lMax[l] ∧ s.da.legs[l] = some (neededLevel c.axis[a] m.dir))
      ∧ (s.st.rules = none → ∀ b : Axis, b ≠ a → s.da.grants[b] = none)

/-- The validity, the heat and wear, and the latch of an axis are the same in t as in u. -/
def State.KeepsAxis (u t : State) (a : Axis) : Prop :=
  t.validity[a] = u.validity[a] ∧ t.tw[a] = u.tw[a] ∧ ∀ l : LatchNo, axisOfLatch l = a → t.lc[l] = u.lc[l]

/-- t is what the work raised in one event can make of u. -/
structure State.Follows (u t : State) : Prop where
  ac : ∀ a : Axis, u.ac[a].Follows t.ac[a]
  /-- A channel that comes to drive or to release was cleared for it. -/
  starts : ∀ a : Axis, u.ac[a].motion.stoppable = false → t.ac[a].motion.stoppable = true → t.Cleared a
  /-- A channel that is IDLE and stays so is the same. -/
  idle : ∀ a : Axis, u.ac[a].motion = .idle → t.ac[a].motion = .idle → u.ac[a].SameMove t.ac[a]
  /-- A channel leaves IDLE only while the part is ACTIVE with its supply NORMAL and DRIVE valid (R56, R57). -/
  leaves : ∀ a : Axis, u.ac[a].motion = .idle → t.ac[a].motion ≠ .idle → u.sp.power = .active ∧ u.sp.cond = .normal ∧ u.st.drive.isSome = true
  /-- An axis that stays in its motion state keeps what Recovery and Homing, the heat monitor and its latch hold of it; one in BRAKING or DWELL
  always stays so. -/
  axis : ∀ a : Axis, t.ac[a].motion = u.ac[a].motion → u.KeepsAxis t a
  /-- The grant of a channel that has come to BRAKING or DWELL is at most withdrawn. -/
  grants : ∀ a : Axis, u.ac[a].motion = .braking ∨ u.ac[a].motion = .dwell → t.da.grants[a] = u.da.grants[a] ∨ t.da.grants[a] = none
  heat : ∀ a : Axis, t.tw[a].heat = u.tw[a].heat ∧ t.tw[a].hot = u.tw[a].hot ∧ t.tw[a].estimated = u.tw[a].estimated
  jobs : ∀ (j : Slot) (x : Job), u.jm.slots[j] = some x → (∃ r, x.source = .partner r) → ∃ y, t.jm.slots[j] = some y ∧ x.Follows y
  free : ∀ j : Slot, j.val < 14 → u.jm.slots[j] = none → t.jm.slots[j] = none
  /-- A partner's job that is not DONE keeps its claims and its place on the class lists. -/
  kept : ∀ (j : Slot) (x : Job) (r : Role), u.jm.slots[j] = some x → x.source = .partner r → ∀ y, t.jm.slots[j] = some y → y.state ≠ .done →
    u.jm.Keeps t.jm j
  /-- A pad changes its condition, and takes a job, only where it was FREE and counts a button held at ACTIVE entry (R179). -/
  conds : ∀ p : Pad, t.ps[padNo p].cond = u.ps[padNo p].cond ∨ (Task.padEntry p ∈ u.raised ∧ u.ps[padNo p].cond = .free ∧ t.ps[padNo p].cond ≠ .free)
  pads : u.jm.PadsPlaced → ∀ p : Pad, Task.padEntry p ∉ u.raised → u.jm.PadKeeps t.jm p
  doneList : u.jm.doneList <+: t.jm.doneList
  answers : t.jm.answers.map (fun x => x.map Answer.unmarked) = u.jm.answers.map (fun x => x.map Answer.unmarked)
  legFault : t.da.legFault = u.da.legFault
  iu : t.iu = u.iu
  sp : t.sp = { u.sp with parkQuiet := t.sp.parkQuiet }
  st : t.st = { u.st with write := t.st.write, markerQueued := t.st.markerQueued }
  write : u.st.write.isSome = true → t.st.write = u.st.write
  port : t.np.errors = u.np.errors ∧ t.np.busOff = u.np.busOff ∧ t.np.busOffTimer = u.np.busOffTimer
  pressed : ∀ p : Pad, t.ps[padNo p].pressed = u.ps[padNo p].pressed
  pending : t.pending = u.pending

/-! ## The shapes that statements share -/

/-- The channel has come to BRAKING at a position with a pending outcome, which is the move's own where it had one (R27, R28). -/
def Channel.BrakesWith (c : Channel) (m : Move) (code : Code) (p : Nat) : Prop :=
  c.motion = .braking ∧ ∃ n, c.move = some n ∧ n.pending = m.pending.or (some code) ∧ n.duty = 0 ∧ n.brakePos = p

/-- The channel drives nothing: it is IDLE, in BRAKING or in DWELL. -/
def Channel.Stopped (c : Channel) : Prop := c.motion.stoppable = false

/-- A partner's job of a slot as a request made it, whatever became of it since in the same event. -/
def State.HoldsJob (t : State) (j : Slot) (x : Job) : Prop := ∃ y, t.jm.slots[j] = some y ∧ x.Follows y

/-- A job that a stop, a release or an expiry has ended: it is ACTIVE no more, and where it had no outcome before it has this one. -/
def State.JobEnded (t : State) (j : Slot) (x : Job) (outcome : Code) : Prop :=
  ∃ y, t.jm.slots[j] = some y ∧ y.state ≠ .active ∧ (x.outcome = none → y.outcome = some outcome)

/-- A pad's job that a stop, a release or a stuck button has ended: it is ACTIVE no more, or its slot is FREE already with its outcome in the pad's
last-pad-outcome field (R105). -/
def State.PadEnded (t : State) (p : Pad) (x : Job) (outcome : Code) : Prop :=
  t.JobEnded (padSlot p) x outcome
    ∨ (t.jm.slots[padSlot p] = none ∧ ∃ c, t.jm.lastPad[padNo p] = some c ∧ (x.outcome = none → c = outcome))

/-- A job that is not DONE stands on the list of its class and owns the axes it claims (R95, R96). -/
def State.JobStands (t : State) (j : Slot) (y : Job) : Prop :=
  y.state ≠ .done → (∀ a : Axis, AxisSet.has y.claimed a = true → t.jm.claims[a] = some j)
    ∧ (match y.cls with | .attended => j ∈ t.jm.attended | .scene => j ∈ t.jm.scenes | .service => j ∈ t.jm.services)

/-- A role's pending-refusal slot holds an answer of this kind, tag, outcome and detail (R98). -/
def State.Answers (t : State) (r : Role) (k : ReqKind) (tag : BitVec 4) (c : Code) (detail : BitVec 16) : Prop :=
  ∃ x, t.jm.answers[roleNo r] = some x ∧ x.kind = k.code ∧ x.tag = tag ∧ x.code = c ∧ x.detail = detail

/-! ## The reception of a request -/

/-- A request frame reaches its role (R171): the part is not in PARK, the port is not in bus-off, and the identifier is that role's. -/
def State.Hears (s : State) (id : CanId) (r : Role) : Prop := s.sp.power ≠ .park ∧ s.np.busOff = false ∧ s.roleOf id = some r

/-- The state in which a request of a role is taken: in Service Mode any frame of the service tool restarts the service timer (R189). -/
def State.heard (s : State) (r : Role) : State := if r = .service then s.serviceActivity else s

end Machine
end Sys2Proof
end

