-- ==== Sys2Proof/Certificates/Slice0/Obligations.lean ====
section
/-! DEFINITION. The statements for the provers, family by family. t always stands for the state a command leaves; State.Settles and State.Follows of
Safety.lean say what else is unchanged. -/

open Sys2Proof Sys2Proof.Machine

/-! ## The machine as a whole -/

/-- A step takes the command at the front of the queue and executes it on the state with the queue's rest (log 1). -/
def Obligations.StepTakesTheFront : Prop :=
  ∀ (s : State) (c : Instr) (rest : List Instr), s.pending = c :: rest → step s = exec c (s.withQueue rest)

/-- Every command of every state answers a next state; it leaves the queue alone and no work over (log 1, log 2). That no command ends in a fault or a
refusal is the model's choice (DESIGN CHOICE, log 22). -/
def Obligations.EveryCommandCompletes : Prop :=
  ∀ (c : Instr) (s : State), ∃ t, exec c s = .next t ∧ t.pending = s.pending ∧ t.Quiet

/-- On an empty queue a frame that is ready is loaded, one millisecond passes on every running timer, and the events that it makes due, and only they,
join the queue, in an order left open; no other component changes (the model's choice, log 1 and log 34). -/
def Obligations.IdleTick : Prop :=
  ∀ s : State, s.pending = [] → ∃ t, step s = .next t ∧ t.pending.Perm s.pump.advance.timedEvents
    ∧ t = { s.pump.advance with picks := t.picks, pending := t.pending }
    ∧ (s.np.tx.isSome = true ∨ s.np.busOff = true → s.pump = s)
    ∧ (∀ a : Axis, t.ac[a] = { s.ac[a] with
        hallTimer := s.ac[a].hallTimer.tick
        restTimer := s.ac[a].restTimer.tick
        move := s.ac[a].move.map (fun m => { m with offTimer := m.offTimer.tick }) })
    ∧ t.da = s.da ∧ t.validity = s.validity ∧ t.st.memory = s.st.memory ∧ t.raised = s.raised

/-- A power-on reset leaves the values that the spec gives: channels, latches, arbiter, jobs, interlocks, port, pads, power. -/
def Obligations.ResetValues : Prop :=
  (∀ a : Axis, State.reset.ac[a].motion = .idle ∧ State.reset.ac[a].move = none ∧ State.reset.ac[a].lockedOut = false
      ∧ State.reset.ac[a].position = 0 ∧ State.reset.validity[a] = .unhomed ∧ State.reset.ac[a].lastOutcome = none
      ∧ State.reset.da.grants[a] = none ∧ State.reset.jm.claims[a] = none ∧ State.reset.tw[a].hot = false)
    ∧ (∀ l : LatchNo, State.reset.lc[l].state = .unknown ∧ State.reset.lc[l].firstReading = true ∧ State.reset.lc[l].solenoid = .off
      ∧ State.reset.lc[l].relock = .none ∧ State.reset.lc[l].sensorFault = false)
    ∧ (∀ l : Leg, State.reset.da.legs[l] = none ∧ State.reset.da.legFault[l] = false)
    ∧ State.reset.da.wait = [] ∧ State.reset.da.arrival = 0
    ∧ (∀ j : Slot, State.reset.jm.slots[j] = none) ∧ State.reset.jm.doneList = []
    ∧ (∀ r : Role, State.reset.jm.answers[roleNo r] = none) ∧ (∀ p : Pad, State.reset.jm.lastPad[padNo p] = none)
    ∧ State.reset.iu.vehicleFresh = false ∧ State.reset.iu.occupancyFresh = false ∧ State.reset.iu.vehicle = Vehicle.unknown
    ∧ State.reset.np.tx = none ∧ State.reset.np.errors = 0 ∧ State.reset.np.busOff = false
    ∧ (∀ p : PageNo, State.reset.np.pages[p].seq = 0#4 ∧ State.reset.np.pages[p].changed = false ∧ State.reset.np.pages[p].due = true)
    ∧ (∀ p : Pad, State.reset.ps[padNo p].cond = .free ∧ State.reset.ps[padNo p].pressed = [])
    ∧ State.reset.sp.power = .waking ∧ State.reset.sp.cond = .normal ∧ State.reset.sp.wakePending = false
    ∧ State.reset.sp.parkQuiet.running = false ∧ State.reset.st.service = false ∧ State.reset.st.write = none

/-- The state after reset meets the invariants: the store's form, the channels' ranges, the wait list's order, the reservations' limits, the Job
Manager's records, and no work left over. -/
def Obligations.ResetIsGood : Prop :=
  State.reset.StoreGood ∧ State.reset.ChannelsGood ∧ State.reset.Quiet ∧ State.reset.da.WaitGood ∧ State.reset.BudgetGood ∧ State.reset.jm.Good

/-- Every step keeps the store in its canonical form: addresses rising and below 2048, no entry equal to an unwritten byte. -/
def Obligations.StepKeepsStore : Prop :=
  ∀ s t : State, s.StoreGood → step s = .next t → t.StoreGood

/-- Every step keeps every channel's position, stray count, learned values, trims and streak within the ranges of table 1 of 02; the Job Manager's
records in agreement, with the done list exactly the DONE slots and each claim the claiming job's (R92, R95, R96, R110); the wait list one entry for each
axis in rank and arrival order (R54), said but of a pause that gives back a held grant; and, while DRIVE stays the same, the reservations within B_total
and L_max (R47, R52). -/
def Obligations.StepKeepsChannels : Prop :=
  ∀ s t : State, step s = .next t →
    (s.ChannelsGood → t.ChannelsGood)
      ∧ (s.jm.Good → t.jm.Good)
      ∧ (s.da.WaitGood → (∀ mv rest, s.pending = .supplyPause mv :: rest → ∀ a : Axis, s.heldGrant a = none) → t.da.WaitGood)
      ∧ (s.BudgetGood → t.st.drive = s.st.drive → t.BudgetGood)

/-- The store changes only where a write in progress ends or a power-on reset cuts one off, and then by bytes of that write (12, introduction). -/
def Obligations.StoreChangesOnlyByWrites : Prop :=
  ∀ (c : Instr) (s t : State), exec c s = .next t → t.st.memory ≠ s.st.memory →
    (∃ w n, s.st.write = some w ∧ t.st.memory = memWriteAll s.st.memory (w.bytes.take n))
      ∧ (c = .storeWriteComplete ∨ c = .parkWriteComplete ∨ c = .markerWriteComplete ∨ (∃ mv, c = .powerOnReset mv)
        ∨ (∃ mv, mv < 6000 ∧ (c = .supplyPause mv ∨ c = .supplyResume mv)))

/-- No command but the end of the marker write brings an axis from rest to RELEASING, STARTING or RUNNING unless every terminal and wait test stands
passed for its move: DRIVE valid, the part ACTIVE with its supply NORMAL, the axis neither LOCKED_OUT, barred nor HOT, VALID or driven by a homing drive,
every predicate of its mask true, its grant within B_total and L_max, its common leg at the level it needs, and alone while RULES is invalid (R56, R57).
The end of the marker write does so for these and for the axes whose grants it held (R168). -/
def Obligations.NoMotionStartsUncleared : Prop :=
  (∀ (c : Instr) (s t : State) (a : Axis), c ≠ .markerWriteComplete → exec c s = .next t → s.ac[a].motion.stoppable = false →
    t.ac[a].motion.stoppable = true → t.Cleared a)
  ∧ ∀ (s t : State) (a : Axis), exec .markerWriteComplete s = .next t → s.ac[a].motion.stoppable = false →
    t.ac[a].motion.stoppable = true → t.Cleared a ∨ (s.heldGrant a).isSome = true

/-! ## The Cabin Map and the predicates -/

/-- FLAT_FLOOR (R15) and ALL_LATCHES_LOCKED (R16); FAULT_PRESENT and MOTION (R9); and the use state of a seat by the order of R13, with the lists of
R12. -/
def Obligations.FlatFloor : Prop :=
  ∀ s : State,
    (s.flatFloor = true ↔ ∃ c, s.st.seats = some c ∧ c.flatFloor ≠ 0#7
      ∧ ∀ n : SeatNo, c.flatFloor.getLsbD n.val = true → s.seatUse n = .folded ∨ s.seatUse n = .stowed)
    ∧ (s.allLatchesLocked = true ↔ ∀ l : LatchNo, s.lc[l].state = .locked ∨ (s.lc[l].state = .opened ∧ s.validity[axisOfLatch l] = .valid
      ∧ ∃ d, s.driveAxis (axisOfLatch l) = some d
        ∧ ¬ (d.upright.1 ≤ s.ac[axisOfLatch l].position ∧ s.ac[axisOfLatch l].position ≤ d.upright.2)
        ∧ ¬ (d.folded.1 ≤ s.ac[axisOfLatch l].position ∧ s.ac[axisOfLatch l].position ≤ d.folded.2)))
    ∧ (s.faultPresent = true ↔ (∃ a : Axis, s.ac[a].stall = true ∨ s.ac[a].obstruction = true ∨ s.ac[a].overcurrent = true ∨ s.ac[a].lockedOut = true)
      ∨ ∃ l : Leg, s.da.legFault[l] = true)
    ∧ (s.motionFlag = true ↔ ∃ a : Axis, s.ac[a].motion ∈ [.releasing, .starting, .running, .braking])
    ∧ ∀ n : SeatNo,
      (n.val < 2 → s.seatUse n = .notManaged)
      ∧ (2 ≤ n.val → s.st.seats = none → s.seatUse n = .unknown)
      ∧ (∀ c, s.st.seats = some c → c.def n = none → s.seatUse n = .notManaged)
      ∧ ∀ c d, s.st.seats = some c → c.def n = some d →
        let fits : List Term → Prop := fun l => l ≠ [] ∧ ∀ t ∈ l, t.lo ≤ s.ac[t.axis].position ∧ s.ac[t.axis].position ≤ t.hi
        let lost : Prop := ∃ a : Axis, AxisSet.has d.axes a = true ∧ s.validity[a] ≠ .valid
        let moves : Prop := ∃ a : Axis, AxisSet.has d.axes a = true
          ∧ (s.jm.claims[a].isSome = true ∨ s.ac[a].motion ∈ [.releasing, .starting, .running, .braking])
        let usable : Prop := fits d.usable ∧ ∀ l : LatchNo, AxisSet.has d.axes (axisOfLatch l) = true → s.lc[l].state = .locked
        (s.seatUse n = .unknown ↔ lost)
          ∧ (s.seatUse n = .moving ↔ ¬ lost ∧ moves)
          ∧ (s.seatUse n = .usable ↔ ¬ lost ∧ ¬ moves ∧ usable)
          ∧ (s.seatUse n = .stowed ↔ ¬ lost ∧ ¬ moves ∧ ¬ usable ∧ fits d.stowed)
          ∧ (s.seatUse n = .folded ↔ ¬ lost ∧ ¬ moves ∧ ¬ usable ∧ ¬ fits d.stowed ∧ fits d.folded)
          ∧ (s.seatUse n = .between ↔ ¬ lost ∧ ¬ moves ∧ ¬ usable ∧ ¬ fits d.stowed ∧ ¬ fits d.folded)

/-- P0 STANDSTILL and P1 IN_PARK, the same for every axis (R135); P2 SEATS_EMPTY and P3 NO_CHILD_SEAT of an axis by its seats, S2 to S6 while SEATS is
invalid (R136); and P4 REAR_ACCESS of an axis by its side, with the default sides while DRIVE is invalid and A6 on both sides (R137). -/
def Obligations.PredicatesOfVehicle : Prop :=
  ∀ (s : State) (a : Axis),
    let carries : Fin 5 → Prop := fun k => s.st.seats = none ∨ ∃ c d, s.st.seats = some c ∧ c.seat[k] = some d ∧ AxisSet.has d.axes a = true
    (s.predicate 0 a = true ↔ s.iu.vehicleFresh = true ∧ ∃ v, s.iu.vehicle.speed = some v ∧ v ≤ 30)
      ∧ (s.predicate 1 a = true ↔ s.iu.vehicleFresh = true ∧ s.iu.vehicle.gear = .p)
      ∧ (s.predicate 2 a = true ↔ s.iu.occupancyFresh = true ∧ ∀ k : Fin 5, carries k → s.iu.seats[k].occupied = .no)
      ∧ (s.predicate 3 a = true ↔ s.iu.occupancyFresh = true ∧ ∀ k : Fin 5, carries k → s.iu.seats[k].childSeat = .no)
      ∧ (s.predicate 4 a = true ↔ s.iu.vehicleFresh = true ∧ (s.iu.vehicle.tailgate = .opened
        ∨ (s.iu.vehicle.rearLeft = .opened ∧ (s.side a = .left ∨ s.side a = .both))
        ∨ (s.iu.vehicle.rearRight = .opened ∧ (s.side a = .right ∨ s.side a = .both))))
      ∧ s.side 6 = .both
      ∧ (s.st.drive = none → a ≠ 6 → s.side a = if a = 0 ∨ a = 2 ∨ a = 4 then .left else .right)
      ∧ (∀ d, s.st.drive = some d → a ≠ 6 → s.side a = d.axis[a].side)

/-! ## The Envelope Unit and the Drive Arbiter -/

/-- Every envelope contains the position of its axis (R84), soft limits being in order as a valid DRIVE has them. An axis that is not VALID, or drives
home, occupies its soft range, any other granted axis the hull of its position and its stop point, and the rest their position (R79). An axis has an
envelope when it is VALID and DRIVE is valid (R81); a count lies in it when it lies in the start interval and each rule that names the axis and is in force
admits it (R81, R82): beyond the guarded zone the counts short of it, and within it those on the side of the nearer edge, the lower one when both are
equally near (R83). A target is within when it lies in the envelope (R86), and two axes share a rule that names both (R85). -/
def Obligations.EnvelopeHoldsPosition : Prop :=
  (∀ (s : State) (x : Axis) (d : DriveAxis) (e : Nat × Nat), s.driveAxis x = some d → d.softLo ≤ d.softHi → s.envelope x = some e →
    e.1 ≤ s.ac[x].position ∧ s.ac[x].position ≤ e.2)
  ∧ (∀ (s : State) (y : Axis), let p : Nat := s.ac[y].position
    (∀ d, s.driveAxis y = some d → s.validity[y] ≠ .valid → s.occupied y = (d.softLo, d.softHi))
      ∧ (∀ d g, s.driveAxis y = some d → s.da.grants[y] = some g → g.entry.kind = .homing → s.occupied y = (d.softLo, d.softHi))
      ∧ (∀ g z, s.validity[y] = .valid → s.da.grants[y] = some g → g.entry.kind ≠ .homing → g.stop = some z → s.occupied y = (min p z, max p z))
      ∧ (s.validity[y] = .valid → s.da.grants[y] = none → s.occupied y = (p, p)))
  ∧ (∀ (s : State) (x : Axis), s.envelope x = none ↔ s.validity[x] ≠ .valid ∨ s.driveAxis x = none)
  ∧ (∀ (s : State) (x : Axis) (t : Nat), s.within x t = true ↔ ∃ e, s.envelope x = some e ∧ e.1 ≤ t ∧ t ≤ e.2)
  ∧ (∀ (s : State) (x y : Axis), s.shareRule x y = true ↔ ∃ r ∈ s.st.rules.getD [], (r.axisA = x ∧ r.axisB = y) ∨ (r.axisA = y ∧ r.axisB = x))
  ∧ ∀ (s : State) (x : Axis) (d : DriveAxis) (e : Nat × Nat) (q : Nat), s.driveAxis x = some d → d.softLo ≤ d.softHi → s.envelope x = some e →
    let p : Nat := s.ac[x].position
    let inForce : Axis → Nat × Nat → Nat → Prop := fun y z g => (s.occupied y).1 ≤ min 32767 (z.2 + g) ∧ z.1 - g ≤ (s.occupied y).2
    let admits : Nat × Nat → Nat → Prop := fun z g =>
      if p < z.1 - g then q < z.1 - g
      else if min 32767 (z.2 + g) < p then min 32767 (z.2 + g) < q
      else if p - (z.1 - g) ≤ min 32767 (z.2 + g) - p then q ≤ p
      else p ≤ q
    (e.1 ≤ q ∧ q ≤ e.2) ↔ (min p d.softLo ≤ q ∧ q ≤ max p d.softHi)
      ∧ ∀ r ∈ s.st.rules.getD [],
        (r.axisA = x → inForce r.axisB r.zoneB r.guard → admits r.zoneA r.guard)
          ∧ (r.axisA ≠ x → r.axisB = x → inForce r.axisA r.zoneA r.guard → admits r.zoneB r.guard)

/-- A scan never takes the reservations above B_total, nor those on a common leg above its L_max (R57). -/
def Obligations.ScanKeepsBudget : Prop :=
  ∀ (s : State) (d : DriveCopy), s.st.drive = some d →
    (s.reservedTotal ≤ d.bTotal → s.scan.reservedTotal ≤ d.bTotal)
      ∧ ∀ l : Leg, s.legSum l ≤ d.lMax[l] → s.scan.legSum l ≤ d.lMax[l]

/-- A scan hands an entry that fails a terminal test back to its job, with the outcome of the test, and takes it off the list (R55, R56); said of
the first entry of the list, while no grant is held for the marker write. -/
def Obligations.TerminalRemoval : Prop :=
  ∀ (s : State) (e : WaitEntry) (rest : List WaitEntry) (c : Code) (p : Option Nat),
    s.da.wait = e :: rest → (∀ x ∈ rest, x.axis ≠ e.axis) → (∀ a : Axis, s.heldGrant a = none) → s.terminalTest e = some (c, p) →
    (∀ x ∈ s.scan.da.wait, x.axis ≠ e.axis) ∧ Task.removed e (.terminal c p) ∈ s.scan.raised
      ∧ s.scan.da.grants[e.axis] = s.da.grants[e.axis] ∧ s.scan.ac[e.axis] = s.ac[e.axis]

/-- A scan grants the first entry of the list when it passes every test (R55 to R58, R19): the entry leaves the list and the grant table holds it with
its start reservation. Where the marker is 1 the grant is held, the channel stays as it is and the marker write starts; where the marker is 0 the channel
leaves IDLE with a fresh move, for RELEASING when its latch reads LOCKED and else for STARTING (R168). A first entry that the envelope test removes goes
back to its job with why. The wait tests (R57) and, once they pass, the envelope test are stated whole: a scene move is granted with its target within the
envelope as stop point, a hold with the edge in its direction when it lies beyond the tolerance, a back-off with its clipped target likewise, and a homing
drive with no stop point and its travel limit while no other axis that shares a rule with it holds a grant; every stop point lies in the envelope (R58). -/
def Obligations.FirstEntryGranted : Prop :=
  (∀ (s : State) (e : WaitEntry) (rest : List WaitEntry) (d : DriveAxis) (target stop travel : Option Nat),
    s.da.wait = e :: rest → (∀ x ∈ rest, x.axis ≠ e.axis) → (∀ a : Axis, s.heldGrant a = none) → s.driveAxis e.axis = some d →
    s.terminalTest e = none → s.decideEntry e = .grant target stop travel →
    (∀ x ∈ s.scan.da.wait, x.axis ≠ e.axis)
      ∧ (∃ g, s.scan.da.grants[e.axis] = some g ∧ g.entry = e ∧ g.target = target ∧ g.stop = stop ∧ g.travel = travel ∧ g.reservation = d.startRes
        ∧ g.held = s.sp.marker)
      ∧ (s.sp.marker = true → s.scan.ac[e.axis] = s.ac[e.axis]
        ∧ (s.st.write = none → ∃ w, s.scan.st.write = some w ∧ w.kind = .marker ∧ w.bytes = s.st.markerBytes))
      ∧ (s.sp.marker = false → s.scan.ac[e.axis].motion = (if s.latchLocked e.axis then .releasing else .starting)
        ∧ s.scan.ac[e.axis].stray = 0 ∧ s.scan.ac[e.axis].lastDir = e.dir
        ∧ (∃ m, s.scan.ac[e.axis].move = some m ∧ m.kind = e.kind ∧ m.dir = e.dir ∧ m.stop = stop ∧ m.rank = e.rank ∧ m.job = some e.slot
          ∧ m.samples = 0 ∧ m.edges = 0 ∧ m.limitEvents = 0 ∧ m.lowCurrent = true ∧ m.pending = none ∧ m.endedAtStop = false))
      ∧ (rest = [] → s.scan.da.wait = [] ∧ ∀ b : Axis, b ≠ e.axis → s.scan.ac[b] = s.ac[b])
      ∧ (e.kind ≠ .homing → d.softLo ≤ d.softHi → ∃ v z, s.envelope e.axis = some v ∧ stop = some z ∧ v.1 ≤ z ∧ z ≤ v.2))
  ∧ (∀ (s : State) (e : WaitEntry) (rest : List WaitEntry) (why : Removal),
    s.da.wait = e :: rest → (∀ x ∈ rest, x.axis ≠ e.axis) → (∀ a : Axis, s.heldGrant a = none) → s.terminalTest e = none → s.decideEntry e = .remove why →
    (∀ x ∈ s.scan.da.wait, x.axis ≠ e.axis) ∧ Task.removed e why ∈ s.scan.raised
      ∧ s.scan.da.grants[e.axis] = s.da.grants[e.axis] ∧ s.scan.ac[e.axis] = s.ac[e.axis])
  ∧ ∀ (s : State) (e : WaitEntry),
    (s.waitTest e = true ↔ ∃ c, s.st.drive = some c ∧ s.ac[e.axis].motion = .idle ∧ s.reservedTotal + c.axis[e.axis].startRes ≤ c.bTotal
      ∧ (∀ l, c.axis[e.axis].commonLeg = some l → s.legSum l + c.axis[e.axis].startRes ≤ c.lMax[l]
        ∧ (s.da.legs[l] = none ∨ s.da.legs[l] = some (if e.dir = .positive then c.axis[e.axis].sense else !c.axis[e.axis].sense)))
      ∧ s.sp.power = .active ∧ s.sp.cond = .normal ∧ (s.st.rules.isSome = true ∨ ∀ a : Axis, s.da.grants[a] = none))
    ∧ (s.waitTest e = false → s.decideEntry e = .wait)
    ∧ (s.waitTest e = true →
      let p : Nat := s.ac[e.axis].position
      (∀ x, e.kind = .scene → e.target = some x →
        s.decideEntry e = if s.within e.axis x then .grant (some x) (some x) none else .remove .deferred)
      ∧ (∀ v, e.kind = .hold → s.envelope e.axis = some v →
        let z : Nat := match e.dir with | .positive => v.2 | .negative => v.1
        s.decideEntry e = if s.tolerance e.axis < Sys2Proof.dist z p then .grant none (some z) none else .remove .limited)
      ∧ (∀ v x, e.kind = .backOff → s.envelope e.axis = some v → e.target = some x →
        let z : Nat := max v.1 (min v.2 x)
        s.decideEntry e = if s.tolerance e.axis < Sys2Proof.dist z p then .grant (some z) (some z) none else .remove .madeWithoutMotion)
      ∧ (∀ d, e.kind = .homing → s.driveAxis e.axis = some d → (∀ b : Axis, b ≠ e.axis → s.shareRule e.axis b = true → s.da.grants[b] = none) →
        s.decideEntry e = .grant none none (some (d.softHi - d.softLo + 2000)))
      ∧ (∀ b : Axis, e.kind = .homing → b ≠ e.axis → s.shareRule e.axis b = true → s.da.grants[b] ≠ none → s.decideEntry e = .wait))

/-! ## Requests -/

/-- An accepted RUN_ARRANGEMENT becomes a SCENE job in the lowest FREE slot, with the claimed set of R115, one row for each move in record order and the
axes to home first in the homing order; while it is not DONE it stands on the scene list and owns its axes (R94 to R97, R113 to R116). -/
def Obligations.RunAccepted : Prop :=
  ∀ (s : State) (id : CanId) (r : Role) (tag : BitVec 4) (n : Byte) (x : Arrangement) (j : Slot),
    s.Hears id r → (s.heard r).gate r .run (decide (n.toNat ≤ 15)) = none → (s.heard r).runCheck (r == .tailgate) n.toNat = .ok x →
    (s.heard r).slotFor r = .ok j →
    (∀ k : Slot, k < j → s.jm.slots[k] ≠ none)
      ∧ ∃ t, exec (.runArrangement id tag n) s = .next t
      ∧ ((s.heard r).takeSlot j (s.runJob (.partner r) tag none x)).Follows t
      ∧ ∃ y, t.jm.slots[j] = some y ∧ y.cls = .scene ∧ y.source = .partner r ∧ y.tag = tag ∧ y.kind = .run ∧ y.claimed = s.claimSet x
        ∧ t.JobStands j y
        ∧ y.scene.map Scene.plan = some (x.number, x.moves.map (fun m => (m.axis, m.phase, m.target, if x.quiet || m.quiet then .quiet else .normal)))
        ∧ (s.homingQueue x ≠ [] → ∃ h, y.homing = some h ∧ h.list <:+ s.homingQueue x)

/-- An accepted HOLD_MOVE becomes an ATTENDED job that claims its axis and, while it is not DONE, stands on the attended list and owns it; a repeat in the
same direction restarts its hold timer, and one in the opposite direction is refused BUSY with the job's slot (R95 to R97, R99, R100). -/
def Obligations.HoldAccepted : Prop :=
  ∀ (s : State) (id : CanId) (r : Role) (tag : BitVec 4) (ab db : Byte) (a : Axis) (dir : Dir) (j : Slot),
    s.Hears id r → axisArg ab = some a → dirArg db = some dir → (s.heard r).gate r .hold true = none →
    ((s.activeHold r a = none → (s.heard r).holdCheck a dir = none → (s.heard r).slotFor r = .ok j →
      ∃ t, exec (.holdMove id tag ab db) s = .next t
        ∧ ((s.heard r).takeSlot j (holdJob (.partner r) tag none a dir .start)).Follows t
        ∧ ∃ y, t.jm.slots[j] = some y ∧ y.cls = .attended ∧ y.source = .partner r ∧ y.tag = tag ∧ y.kind = .hold ∧ y.axis = some a
          ∧ y.dir = some dir ∧ y.claimed = AxisSet.one a ∧ t.JobStands j y)
    ∧ (∀ x : Job, s.Quiet → s.activeHold r a = some j → s.jm.slots[j] = some x →
      ∃ t, exec (.holdMove id tag ab db) s = .next t ∧
        (if x.dir = some dir then ((s.heard r).setSlot j (some { x with holdTimer := .start })).Settles t
          else t.Answers r .hold tag .busy (wordDetail j.val)
            ∧ ((s.heard r).answer r .hold tag { code := .busy, failing := none, detail := some (wordDetail j.val) }).Settles t)))

/-- The steps before a kind's own checks, in their order: arguments, permission, Service Mode (R97, R172); NO_SLOT and QUOTA (R92, R97); and a request that
any check refuses leaves nothing but its answer in the sender's pending-refusal slot (R98); said of the three kinds that become jobs. Then the kinds' own
checks, each in its order with its refusal, failing axis and detail: a hold's (R99), a run's with its claimed set (R114, R115) and a homing's (R151). That
a run's NOT_ALLOWED names the lowest-numbered false predicate first, and then the lowest-numbered axis that needs it, is the model's reading (DEDUCED,
log 14), and that a hold's refusals name no failing axis is its choice (DESIGN CHOICE, log 15). -/
def Obligations.RefusedLeavesAnswer : Prop :=
  (∀ (s : State) (r : Role) (k : ReqKind) (good : Bool),
    (s.gate r k good = some .badArgument ↔ good = false)
      ∧ (s.gate r k good = some .notPermitted ↔ good = true ∧ permitted r k = false)
      ∧ (s.gate r k good = some .mode ↔ good = true ∧ permitted r k = true ∧ s.st.service = true ∧ (k = .run ∨ k = .hold ∨ k = .release))
      ∧ (permitted .service k = true)
      ∧ (permitted .body k = true ↔ k ∈ [.run, .hold, .release, .stopJob, .stopAll, .clearFaults])
      ∧ (permitted .tailgate k = true ↔ k ∈ [.run, .stopJob, .stopAll])
      ∧ (permitted .restraint k = true ↔ k = .stopAll)
      ∧ (s.slotFor r = .error .noSlot ↔ ∀ j : Slot, j.val < 14 → s.jm.slots[j] ≠ none)
      ∧ (s.slotFor r = .error .quota ↔ (∃ j : Slot, j.val < 14 ∧ s.jm.slots[j] = none) ∧ 4 ≤ s.partnerCount r))
  ∧ (∀ (s : State) (id : CanId) (r : Role) (tag : BitVec 4) (b b' : Byte), s.Quiet → s.Hears id r →
    (∀ c, (s.heard r).gate r .run (decide (b.toNat ≤ 15)) = some c →
      ∃ t, exec (.runArrangement id tag b) s = .next t ∧ ((s.heard r).refuse r .run tag c).Settles t)
    ∧ (∀ e, (s.heard r).gate r .run (decide (b.toNat ≤ 15)) = none → (s.heard r).runCheck (r == .tailgate) b.toNat = .error e →
      ∃ t, exec (.runArrangement id tag b) s = .next t ∧ ((s.heard r).answer r .run tag e).Settles t)
    ∧ (∀ x c, (s.heard r).gate r .run (decide (b.toNat ≤ 15)) = none → (s.heard r).runCheck (r == .tailgate) b.toNat = .ok x →
      (s.heard r).slotFor r = .error c → ∃ t, exec (.runArrangement id tag b) s = .next t ∧ ((s.heard r).refuse r .run tag c).Settles t)
    ∧ (axisArg b = none ∨ dirArg b' = none →
      ∃ t, exec (.holdMove id tag b b') s = .next t ∧ ((s.heard r).refuse r .hold tag .badArgument).Settles t)
    ∧ (∀ a dir, axisArg b = some a → dirArg b' = some dir → ∀ c, (s.heard r).gate r .hold true = some c →
      ∃ t, exec (.holdMove id tag b b') s = .next t ∧ ((s.heard r).refuse r .hold tag c).Settles t)
    ∧ (∀ a dir, axisArg b = some a → dirArg b' = some dir → (s.heard r).gate r .hold true = none → s.activeHold r a = none →
      (∀ e, (s.heard r).holdCheck a dir = some e →
        ∃ t, exec (.holdMove id tag b b') s = .next t ∧ ((s.heard r).answer r .hold tag e).Settles t)
      ∧ (∀ c, (s.heard r).holdCheck a dir = none → (s.heard r).slotFor r = .error c →
        ∃ t, exec (.holdMove id tag b b') s = .next t ∧ ((s.heard r).refuse r .hold tag c).Settles t))
    ∧ (setArg b = none → ∃ t, exec (.homeAxes id tag b) s = .next t ∧ ((s.heard r).refuse r .home tag .badArgument).Settles t)
    ∧ (∀ m, setArg b = some m →
      (∀ c, (s.heard r).gate r .home true = some c →
        ∃ t, exec (.homeAxes id tag b) s = .next t ∧ ((s.heard r).refuse r .home tag c).Settles t)
      ∧ (∀ e, (s.heard r).gate r .home true = none → (s.heard r).homeCheck m = some e →
        ∃ t, exec (.homeAxes id tag b) s = .next t ∧ ((s.heard r).answer r .home tag e).Settles t)
      ∧ (∀ c, (s.heard r).gate r .home true = none → (s.heard r).homeCheck m = none → (s.heard r).slotFor r = .error c →
        ∃ t, exec (.homeAxes id tag b) s = .next t ∧ ((s.heard r).refuse r .home tag c).Settles t)))
  ∧ ∀ s : State,
    let taken : Axis → Prop := fun a => s.jm.claims[a] ≠ none
    let shut : Axis → Prop := fun a => s.ac[a].lockedOut = true ∨ ∃ d l, s.driveAxis a = some d ∧ d.commonLeg = some l ∧ s.da.legFault[l] = true
    let lost : Axis → Prop := fun a => s.validity[a] ≠ .valid
    let lowest : AxisSet → (Axis → Prop) → Axis → Prop := fun m f a =>
      AxisSet.has m a = true ∧ f a ∧ ∀ b : Axis, b < a → AxisSet.has m b = true → ¬ f b
    let free : AxisSet → (Axis → Prop) → Prop := fun m f => ∀ a : Axis, AxisSet.has m a = true → ¬ f a
    let busy : Option Axis → Slot → Refused := fun a j => { code := .busy, failing := a, detail := some (wordDetail j.val) }
    let barred : Axis → Refused := fun a => { code := .lockedOut, failing := some a, detail := none }
    let unmet : Option Axis → Fin 5 → Refused := fun a n => { code := .notAllowed, failing := a, detail := some (wordDetail n.val) }
    (∀ (a : Axis) (dir : Dir),
      let needs : Fin 5 → Prop := fun n => (s.attendedMask a).getLsbD n.val = true
      let room : Prop := ∃ e, s.envelope a = some e
        ∧ s.tolerance a < Sys2Proof.dist (match dir with | .positive => e.2 | .negative => e.1) s.ac[a].position
      (∀ j, s.jm.claims[a] = some j → s.holdCheck a dir = some (busy none j))
      ∧ (¬ taken a → lost a → s.holdCheck a dir = some (.bare .unverified))
      ∧ (¬ taken a → ¬ lost a → shut a → s.holdCheck a dir = some (.bare .lockedOut))
      ∧ (∀ n, ¬ taken a → ¬ lost a → ¬ shut a → needs n → s.predicate n a = false → (∀ k : Fin 5, k < n → needs k → s.predicate k a = true) →
        s.holdCheck a dir = some (unmet none n))
      ∧ (¬ taken a → ¬ lost a → ¬ shut a → (∀ n, needs n → s.predicate n a = true) → ¬ room →
        s.holdCheck a dir = some { code := .atLimit, failing := none, detail := some (wordDetail s.ac[a].position) })
      ∧ (¬ taken a → ¬ lost a → ¬ shut a → (∀ n, needs n → s.predicate n a = true) → room → s.holdCheck a dir = none))
    ∧ (∀ (tailgate : Bool) (n : Nat),
      ((∀ y ∈ s.st.arrangements.getD [], y.number ≠ n) → s.runCheck tailgate n = .error (.bare .unknownArrangement))
      ∧ ∀ x, s.arrangement n = some x →
        let m : AxisSet := s.claimSet x
        let known : Prop := s.st.drive.isSome = true ∧ s.st.rules.isSome = true
        let ready : Prop := known ∧ (tailgate = true → x.cargo = true)
        let homed : Prop := x.autoHome = true ∨ free x.axes lost
        let lacks : Fin 5 → Axis → Prop := fun k a => s.predicate k a = false ∧ ((AxisSet.has m a = true ∧ (s.automaticMask a).getLsbD k.val = true)
          ∨ (k = 1 ∧ x.parkRequired = true) ∨ (k = 4 ∧ x.rearAccess = true ∧ AxisSet.has x.axes a = true))
        x ∈ s.st.arrangements.getD [] ∧ x.number = n
        ∧ (∀ a : Axis, AxisSet.has m a = true ↔ (∃ v ∈ x.moves, v.axis = a) ∨ (x.autoHome = true ∧ lost a))
        ∧ (¬ known → s.runCheck tailgate n = .error (.bare .storeInvalid))
        ∧ (known → tailgate = true → x.cargo = false → s.runCheck tailgate n = .error (.bare .notPermitted))
        ∧ (∀ a j, ready → lowest m taken a → s.jm.claims[a] = some j → s.runCheck tailgate n = .error (busy (some a) j))
        ∧ (∀ a, ready → free m taken → lowest m shut a → s.runCheck tailgate n = .error (barred a))
        ∧ (∀ a, ready → free m taken → free m shut → x.autoHome = false → lowest x.axes lost a →
          s.runCheck tailgate n = .error { code := .unverified, failing := some a, detail := none })
        ∧ (∀ k a, ready → free m taken → free m shut → homed → lacks k a → (∀ i b, i < k → ¬ lacks i b) → (∀ b : Axis, b < a → ¬ lacks k b) →
          s.runCheck tailgate n = .error (unmet (if k.val < 2 then none else some a) k))
        ∧ (ready → free m taken → free m shut → homed → (∀ k a, ¬ lacks k a) → s.runCheck tailgate n = .ok x))
    ∧ ∀ m : AxisSet,
      let still : Prop := s.predicate 0 0 = true ∧ s.predicate 1 0 = true
      (s.predicate 0 0 = false → s.homeCheck m = some (unmet none 0))
      ∧ (s.predicate 0 0 = true → s.predicate 1 0 = false → s.homeCheck m = some (unmet none 1))
      ∧ (∀ a j, still → lowest m taken a → s.jm.claims[a] = some j → s.homeCheck m = some (busy (some a) j))
      ∧ (∀ a, still → free m taken → lowest m shut a → s.homeCheck m = some (barred a))
      ∧ (still → free m taken → free m shut → s.homeCheck m = none)

/-- RELEASE_MOVE ends the partner's ACTIVE hold job on the axis: an axis that its move drives brakes with outcome DONE, one that it releases comes to DWELL
with outcome DONE (where none was pending), and a waiting entry of the job leaves the list; a hold that still waits alone, its axis at rest, is DONE with
outcome DONE at once. With no ACTIVE hold job of the partner on the axis it is refused NO_JOB (R101, R27, R110). -/
def Obligations.ReleaseEndsHold : Prop :=
  ∀ (s : State) (id : CanId) (r : Role) (tag : BitVec 4) (ab : Byte) (a : Axis),
    s.Hears id r → axisArg ab = some a → (s.heard r).gate r .release true = none →
    (∀ (j : Slot) (x : Job), s.activeHold r a = some j → s.jm.slots[j] = some x →
      ∃ t y, exec (.releaseMove id tag ab) s = .next t ∧ (s.heard r).Follows t ∧ t.jm.slots[j] = some y ∧ y.state ≠ .active ∧ x.Follows y
        ∧ t = ((s.heard r).haltJob j .done none).conclude
        ∧ ((s.heard r).haltJob j .done none).da.wait = s.da.wait.filter (fun e => e.slot != j)
        ∧ (∀ m, AxisSet.has x.claimed a = true → s.ac[a].move = some m → m.job = some j →
          (s.ac[a].motion.driving = true → t.ac[a].BrakesWith m .done s.ac[a].position)
            ∧ (s.ac[a].motion = .releasing → t.ac[a].motion = .dwell ∧ t.ac[a].lastOutcome = some (m.pending.getD .done)))
        ∧ (∀ e, s.Quiet → s.da.wait = [e] → e.slot = j → (∀ b : Axis, s.heldGrant b = none) →
          (∀ b : Axis, AxisSet.has x.claimed b = true → s.ac[b].motion = .idle ∨ s.ac[b].motion = .dwell) →
          (∀ l : LatchNo, s.lc[l].relock = .pending → s.lc[l].relockJob ≠ some j) → x.outcome = none → x.waitsPause = false →
          t.da.wait = [] ∧ y.state = .done ∧ y.outcome = some .done ∧ t.jm.doneList = s.jm.doneList ++ [j]
            ∧ ∀ b : Axis, t.ac[b].motion = s.ac[b].motion))
    ∧ (s.Quiet → s.activeHold r a = none → ∃ t, exec (.releaseMove id tag ab) s = .next t ∧ ((s.heard r).refuse r .release tag .noJob).Settles t)

/-- STOP_JOB stops every ACTIVE job of the sender with the tag, with outcome STOPPED, and is answered DONE with the lowest such slot; with no such job
it is refused NO_JOB (R106, R109). -/
def Obligations.StopJobStops : Prop :=
  ∀ (s : State) (id : CanId) (r : Role) (tag : BitVec 4) (b : Byte), s.Hears id r → (s.heard r).gate r .stopJob (decide (b.toNat ≤ 15)) = none →
    (∀ j rest, s.taggedJobs r (b.setWidth 4) = j :: rest →
      ∃ t, exec (.stopJob id tag b) s = .next t ∧ t.Answers r .stopJob tag .done (wordDetail j.val)
        ∧ ∀ k ∈ j :: rest, ∀ x, s.jm.slots[k] = some x → x.state = .active → t.JobEnded k x .stopped
          ∧ ∀ (a : Axis) (m : Move), AxisSet.has x.claimed a = true → s.ac[a].move = some m → m.job = some k →
            s.ac[a].motion.stoppable = true → t.ac[a].motion = .braking ∨ t.ac[a].motion = .dwell)
    ∧ (s.Quiet → s.taggedJobs r (b.setWidth 4) = [] →
      ∃ t, exec (.stopJob id tag b) s = .next t ∧ ((s.heard r).refuse r .stopJob tag .noJob).Settles t)

/-- STOP_ALL stops every ACTIVE job of the three class lists with outcome STOPPED, the pads' as the partners', brakes the axes that their moves drive or
release, and is answered DONE (R105, R107, R109). -/
def Obligations.StopAllStops : Prop :=
  ∀ (s : State) (id : CanId) (r : Role) (tag : BitVec 4), s.Hears id r → permitted r .stopAll = true →
    ∃ t, exec (.stopAll id tag) s = .next t
      ∧ (∃ x, t.jm.answers[roleNo r] = some x ∧ x.kind = ReqKind.stopAll.code ∧ x.tag = tag ∧ x.code = .done)
      ∧ ∀ k ∈ s.jm.attended ++ s.jm.scenes ++ s.jm.services, ∀ x, s.jm.slots[k] = some x → x.state = .active →
        (∀ q, x.source = .partner q → t.JobEnded k x .stopped)
          ∧ (∀ p, x.source = .pad p → s.Quiet → s.jm.PadsPlaced → t.PadEnded p x .stopped)
          ∧ ∀ (a : Axis) (m : Move), AxisSet.has x.claimed a = true → s.ac[a].move = some m → m.job = some k →
            s.ac[a].motion.stoppable = true → t.ac[a].motion = .braking ∨ t.ac[a].motion = .dwell

/-- CLEAR_FAULTS on unclaimed axes clears their four latched flags, LOCKED_OUT and the stall streak, ends the sensor fault of their latches, clears the
leg faults of their common legs, and leaves every other axis, latch and leg as it is (R36, R51, R72, R173). -/
def Obligations.ClearFaultsClears : Prop :=
  ∀ (s : State) (id : CanId) (r : Role) (tag : BitVec 4) (b : Byte) (m : AxisSet), s.Quiet → s.Hears id r → setArg b = some m →
    (s.heard r).gate r .clearFaults true = none → s.claimedCheck m = none →
    ∃ t, exec (.clearFaults id tag b) s = .next t
      ∧ (∀ a : Axis, t.ac[a] = if AxisSet.has m a then
          { s.ac[a] with limitSeen := false, stall := false, obstruction := false, overcurrent := false, lockedOut := false, streak := 0 } else s.ac[a])
      ∧ (∀ l : LatchNo, t.lc[l] = if AxisSet.has m (axisOfLatch l) ∧ s.lc[l].sensorFault = true then
          { s.lc[l] with sensorFault := false, state := .unknown, firstReading := true, stateBefore := none } else s.lc[l])
      ∧ (∀ l : Leg, t.da.legFault[l] = (s.da.legFault[l]
          && !(axes.any (fun a => AxisSet.has m a && (match s.driveAxis a with | some d => d.commonLeg == some l | none => false)))))
      ∧ t.Answers r .clearFaults tag .done (pairDetail (b) 0#8)
      ∧ (∃ c lc lf, ({ s.heard r with ac := c, lc := lc, da := { s.da with legFault := lf } }.answerDone r .clearFaults tag
          (pairDetail b 0#8)).Settles t)

/-- An accepted HOME_AXES becomes a SERVICE job that claims the set, with the set in the homing order as its list (R95 to R97, R151). A list homes its
axes in turn: the homing drive at rank 2 of the axis at its head, then the back-off from where it stopped, then the next axis, and with none left the
work is finished; an outcome that is not DONE, STOPPED or PAUSED decides the job with the axis (R152, R153). Two points are the model's choice: an axis
whose homing drive ended DONE counts among those the job made VALID though it was VALID before (log 53, where R145 and R155 can be read otherwise), and
without a valid DRIVE the homing direction is negative (log 32). -/
def Obligations.HomeAccepted : Prop :=
  (∀ (s : State) (id : CanId) (r : Role) (tag : BitVec 4) (b : Byte) (m : AxisSet) (j : Slot),
    s.Hears id r → setArg b = some m → (s.heard r).gate r .home true = none → (s.heard r).homeCheck m = none → (s.heard r).slotFor r = .ok j →
    ∃ t, exec (.homeAxes id tag b) s = .next t ∧ ((s.heard r).takeSlot j (s.homeJob r tag m)).Follows t
      ∧ ∃ y, t.jm.slots[j] = some y ∧ y.cls = .service ∧ y.source = .partner r ∧ y.tag = tag ∧ y.kind = .home ∧ y.claimed = m ∧ t.JobStands j y
        ∧ ∃ h, y.homing = some h ∧ h.list <:+ s.homingOrder.filter (fun a => AxisSet.has m a))
  ∧ ∀ (s : State) (j : Slot) (x : Job) (h : Homing), s.jm.slots[j] = some x → x.state = .active → x.outcome = none → x.homing = some h →
    (∀ a rest, h.list = a :: rest → s.entryOf a = none →
      ∃ e y g, (s.homeNext j).entryOf a = some e ∧ e.slot = j ∧ e.rank = 2 ∧ e.kind = .homing ∧ e.dir = s.homingDir a ∧ e.speed = .homing
        ∧ (s.homeNext j).jm.slots[j] = some y ∧ y.homing = some g ∧ g.stage = .drive ∧ g.list = h.list ∧ g.last = some a)
    ∧ (h.list = [] → x.cls = .service → ∃ y, (s.homeNext j).jm.slots[j] = some y ∧ y.state = .ending ∧ y.finished = true ∧ y.outcome = none)
    ∧ (h.list = [] → x.cls = .scene → s.homeNext j = s.startNextPhase j)
    ∧ ∀ e : MoveEnd, h.list.head? = some e.axis → x.scene = none →
      (h.stage = .drive → e.kind = .homing → e.code = .done → e.slot = j → s.entryOf e.axis = none →
        ∃ w y g, (s.takeMoveEnd e).entryOf e.axis = some w ∧ w.slot = j ∧ w.rank = 2 ∧ w.kind = .backOff ∧ w.dir = (s.homingDir e.axis).opposite
          ∧ w.speed = .quiet ∧ w.target = some (backOffTarget e.position s.ac[e.axis].lastDir (s.backOffBy e.axis))
          ∧ (s.takeMoveEnd e).jm.slots[j] = some y ∧ y.homing = some g ∧ g.list = h.list ∧ AxisSet.has g.madeValid e.axis = true)
      ∧ (∀ n, h.stage = .backOff n → e.kind = .backOff → e.code = .done → e.slot = j →
        Task.homeNext j ∈ (s.takeMoveEnd e).raised
          ∧ ∃ y g, (s.takeMoveEnd e).jm.slots[j] = some y ∧ y.homing = some g ∧ g.list = h.list.drop 1 ∧ g.stage = .idle)
      ∧ (e.kind = .homing ∨ e.kind = .backOff → e.code ≠ .done → e.code ≠ .stopped → e.code ≠ .paused → e.slot = j →
        ∃ y g, (s.takeMoveEnd e).jm.slots[j] = some y ∧ y.outcome = some e.code ∧ y.failing = some e.axis ∧ y.homing = some g ∧ g.stage = .idle
          ∧ (x.cls = .service → y.state = .ending))

/-- TRIM_ADJUST on an unclaimed axis moves its trims by the code, each within 0..15, and is answered DONE with the new trims; on a claimed axis it is
refused BUSY with the owning slot (R156). -/
def Obligations.TrimMoves : Prop :=
  ∀ (s : State) (id : CanId) (tag : BitVec 4) (ab : Byte) (a : Axis) (code : Byte), s.Quiet → s.Hears id .service → axisArg ab = some a →
    code.toNat ≤ 8 →
    (s.jm.claims[a] = none → ∃ t, exec (.trimAdjust id tag ab code) s = .next t
      ∧ t.ac[a] = { s.ac[a] with
          marginTrim := if code.toNat ∈ [1, 5, 7] then min 15 (s.ac[a].marginTrim + 1)
            else if code.toNat ∈ [2, 6, 8] then s.ac[a].marginTrim - 1 else s.ac[a].marginTrim
          timeoutTrim := if code.toNat ∈ [3, 5, 8] then min 15 (s.ac[a].timeoutTrim + 1)
            else if code.toNat ∈ [4, 6, 7] then s.ac[a].timeoutTrim - 1 else s.ac[a].timeoutTrim }
      ∧ t.Answers .service .trim tag .done (pairDetail (toByte t.ac[a].marginTrim) (toByte t.ac[a].timeoutTrim))
      ∧ ({ s.heard .service with ac := s.ac.set a t.ac[a] }.answerDone .service .trim tag
          (pairDetail (toByte t.ac[a].marginTrim) (toByte t.ac[a].timeoutTrim))).Settles t)
    ∧ (∀ j, s.jm.claims[a] = some j → ∃ t, exec (.trimAdjust id tag ab code) s = .next t ∧ t.Answers .service .trim tag .busy (wordDetail j.val)
      ∧ t.ac = s.ac)

/-- ENTER_SERVICE enters Service Mode with the service timer from 0 when every slot is FREE and P0 and P1 are true, and is answered DONE; in Service
Mode it restarts the timer without the checks; with a busy slot it is refused BUSY (R187). -/
def Obligations.EnterService : Prop :=
  ∀ (s : State) (id : CanId) (tag : BitVec 4), s.Quiet → s.Hears id .service →
    ((s.st.service = true ∨ (s.noJob = true ∧ s.standstill = true ∧ s.inPark = true)) →
      ∃ t, exec (.enterService id tag) s = .next t
        ∧ ({ s with st := { s.st with service := true, serviceTimer := .start, leavePending := false } }.refuse .service .enterService tag .done).Settles t)
    ∧ (s.st.service = false → s.noJob = false →
      ∃ t, exec (.enterService id tag) s = .next t ∧ (s.refuse .service .enterService tag .busy).Settles t)

/-- Service Mode with every slot FREE and no write in progress ends by LEAVE_SERVICE, by the service timer, or by the leave that it put off, and each
reloads the store; positions, trims and heat stay, HOT meets the new levels, leg faults stay on common legs, and LEAVE_SERVICE answers with the new
validity set. Over a busy slot or a write the timer's leave waits (R51, R160, R184, R189). That the reload makes its areas valid at once in WAKING before
the first load has ended too is the model's choice (log 62), and that a DRIVE left invalid keeps no leg fault is its reading of R51 (DEDUCED, log 38). -/
def Obligations.ServiceEnds : Prop :=
  ∀ (s : State) (id : CanId) (tag : BitVec 4), s.st.service = true →
    let left : State → Prop := fun t =>
      t.st.service = false ∧ t.st.serviceTimer = .stopped ∧ t.st.leavePending = false
        ∧ t.st.memory = s.st.memory ∧ t.st.drive = (loadStore s.st).drive ∧ t.st.rules = (loadStore s.st).rules
        ∧ t.st.seats = (loadStore s.st).seats ∧ t.st.arrangements = (loadStore s.st).arrangements
        ∧ t.st.partners = (loadStore s.st).partners ∧ t.st.report = (loadStore s.st).report
        ∧ (∀ a : Axis, s.ac[a].Follows t.ac[a] ∧ t.tw[a].heat = s.tw[a].heat
          ∧ t.tw[a].hot = (if t.heatLimit ≤ s.tw[a].heat then true else if s.tw[a].heat ≤ t.heatResume then false else s.tw[a].hot))
        ∧ (∀ l : Leg, t.da.legFault[l] = (s.da.legFault[l] && t.isCommonLeg l))
    (s.Hears id .service → s.noJob = true → s.st.write = none →
      ∃ t, exec (.leaveService id tag) s = .next t ∧ left t
        ∧ t.Answers .service .leaveService tag .done (pairDetail (t.st.report.valid.setWidth 8) 0#8))
    ∧ (s.st.serviceTimer.running = true → s.noJob = true → s.st.write = none → ∃ t, exec .serviceTimeout s = .next t ∧ left t)
    ∧ (s.st.leavePending = true → s.noJob = true → s.st.write = none → ∃ t, exec .serviceDeferredLeave s = .next t ∧ left t)
    ∧ (s.Quiet → s.st.serviceTimer.running = true → s.noJob = false ∨ s.st.write.isSome = true → ∃ t, exec .serviceTimeout s = .next t
      ∧ { s with st := { s.st with leavePending := true, serviceTimer := s.st.serviceTimer.hold } }.Settles t)

/-- STORE_READ answers DONE with its chunk and the four bytes: of the store for chunks 0..511, of the load report for 512..515 (R188, R195). -/
def Obligations.StoreReadAnswers : Prop :=
  ∀ (s : State) (id : CanId) (tag : BitVec 4) (chunk : BitVec 16), s.Quiet → s.Hears id .service → chunk.toNat ≤ 515 →
    ∃ t x, exec (.storeRead id tag chunk) s = .next t ∧ t.jm.answers[roleNo .service] = some x ∧ x.code = .done ∧ x.tag = tag
      ∧ x.read = some (chunk.toNat,
        if chunk.toNat ≤ 511 then [memRead s.st.memory (4 * chunk.toNat), memRead s.st.memory (4 * chunk.toNat + 1),
          memRead s.st.memory (4 * chunk.toNat + 2), memRead s.st.memory (4 * chunk.toNat + 3)]
        else if chunk.toNat = 512 then [s.st.report.valid.setWidth 8, 0#8, (s.st.report.clampedTargets >>> 8).setWidth 8,
          s.st.report.clampedTargets.setWidth 8]
        else if chunk.toNat = 513 then [s.st.report.clampedDuties.setWidth 8, (s.st.report.skipped >>> 8).setWidth 8,
          s.st.report.skipped.setWidth 8, 0#8]
        else [0#8, 0#8, 0#8, 0#8])
      ∧ ((s.heard .service).answerRead .service tag chunk.toNat (s.readChunk chunk.toNat)).Settles t

/-- STORE_WRITE in Service Mode with every slot FREE and no write in progress starts a service write of its four bytes; outside Service Mode it is
refused MODE, and over a busy slot or a write it is refused BUSY (R188). -/
def Obligations.StoreWriteStarts : Prop :=
  ∀ (s : State) (id : CanId) (tag : BitVec 4) (chunk : BitVec 16) (b0 b1 b2 b3 : Byte), s.Quiet → s.Hears id .service → chunk.toNat ≤ 511 →
    let w : Nat → StoreWrite := fun n =>
      { kind := .service, bytes := [(4 * n, b0), (4 * n + 1, b1), (4 * n + 2, b2), (4 * n + 3, b3)], tag := tag, timer := .start }
    ∃ t, exec (.storeWrite id tag chunk b0 b1 b2 b3) s = .next t ∧
      (if s.st.service = false then ((s.heard .service).refuse .service .storeWrite tag .mode).Settles t
        else if s.noJob = false ∨ s.st.write.isSome = true then ((s.heard .service).refuse .service .storeWrite tag .busy).Settles t
        else ({ s.heard .service with st := { (s.heard .service).st with write := some (w chunk.toNat) } }).Settles t)

/-- SOFT_RESET with no write in progress: every slot is FREE and every list and claim empty, no channel drives or releases, the four latched flags
are clear while LOCKED_OUT, position, trims, heat and leg faults stay, latches without a sensor fault are UNKNOWN with their solenoid off,
both data kinds are STALE, and the first answer is DONE (R44, R61, R74, R112, R144, R182, R190). -/
def Obligations.SoftResetClears : Prop :=
  ∀ (s : State) (id : CanId) (tag : BitVec 4), s.Quiet → s.Hears id .service → s.st.write = none → s.st.service = false →
    ∃ t, exec (.softReset id tag) s = .next t
      ∧ (∀ j : Slot, t.jm.slots[j] = none) ∧ t.jm.attended = [] ∧ t.jm.scenes = [] ∧ t.jm.services = [] ∧ t.jm.doneList = []
      ∧ (∀ a : Axis, t.jm.claims[a] = none ∧ t.ac[a].motion.stoppable = false ∧ t.ac[a].limitSeen = false ∧ t.ac[a].stall = false
        ∧ t.ac[a].obstruction = false ∧ t.ac[a].overcurrent = false ∧ t.ac[a].position = s.ac[a].position
        ∧ (s.ac[a].lockedOut = true → t.ac[a].lockedOut = true) ∧ t.ac[a].marginTrim = s.ac[a].marginTrim
        ∧ t.ac[a].timeoutTrim = s.ac[a].timeoutTrim ∧ t.tw[a].heat = s.tw[a].heat)
      ∧ (∀ l : LatchNo, t.lc[l].solenoid = .off ∧ t.lc[l].relock = .none
        ∧ (t.lc[l].sensorFault = false → t.lc[l].state = .unknown ∧ t.lc[l].firstReading = true))
      ∧ t.da.wait = [] ∧ t.da.arrival = 0 ∧ t.da.legFault = s.da.legFault
      ∧ t.iu.vehicleFresh = false ∧ t.iu.occupancyFresh = false ∧ t.st = { s.st with serviceTimer := .stopped, leavePending := false, resetQueued := none, markerQueued := false }
      ∧ (∀ p : Pad, t.jm.lastPad[padNo p] = none) ∧ t.Answers .service .softReset tag .done (Config.absentDetail 13 0)

/-- A request frame shorter than two bytes is ignored, and one of no kind, or shorter than its kind uses, is refused BAD_ARGUMENT under its own kind
byte (R193); a remote frame, or a frame on an identifier of no role and no data kind, changes nothing outside PARK (R171). In PARK every frame is a
wake event and is not received, in bus-off too (R167; DEDUCED, log 16), and in bus-off every frame outside PARK is lost (R177). -/
def Obligations.OtherFrames : Prop :=
  (∀ (s : State) (id : CanId) (remote : Bool) (bs : List Byte) (tag : BitVec 4) (n : BitVec 16) (b0 b1 b2 b3 : Byte) (w : WakeSource) (c : Instr),
    c ∈ [.runArrangement id tag b0, .holdMove id tag b0 b1, .releaseMove id tag b0, .stopJob id tag b0, .stopAll id tag, .clearFaults id tag b0,
      .homeAxes id tag b0, .trimAdjust id tag b0 b1, .enterService id tag, .leaveService id tag, .storeRead id tag n, .storeWrite id tag n b0 b1 b2 b3,
      .softReset id tag, .requestFrameOther id bs, .frameOtherId id remote bs, .vehicleCondition id bs, .occupancy id bs] →
    (s.sp.power = .park → exec c s = exec (.wakeEvent w) s)
      ∧ (s.Quiet → s.sp.power ≠ .park → s.np.busOff = true → ∃ t, exec c s = .next t ∧ s.Settles t))
  ∧ ∀ (s : State) (id : CanId) (r : Role) (bs : List Byte), s.Quiet →
    (s.Hears id r → bs.length < 2 → ∃ t, exec (.requestFrameOther id bs) s = .next t ∧ (s.heard r).Settles t)
    ∧ (s.Hears id r → 2 ≤ bs.length → reqKindOf (bs.getD 0 0#8) = none → ∃ t, exec (.requestFrameOther id bs) s = .next t
      ∧ ∃ x, t.jm.answers[roleNo r] = some x ∧ x.kind = bs.getD 0 0#8 ∧ x.tag = (bs.getD 1 0#8).setWidth 4 ∧ x.code = .badArgument)
    ∧ (∀ k, s.Hears id r → 2 ≤ bs.length → reqKindOf (bs.getD 0 0#8) = some k → bs.length < k.length →
      ∃ t, exec (.requestFrameOther id bs) s = .next t ∧ ((s.heard r).refuse r k ((bs.getD 1 0#8).setWidth 4) .badArgument).Settles t)
    ∧ (s.sp.power ≠ .park → ∃ t, exec (.frameOtherId id true bs) s = .next t ∧ s.Settles t)
    ∧ (s.sp.power ≠ .park → s.roleOf id = none → id ≠ s.partners.vehicle → id ≠ s.partners.occupancy →
      ∃ t, exec (.frameOtherId id false bs) s = .next t ∧ s.Settles t)

/-! ## Data frames and the jobs' timers -/

/-- A Vehicle Condition or Occupancy frame of its length replaces the whole content held, makes its kind FRESH and restarts its timer; every axis in
RELEASING, STARTING or RUNNING for which a predicate of its rank's mask is then false is stopped (R132 to R134, R141). A shorter
frame, of fewer than 6 or 4 bytes, changes nothing (R193). -/
def Obligations.DataArrival : Prop :=
  ∀ (s : State) (id : CanId) (bs : List Byte), s.sp.power ≠ .park → s.np.busOff = false → s.roleOf id = none →
    (id = s.partners.vehicle → 6 ≤ bs.length → ∃ t, exec (.vehicleCondition id bs) s = .next t
      ∧ { s with iu := { s.iu with vehicle := vehicleOf bs, vehicleFresh := true, vehicleTimer := .start } }.Follows t
      ∧ ∀ a : Axis, ({ s with iu := t.iu }.interlock a).isSome = true → t.ac[a].Stopped)
    ∧ (id = s.partners.occupancy → id ≠ s.partners.vehicle → 4 ≤ bs.length → ∃ t, exec (.occupancy id bs) s = .next t
      ∧ { s with iu := { s.iu with seats := occupantsOf bs, occupancyFresh := true, occupancyTimer := .start } }.Follows t
      ∧ ∀ a : Axis, ({ s with iu := t.iu }.interlock a).isSome = true → t.ac[a].Stopped)
    ∧ (s.Quiet → id = s.partners.vehicle → bs.length < 6 → ∃ t, exec (.vehicleCondition id bs) s = .next t ∧ s.Settles t)
    ∧ (s.Quiet → id = s.partners.occupancy → id ≠ s.partners.vehicle → bs.length < 4 → ∃ t, exec (.occupancy id bs) s = .next t ∧ s.Settles t)

/-- A freshness timer that ends makes its kind STALE, with the content kept; every predicate that reads it is then false, and every axis that needs
one is stopped (R134, R141). -/
def Obligations.FreshnessExpires : Prop :=
  ∀ (s : State) (k : DataKind),
    (match k with | .vehicleCondition => s.iu.vehicleTimer.running | .occupancy => s.iu.occupancyTimer.running) = true →
    ∃ t, exec (.freshnessExpiry k) s = .next t ∧ { s with iu := t.iu }.Follows t
      ∧ t.iu.vehicle = s.iu.vehicle ∧ t.iu.seats = s.iu.seats
      ∧ (∀ (a : Axis) (n : Fin 5), (match k with | .vehicleCondition => n = 0 ∨ n = 1 ∨ n = 4 | .occupancy => n = 2 ∨ n = 3) →
        t.predicate n a = false)
      ∧ (match k with
        | .vehicleCondition => t.iu.occupancyFresh = s.iu.occupancyFresh ∧ t.iu.occupancyTimer = s.iu.occupancyTimer
        | .occupancy => t.iu.vehicleFresh = s.iu.vehicleFresh ∧ t.iu.vehicleTimer = s.iu.vehicleTimer)
      ∧ ∀ a : Axis, ({ s with iu := t.iu }.interlock a).isSome = true → t.ac[a].Stopped

/-- The expiry of an ACTIVE hold's timer ends the job HOLD_LOST and stops the axis its move drives (R101); the deferral timer of a DEFERRED move ends its
ACTIVE scene with outcome BLOCKED, no failing axis and the move's axis as detail (R123, R125). A scene starts its lowest phase above the one it is in, or
has finished its work (R117); a walk ends a move UNVERIFIED, skips it on its place, places it within its envelope at rank 1, or defers it (R118); a
re-test does the same with a DEFERRED move but never skips it and leaves one that still does not fit (R121); the phase ends when each move is ended-ok or
SKIPPED (R117); and a scene whose unfinished moves are all DEFERRED while nothing moves is BLOCKED by the first of them in record order (R122). -/
def Obligations.JobTimers : Prop :=
  (∀ (s : State) (j : Slot) (x : Job) (r : Role), s.jm.slots[j] = some x → x.source = .partner r → x.state = .active → x.outcome = none →
    (x.kind = .hold → x.holdTimer.running = true →
      ∃ t, exec (.holdExpiry j) s = .next t ∧ s.Follows t ∧ t.JobEnded j x .holdLost
        ∧ ∀ (a : Axis) (m : Move), AxisSet.has x.claimed a = true → s.ac[a].move = some m → m.job = some j →
          s.ac[a].motion.stoppable = true → t.ac[a].motion = .braking ∨ t.ac[a].motion = .dwell)
    ∧ (∀ a w, x.row a = some w → w.state = .deferred →
      ∃ t, exec (.deferralTimeout j a) s = .next t ∧ s.Follows t
        ∧ ∃ y, t.jm.slots[j] = some y ∧ y.outcome = some .blocked ∧ y.failing = none ∧ y.aux = some a.val
          ∧ (x.cls = .scene → (∀ sc, x.scene = some sc → sc.backOffs = 0) → y.state ≠ .active)))
  ∧ ∀ (s : State) (j : Slot) (x : Job) (sc : Scene), s.jm.slots[j] = some x → x.state = .active → x.outcome = none → x.scene = some sc →
    let holds : State → Row → Prop := fun u v => ∃ y, u.jm.slots[j] = some y ∧ y.row v.axis = some v
    let unverified : State → Axis → Prop := fun u a => ∃ y v, u.jm.slots[j] = some y ∧ y.row a = some v ∧ v.state = .ended
      ∧ v.lastEnd = some .unverified ∧ y.outcome = some .unverified ∧ y.failing = some a
    let placed : State → Row → Prop := fun u w => holds u (w.enter .waiting)
      ∧ ∃ e, u.entryOf w.axis = some e ∧ e.slot = j ∧ e.rank = 1 ∧ e.kind = .scene ∧ e.speed = w.speed ∧ e.target = some w.target
        ∧ (s.ac[w.axis].position < w.target → e.dir = .positive) ∧ (w.target < s.ac[w.axis].position → e.dir = .negative)
    (∀ n, (∃ w ∈ sc.rows, w.phase = n) → (∀ p, sc.phase = some p → p < n) →
      (∀ w ∈ sc.rows, (∀ p, sc.phase = some p → p < w.phase) → n ≤ w.phase) →
      (s.startNextPhase j).jm.slots[j] = some { x with scene := some { sc with phase := some n } }
        ∧ (s.startNextPhase j).raised = s.raised ++ [.phaseRows j ((sc.rows.filter (fun w => w.phase == n)).map Row.axis)])
    ∧ ((∀ w ∈ sc.rows, ∃ p, sc.phase = some p ∧ w.phase ≤ p) →
      ∃ y, (s.startNextPhase j).jm.slots[j] = some y ∧ y.state = .ending ∧ y.finished = true ∧ y.outcome = none)
    ∧ (∀ w a, w.axis = a → x.row a = some w → x.cls = .scene →
      (s.validity[a] ≠ .valid → unverified (s.startRow j w) a)
        ∧ (s.validity[a] = .valid → Sys2Proof.dist s.ac[a].position w.target ≤ s.tolerance a →
          holds (s.startRow j w) (w.enter .skipped) ∧ (s.startRow j w).da = s.da)
        ∧ (s.validity[a] = .valid → s.tolerance a < Sys2Proof.dist s.ac[a].position w.target → s.within a w.target = true → s.entryOf a = none →
          placed (s.startRow j w) w)
        ∧ (s.validity[a] = .valid → s.tolerance a < Sys2Proof.dist s.ac[a].position w.target → s.within a w.target = false →
          holds (s.startRow j w) { w with state := .deferred, timer := .start } ∧ (s.startRow j w).da = s.da)
        ∧ (w.state = .deferred → s.validity[a] ≠ .valid → unverified (s.retestRow j w) a)
        ∧ (w.state = .deferred → s.validity[a] = .valid → s.within a w.target = true → s.entryOf a = none → placed (s.retestRow j w) w)
        ∧ (w.state = .deferred → s.validity[a] = .valid → s.within a w.target = false → s.retestRow j w = s))
    ∧ ∀ p, sc.phase = some p →
      ((∀ w ∈ sc.rows, w.phase = p → w.state = .skipped ∨ (w.state = .ended ∧ w.lastEnd = some .done
          ∧ ∀ l : LatchNo, axisOfLatch l = w.axis → s.lc[l].relock = .pending → s.lc[l].relockJob ≠ some j)) →
        s.phaseCheck j = s.startNextPhase j)
      ∧ ((∃ w ∈ sc.rows, w.phase = p ∧ w.state ∈ [.pending, .waiting, .deferred, .granted, .backingOff, .paused]) → s.phaseCheck j = s)
      ∧ (∀ w, (sc.rows.filter (fun v => v.phase == p)).find? (fun v => v.state == .deferred) = some w →
        (∀ v ∈ sc.rows, v.phase = p → v.state ∉ [.pending, .waiting, .granted, .backingOff, .paused]) →
        (∀ a : Axis, s.ac[a].motion = .idle ∨ s.ac[a].motion = .dwell) →
        ∃ y, (s.blockedTest j).jm.slots[j] = some y ∧ y.outcome = some .blocked ∧ y.failing = none ∧ y.aux = some w.axis.val)
      ∧ ((∀ v ∈ sc.rows, v.phase = p → v.state ≠ .deferred)
          ∨ (∃ v ∈ sc.rows, v.phase = p ∧ v.state ∈ [.pending, .waiting, .granted, .backingOff, .paused])
          ∨ (∃ a : Axis, s.ac[a].motion ≠ .idle ∧ s.ac[a].motion ≠ .dwell) → s.blockedTest j = s)

/-! ## Axis Channels -/

/-- A sample of I taken in STARTING or RUNNING raises H to min(65535, H + floor(I × I / 256)), I reading 255 at most, and HOT meets the two levels at
the new H (R158, R160). -/
def Obligations.SampleHeats : Prop :=
  ∀ (s : State) (a : Axis) (i : Nat) (m : Move), s.ac[a].move = some m → s.ac[a].motion = .starting ∨ s.ac[a].motion = .running → m.inOffTime = false →
    ∃ t, exec (.currentSample a i) s = .next t
      ∧ t.tw[a].heat = min 65535 (s.tw[a].heat + min 255 i * min 255 i / 256)
      ∧ t.tw[a].hot = (if t.heatLimit ≤ t.tw[a].heat then true else if t.tw[a].heat ≤ t.heatResume then false else s.tw[a].hot)
      ∧ t.tw[a].estimated = s.tw[a].estimated
      ∧ ∀ b : Axis, b ≠ a → t.tw[b].heat = s.tw[b].heat ∧ t.tw[b].hot = s.tw[b].hot

/-- A sample in STARTING raises the duty by ramp_step up to the run duty; the fifteenth ends blanking and starts the Hall timeout; RUNNING is entered,
with the running reservation, at the first sample with ramp and blanking over. A sample in an off time waits, and outside a drive none is taken (R21, R23). -/
def Obligations.StartingSample : Prop :=
  ∀ (s : State) (a : Axis) (i : Nat) (m : Move), s.Quiet → s.ac[a].move = some m →
    let n : Move := { m with
      samples := m.samples + 1
      lowCurrent := m.lowCurrent && decide (min 255 i < 5)
      duty := min m.runDuty (m.duty + m.rampStep) }
    let c : Channel := { s.ac[a] with
      move := some n
      hallTimer := if n.samples = 15 then .start else s.ac[a].hallTimer }
    let u : State := { s with ac := s.ac.set a c, tw := (s.addHeat a (min 255 i)).tw }
    ∃ t, exec (.currentSample a i) s = .next t
      ∧ (s.ac[a].motion = .starting → m.inOffTime = false → (n.duty = m.runDuty → n.samples < 15) → u.Settles t)
      ∧ (s.ac[a].motion = .starting → m.inOffTime = false → n.duty = m.runDuty → 15 ≤ n.samples →
        ∃ v : State, v = { u with ac := u.ac.set a { c with motion := .running }, da := v.da } ∧ v.da.wait = s.da.wait
          ∧ (∀ g d, s.da.grants[a] = some g → s.driveAxis a = some d → v.da.grants[a] = some { g with reservation := d.runRes })
          ∧ v.Follows t)
      ∧ (s.ac[a].motion = .starting ∨ s.ac[a].motion = .running → m.inOffTime = true →
        { s with ac := s.ac.set a { s.ac[a] with move := some { m with sampleWaits := true } } }.Settles t)
      ∧ (s.ac[a].motion ≠ .starting → s.ac[a].motion ≠ .running → s.Settles t)

/-- A sample in RUNNING joins the sum and count; outside a homing drive one above the threshold lengthens the obstruction run and any other resets it;
a run of 3 sets the obstruction flag and brakes with OBSTRUCTED (R23, R32). -/
def Obligations.RunningSample : Prop :=
  ∀ (s : State) (a : Axis) (i : Nat) (m : Move), s.ac[a].move = some m → s.ac[a].motion = .running → m.inOffTime = false →
    let run : Nat := if m.kind ≠ .homing ∧ m.threshold < min 255 i then m.obstruction + 1 else 0
    let n : Move := { m with
      samples := m.samples + 1
      lowCurrent := m.lowCurrent && decide (min 255 i < 5)
      runSamples := m.runSamples + 1
      runSum := m.runSum + min 255 i
      obstruction := run }
    let c : Channel := { s.ac[a] with move := some n }
    ∃ t, exec (.currentSample a i) s = .next t
      ∧ (run < 3 → s.Quiet → { s with ac := s.ac.set a c, tw := (s.addHeat a (min 255 i)).tw }.Settles t)
      ∧ (3 ≤ run → { s with ac := s.ac.set a { c with obstruction := true }, tw := (s.addHeat a (min 255 i)).tw }.Follows t
        ∧ t.ac[a].obstruction = true ∧ t.ac[a].BrakesWith n .obstructed s.ac[a].position)

/-- A limit event while the channel drives sets limit-seen and counts; the first five are survived, with the leg off; the sixth sets overcurrent and
LOCKED_OUT and brakes with OVERCURRENT. At the end of an off time the leg resumes, and a sample that waited is taken (R23, R33). -/
def Obligations.LimitEvents : Prop :=
  ∀ (s : State) (a : Axis) (i : Nat) (m : Move), s.Quiet → s.ac[a].move = some m → s.ac[a].motion = .starting ∨ s.ac[a].motion = .running →
    (m.inOffTime = false → ∃ t, exec (.currentLimitEvent a) s = .next t
      ∧ (m.limitEvents < 5 →
        { s with ac := s.ac.set a { s.ac[a] with limitSeen := true, move := some { m with limitEvents := m.limitEvents + 1, inOffTime := true, offTimer := .start } } }.Settles t)
      ∧ (5 ≤ m.limitEvents →
        { s with ac := s.ac.set a { s.ac[a] with limitSeen := true, overcurrent := true, lockedOut := true } }.Follows t
          ∧ t.ac[a].limitSeen = true ∧ t.ac[a].overcurrent = true ∧ t.ac[a].lockedOut = true
          ∧ t.ac[a].BrakesWith m .overcurrent s.ac[a].position))
    ∧ (m.inOffTime = true → m.sampleWaits = false → ∃ t, exec (.offTimeEnd a i) s = .next t
      ∧ { s with ac := s.ac.set a { s.ac[a] with move := some { m with inOffTime := false, offTimer := .stopped } } }.Settles t)
    ∧ (m.inOffTime = true → m.sampleWaits = true → exec (.offTimeEnd a i) s
      = exec (.currentSample a i) { s with ac := s.ac.set a { s.ac[a] with move := some { m with inOffTime := false, offTimer := .stopped, sampleWaits := false } } })

/-- A stray edge counts up to 255 and leaves the position; the fourth makes a VALID axis UNVERIFIED; in PARK no edge is seen (R25, R148). -/
def Obligations.StrayEdges : Prop :=
  ∀ (s : State) (a : Axis) (gap : Nat), s.Quiet →
    (s.sp.power = .park → ∃ t, exec (.hallEdge a gap) s = .next t ∧ s.Settles t)
    ∧ (s.sp.power ≠ .park → s.ac[a].motion = .idle → s.solenoidDriven a = false → ∃ t, exec (.hallEdge a gap) s = .next t
      ∧ { s with
          ac := s.ac.set a { s.ac[a] with stray := min 255 (s.ac[a].stray + 1) }
          validity := if s.ac[a].stray = 3 ∧ s.validity[a] = Validity.valid then s.validity.set a .unverified else s.validity }.Settles t)

/-- An edge counted in a move steps the position in the last direction, adds to the edge count, and restarts the Hall timeout and the braking time; it
ends the move at the braking point with DONE, and after a second edge within 1.0 ms with HALL_FAULT and the axis UNHOMED (R24, R26, R28, R34). That an
edge less than 1.0 ms after one that was not counted in STARTING or RUNNING of the move is no Hall fault is the model's reading (DEDUCED, log 17). An
edge in IDLE is counted while the solenoid is driven; a hold ends 20 counts beyond its window; and an edge that takes a LOCKED latch's VALID axis
outside its windows makes the sensor fault, with LOCKED_OUT (R24, R36, R65, R71). -/
def Obligations.CountedEdges : Prop :=
  ∀ (s : State) (a : Axis) (gap p : Nat) (m : Move), s.Quiet → s.sp.power ≠ .park → s.ac[a].motion ≠ .idle ∨ s.solenoidDriven a = true →
    s.ac[a].move = some m → (s.ac[a].lastDir = .positive ∧ s.ac[a].position < 32767 ∧ p = s.ac[a].position + 1
      ∨ s.ac[a].lastDir = .negative ∧ s.ac[a].position = p + 1) →
    let left (l : LatchNo) : Prop := s.lc[l].solenoid = .hold ∧ s.st.drive.isSome = true ∧ ∃ w, s.lc[l].window = some w ∧ (p + 20 ≤ w.1 ∨ w.2 + 20 ≤ p)
    let holds (t : State) : Prop := ∀ l : LatchNo, axisOfLatch l = a → (left l → t.lc[l] = { s.lc[l] with
        solenoid := .off
        step := .none
        stepTimer := .stopped
        window := none
        solenoidTimer := .stopped }) ∧ (¬ left l → t.lc[l] = s.lc[l])
    let driving : Prop := s.ac[a].motion = .starting ∨ s.ac[a].motion = .running
    let stops : Prop := driving ∧ ∃ x, m.stop = some x ∧ remaining m.dir p x ≤ s.ac[a].coast
    let travels : Prop := driving ∧ ∃ x, m.travel = some x ∧ x ≤ m.edges + 1
    let noisy : Prop := driving ∧ gap < 1000 ∧ m.drivenEdge = true
    ∃ t, exec (.hallEdge a gap) s = .next t ∧ ((s.countEdge a p).sensorFaulty a = false → t.ac[a].position = p
      ∧ (∀ b : Axis, b ≠ a → s.ac[b].Follows t.ac[b])
      ∧ (¬ stops → ¬ travels → ¬ noisy → (s.countEdge a p).Settles t ∧ holds t ∧ t.ac[a] = { s.ac[a] with
          position := p
          hallTimer := if s.ac[a].hallTimer.running then .start else s.ac[a].hallTimer
          restTimer := if s.ac[a].motion = .braking then .start else s.ac[a].restTimer
          move := some { m with edges := m.edges + 1, drivenEdge := m.drivenEdge || s.ac[a].motion.driving } })
      ∧ (stops → ¬ travels → ¬ noisy → holds t ∧ t.ac[a].BrakesWith m .done p ∧ ∃ n, t.ac[a].move = some n ∧ n.endedAtStop = true)
      ∧ (¬ stops → travels → ¬ noisy → holds t ∧ t.ac[a].BrakesWith m .homingFailed p)
      ∧ (¬ stops → ¬ travels → noisy → holds t ∧ t.ac[a].BrakesWith m .hallFault p ∧ t.validity[a] = .unhomed))
      ∧ ∀ l : LatchNo, axisOfLatch l = a → s.lc[l].state = .locked → s.lc[l].sensorFault = false → s.validity[a] = .valid → s.st.drive.isSome = true →
        s.ac[a].motion ≠ .releasing → s.lockWindow a p = none → ¬ stops → ¬ travels → ¬ noisy →
        t.lc[l].sensorFault = true ∧ t.lc[l].state = .unknown ∧ t.validity[a] = .unverified ∧ t.ac[a].lockedOut = true ∧ t.ac[a].position = p
          ∧ (left l → t.lc[l].solenoid = .off) ∧ (driving → t.ac[a].BrakesWith m .lockedOut p) ∧ (¬ driving → t.ac[a].motion = s.ac[a].motion)

/-- An edge that would pass 0 or 32767 outside a homing drive leaves the position and makes the axis UNHOMED: HALL_FAULT ends a driving or releasing
move, and replaces the outcome of one that brakes or dwells. A homing drive that has not reached IDLE counts on at the limit, in RELEASING, STARTING,
RUNNING, BRAKING and DWELL alike (R31, R35). That its exemption lasts through BRAKING and DWELL and ends with IDLE, where an edge at the limit with the
solenoid driven makes any axis UNHOMED with outcome HALL_FAULT, is the model's reading (DEDUCED, log 25). -/
def Obligations.EdgesAtTheEnds : Prop :=
  ∀ (s : State) (a : Axis) (gap : Nat) (m : Move), s.Quiet → s.sp.power ≠ .park → s.ac[a].move = some m →
    s.ac[a].lastDir = .positive ∧ 32767 ≤ s.ac[a].position ∨ s.ac[a].lastDir = .negative ∧ s.ac[a].position = 0 →
    ∃ t, exec (.hallEdge a gap) s = .next t
      ∧ (m.kind ≠ .homing → s.ac[a].motion ≠ .idle → t.ac[a].position = s.ac[a].position
        ∧ (s.ac[a].motion = .starting ∨ s.ac[a].motion = .running → t.ac[a].BrakesWith m .hallFault s.ac[a].position ∧ t.validity[a] = .unhomed)
        ∧ (s.ac[a].motion = .releasing → t.ac[a].motion = .dwell ∧ t.ac[a].lastOutcome = some .hallFault ∧ t.validity[a] = .unhomed)
        ∧ (s.ac[a].motion = .braking → t.ac[a].motion = .braking ∧ t.validity[a] = .unhomed
          ∧ ∃ n, t.ac[a].move = some n ∧ n.pending = some .hallFault)
        ∧ (s.ac[a].motion = .dwell → t.ac[a].motion = .dwell ∧ t.ac[a].lastOutcome = some .hallFault ∧ t.validity[a] = .unhomed))
      ∧ (m.kind = .homing → s.ac[a].motion ≠ .idle → (s.countEdge a s.ac[a].position).sensorFaulty a = false →
        (s.ac[a].motion = .starting ∨ s.ac[a].motion = .running → (gap < 1000 → m.drivenEdge = false)
          ∧ (∀ x, m.stop = some x → s.ac[a].coast < remaining m.dir s.ac[a].position x) ∧ ∀ x, m.travel = some x → m.edges + 1 < x) →
        (s.countEdge a s.ac[a].position).Settles t ∧ t.validity = s.validity ∧ t.ac[a] = { s.ac[a] with
          hallTimer := if s.ac[a].hallTimer.running then .start else s.ac[a].hallTimer
          restTimer := if s.ac[a].motion = .braking then .start else s.ac[a].restTimer
          move := some { m with edges := m.edges + 1, drivenEdge := m.drivenEdge || s.ac[a].motion.driving } })
      ∧ (s.ac[a].motion = .idle → s.solenoidDriven a = true →
        let u : State := { s with
          validity := s.validity.set a .unhomed
          ac := s.ac.set a { s.ac[a] with lastOutcome := some .hallFault, move := some { m with pending := some .hallFault, pendingPred := none } } }
        u.Follows t ∧ (m.job = none → u.Settles t))

/-- The Hall timeout brakes the move: MOTOR_OPEN with LOCKED_OUT while no sample has reached 0.5 A; else a homing drive ends DONE at its home
reference, and any other move STALLED, with the stall flag, the streak up by one and LOCKED_OUT at the third (R30, R31, R37, R150). -/
def Obligations.HallTimeouts : Prop :=
  ∀ (s : State) (a : Axis) (m : Move), s.ac[a].move = some m → s.ac[a].motion = .starting ∨ s.ac[a].motion = .running →
    s.ac[a].hallTimer.running = true →
    ∃ t, exec (.hallTimeout a) s = .next t
      ∧ (m.lowCurrent = true → { s with ac := s.ac.set a { s.ac[a] with lockedOut := true } }.Follows t ∧ t.ac[a].lockedOut = true
        ∧ t.ac[a].BrakesWith m .motorOpen s.ac[a].position)
      ∧ (m.lowCurrent = false → m.kind ≠ .homing → t.ac[a].BrakesWith m .stalled s.ac[a].position ∧ t.ac[a].stall = true
        ∧ t.ac[a].streak = min 3 (s.ac[a].streak + 1) ∧ t.ac[a].lockedOut = (s.ac[a].lockedOut || decide (2 ≤ s.ac[a].streak))
        ∧ t.ac[a].position = s.ac[a].position ∧ t.ac[a].limitSeen = s.ac[a].limitSeen ∧ t.ac[a].obstruction = s.ac[a].obstruction)
      ∧ (m.lowCurrent = false → m.kind = .homing → t.ac[a].BrakesWith m .done s.ac[a].position
        ∧ (∀ d, s.driveAxis a = some d → d.homeRef ≤ 32767 → t.ac[a].position = d.homeRef) ∧ t.ac[a].stall = s.ac[a].stall
        ∧ t.ac[a].streak = s.ac[a].streak)
      ∧ ∀ b : Axis, b ≠ a → s.ac[b].Follows t.ac[b]

/-- A common leg above 30.0 A latches its fault and stops every member that drives or releases, with OVERCURRENT and the overcurrent flag but no
LOCKED_OUT; a leg already at fault changes nothing (R33, R50). -/
def Obligations.LegOvercurrent : Prop :=
  ∀ (s : State) (l : Leg), s.sp.power ≠ .park → s.isCommonLeg l = true → ∃ t, exec (.commonLegOvercurrent l) s = .next t
    ∧ (s.da.legFault[l] = false → { s with da := { s.da with legFault := s.da.legFault.set l true } }.Follows t
      ∧ ∀ (a : Axis) (m : Move), s.grantLeg a = some l → s.ac[a].move = some m →
        (s.ac[a].motion.stoppable = true → t.ac[a].overcurrent = true ∧ (t.ac[a].motion = .braking ∨ t.ac[a].motion = .dwell))
        ∧ (s.ac[a].motion.driving = true → t.ac[a].BrakesWith m .overcurrent s.ac[a].position ∧ t.ac[a].lockedOut = s.ac[a].lockedOut))
    ∧ (s.da.legFault[l] = true → s.Quiet → s.Settles t)

/-- BRAKING ends in DWELL, the end of the move: its outcome is the pending one or DONE, the off-target flag is set by the tolerance, the grant goes, a
clean move alone updates Ilr and C, ends the streak and counts, and a homing stop makes the axis VALID; a latch that then reads LOCKED on a VALID axis
outside both windows is a sensor fault, which makes the axis UNVERIFIED (R28, R36, R39 to R41, R53, R71, R150, R162). That a move which has reached
its stop point and then saturates in BRAKING, with outcome HALL_FAULT, is clean by the same four conditions is the model's choice (log 46). -/
def Obligations.BrakingEnds : Prop :=
  ∀ (s : State) (a : Axis) (m : Move), s.ac[a].motion = .braking → s.ac[a].move = some m →
    let code : Code := m.pending.getD .done
    let c : Channel := s.ac[a]
    let v : Validity := if m.kind = .homing ∧ code = .done then .valid else s.validity[a]
    ∃ t, exec (.brakingEnd a) s = .next t ∧ t.ac[a].motion = .dwell ∧ t.ac[a].lastOutcome = some code ∧ t.ac[a].position = c.position
      ∧ (t.ac[a].offTarget = true ↔ (m.kind = .scene ∨ m.kind = .backOff) ∧ ∃ x, m.target = some x ∧ m.tolerance < Sys2Proof.dist c.position x)
      ∧ t.da.grants[a] = none
      ∧ (s.latchLocked a = true ∧ (∀ l, s.latch a = some l → l.sensorFault = false) ∧ v = .valid ∧ s.st.drive.isSome = true
          ∧ s.lockWindow a c.position = none → t.validity[a] = .unverified)
      ∧ (¬ (s.latchLocked a = true ∧ (∀ l, s.latch a = some l → l.sensorFault = false) ∧ v = .valid ∧ s.st.drive.isSome = true
          ∧ s.lockWindow a c.position = none) → t.validity[a] = v)
      ∧ (m.endedAtStop = true ∧ m.limitEvents = 0 ∧ code ≠ .obstructed ∧ 20 ≤ m.runSamples →
        (t.ac[a].ilr : Int) = max 5 (min ((c.ilr : Int) + Int.tdiv (((m.runSum / m.runSamples : Nat) : Int) - c.ilr) 8) 200)
          ∧ (t.ac[a].coast : Int) = max 0 (min ((c.coast : Int) + Int.tdiv ((Sys2Proof.dist c.position m.brakePos : Int) - c.coast) 4) 255)
          ∧ t.ac[a].streak = 0 ∧ t.tw[a].moves = min 16777215 (s.tw[a].moves + 1))
      ∧ (¬ (m.endedAtStop = true ∧ m.limitEvents = 0 ∧ code ≠ .obstructed ∧ 20 ≤ m.runSamples) →
        t.ac[a].ilr = c.ilr ∧ t.ac[a].coast = c.coast ∧ t.ac[a].streak = c.streak ∧ t.tw[a].moves = s.tw[a].moves)
      ∧ ∀ b : Axis, b ≠ a → s.ac[b].Follows t.ac[b]

/-- The end of BRAKING hands the move's end to the job that owns it, and a failed scene move decides its ACTIVE scene with its outcome and its axis (R39,
R103, R120). The row takes the outcome, the final position and the on-target result, and is ENDED, PAUSED after a pause, or BACKING_OFF after an
obstruction, with a back-off at rank 0 from the final position against the move (R120, R126, R128); the end of a back-off ends its row, and with none
outstanding the aborted scene's work is finished (R127). -/
def Obligations.EndReachesScene : Prop :=
  (∀ (s : State) (a : Axis) (m : Move) (j : Slot) (x : Job) (sc : Scene) (r : Role) (c : Code), s.ac[a].motion = .braking → s.ac[a].move = some m →
    m.kind = .scene → m.job = some j → m.pending = some c → c ≠ .done → c ≠ .stopped → c ≠ .paused → s.jm.slots[j] = some x → x.source = .partner r →
    x.cls = .scene → x.state = .active → x.outcome = none → x.scene = some sc → s.Quiet →
    ∃ t y, exec (.brakingEnd a) s = .next t ∧ t.jm.slots[j] = some y ∧ y.outcome = some c ∧ y.failing = some a
      ∧ (c ≠ .obstructed → sc.backOffs = 0 → y.state ≠ .active))
  ∧ ∀ (s : State) (e : MoveEnd) (x : Job) (sc : Scene) (w : Row), s.jm.slots[e.slot] = some x → x.state = .active → x.cls = .scene →
    x.scene = some sc → x.row e.axis = some w →
    (e.kind = .scene → x.outcome = none → w.state ≠ .backingOff → e.pauseEnd = none →
      ∃ y v, (s.takeMoveEnd e).jm.slots[e.slot] = some y ∧ y.row e.axis = some v ∧ v.lastEnd = some e.code ∧ v.lastPos = some e.position
        ∧ v.onTarget = some e.onTarget
        ∧ v.state = (if e.code = .obstructed then .backingOff else if e.code = .paused then .paused else .ended)
        ∧ (if e.code = .done ∨ e.code = .stopped ∨ e.code = .paused then y.outcome = none else y.outcome = some e.code ∧ y.failing = some e.axis)
        ∧ (e.code = .obstructed → s.entryOf e.axis = none → ∃ g, (s.takeMoveEnd e).entryOf e.axis = some g ∧ g.slot = e.slot ∧ g.rank = 0
          ∧ g.kind = .backOff ∧ g.speed = .quiet ∧ g.dir = s.ac[e.axis].lastDir.opposite
          ∧ g.target = some (backOffTarget e.position s.ac[e.axis].lastDir (s.backOffBy e.axis))))
    ∧ (e.kind = .backOff → w.state = .backingOff →
      ∃ y v, (s.takeMoveEnd e).jm.slots[e.slot] = some y ∧ y.row e.axis = some v ∧ v.state = .ended ∧ v.lastEnd = w.lastEnd
        ∧ y.state = (if sc.backOffs ≤ 1 then .ending else .active))

/-- DWELL ends in IDLE, and the scan that follows may grant what waits; with nothing waiting and no grant held, nothing else changes (R29, R59). -/
def Obligations.DwellEnds : Prop :=
  ∀ (s : State) (a : Axis), s.ac[a].motion = .dwell →
    let u : State := { s with ac := s.ac.set a { s.ac[a] with motion := .idle, restTimer := .stopped } }
    ∃ t, exec (.dwellExpiry a) s = .next t ∧ u.Follows t
      ∧ (s.Quiet → s.da.wait = [] → (∀ b : Axis, s.heldGrant b = none) → u.Settles t)

/-- A cooling step sets H to max(0, H − (floor(H / 64) + 1)) and starts the timer again; HOT and ESTIMATED meet their levels (R159 to R161). -/
def Obligations.CoolingSteps : Prop :=
  ∀ (s : State) (a : Axis), s.Quiet → s.tw[a].cooling.running = true →
    let h : Nat := s.tw[a].heat - (s.tw[a].heat / 64 + 1)
    ∃ t, exec (.coolingStep a) s = .next t
      ∧ { s with tw := s.tw.set a { s.tw[a] with
            heat := h
            cooling := .start
            hot := if s.heatLimit ≤ h then true else if h ≤ s.heatResume then false else s.tw[a].hot
            estimated := s.tw[a].estimated && decide (s.heatResume / 2 < h) } }.Settles t

/-! ## Latch Channels -/

/-- The release sequence: the first pulse ends in the gap with the solenoid off, the gap in the retry pulse at full, and the retry pulse without OPEN in
DWELL with LATCH_STUCK; 3 s end a hold (R20, R64, R65). -/
def Obligations.ReleaseSequence : Prop :=
  ∀ (s : State) (l : LatchNo), s.Quiet →
    (s.lc[l].step = .firstPulse → ∃ t, exec (.releaseFirstPulseEnd l) s = .next t
      ∧ { s with lc := s.lc.set l { s.lc[l] with step := .gap, solenoid := .off } }.Settles t)
    ∧ (s.lc[l].step = .gap → ∃ t, exec (.releaseGapEnd l) s = .next t
      ∧ { s with lc := s.lc.set l { s.lc[l] with step := .retryPulse, solenoid := .full } }.Settles t)
    ∧ (s.lc[l].step = .retryPulse → ∀ m, s.ac[axisOfLatch l].motion = .releasing → s.ac[axisOfLatch l].move = some m → m.pending = none →
      ∃ t, exec (.releaseRetryEnd l) s = .next t ∧ s.Follows t ∧ t.ac[axisOfLatch l].motion = .dwell
        ∧ t.ac[axisOfLatch l].lastOutcome = some .latchStuck ∧ t.da.grants[axisOfLatch l] = none
        ∧ t.lc[l].solenoid = .off ∧ t.lc[l].step = .none)
    ∧ (s.lc[l].solenoid = .hold → s.lc[l].solenoidTimer.running = true → ∃ t, exec (.solenoidHoldTimeout l) s = .next t
      ∧ { s with lc := s.lc.set l { s.lc[l] with
            solenoid := .off, step := .none, stepTimer := .stopped, window := none, solenoidTimer := .stopped } }.Settles t)

/-- A pending relock check fails at its expiry and passes at a debounced LOCKED inside a window: without a job only the check and the last outcome change; a
scene that is still undecided takes LATCH_NOT_ENGAGED with the axis (R68, R103). With no check pending, a debounced LOCKED on an OPEN latch that is no sensor
fault changes the latch state alone, and a level that the latch has already changes nothing (R62, R68, R71). -/
def Obligations.RelockDecided : Prop :=
  (∀ (s : State) (l : LatchNo), s.Quiet → s.lc[l].relock = .pending →
    let lock : Relock → Latch := fun v => { s.lc[l] with relock := v, relockTimer := .stopped, relockJob := none }
    let c : Channel := { s.ac[axisOfLatch l] with lastOutcome := some .latchNotEngaged }
    (s.lc[l].relockJob = none → ∃ t, exec (.relockCheckExpiry l) s = .next t
      ∧ { s with lc := s.lc.set l (lock .failed), ac := s.ac.set (axisOfLatch l) c }.Settles t)
    ∧ (∀ j x r, s.lc[l].relockJob = some j → s.jm.slots[j] = some x → x.source = .partner r → x.state ≠ .done → x.outcome = none →
      ∃ t y, exec (.relockCheckExpiry l) s = .next t ∧ t.jm.slots[j] = some y ∧ y.outcome = some .latchNotEngaged
        ∧ y.failing = some (axisOfLatch l))
    ∧ (s.sp.power ≠ .park → s.lc[l].sensorFault = false → s.lc[l].firstReading = false → s.lc[l].state = .opened →
      s.validity[axisOfLatch l] ≠ .valid ∨ s.st.drive = none ∨ (s.lockWindow (axisOfLatch l) s.ac[axisOfLatch l].position).isSome = true →
      ∃ t, exec (.latchDebounce l .closed) s = .next t
        ∧ (s.lc[l].relockJob = none → { s with lc := s.lc.set l { lock .passed with state := .locked } }.Settles t)
        ∧ ((s.lc[l].relockJob).isSome = true → { s with lc := s.lc.set l { lock .passed with state := .locked } }.Follows t)))
  ∧ ∀ (s : State) (l : LatchNo), s.Quiet → s.sp.power ≠ .park → s.lc[l].sensorFault = false → s.lc[l].firstReading = false →
    (s.lc[l].relock ≠ .pending → s.lc[l].state = .opened →
      s.validity[axisOfLatch l] ≠ .valid ∨ s.st.drive = none ∨ s.ac[axisOfLatch l].motion = .releasing
        ∨ (s.lockWindow (axisOfLatch l) s.ac[axisOfLatch l].position).isSome = true →
      ∃ t, exec (.latchDebounce l .closed) s = .next t ∧ { s with lc := s.lc.set l { s.lc[l] with state := .locked } }.Settles t)
    ∧ (s.lc[l].state = .locked → ∃ t, exec (.latchDebounce l .closed) s = .next t ∧ s.Settles t)
    ∧ (s.lc[l].state = .opened → ∃ t, exec (.latchDebounce l .opened) s = .next t ∧ s.Settles t)

/-- A debounced change to OPEN ends a release: the hold starts with its window and the channel enters STARTING; at rest with the solenoid off it is a
manual release, which makes a VALID axis UNVERIFIED; elsewhere the state alone changes (R20, R64, R65, R69, R70, R148). A first reading gives the state
alone; after a soft reset it is compared with the state before, and where the consistency check is due it leaves a VALID axis VALID only when OPEN lies
outside, or LOCKED inside, the windows of a valid DRIVE (R62, R72, R74, R147). That a due check stays due over a soft reset in WAKING, whose first reading is
only compared with the state before, is the model's reading (DEDUCED, log 37). -/
def Obligations.LatchOpens : Prop :=
  (∀ (s : State) (l : LatchNo), s.Quiet → s.sp.power ≠ .park → s.lc[l].sensorFault = false → s.lc[l].firstReading = false → s.lc[l].state = .locked →
    let a : Axis := axisOfLatch l
    ∃ t, exec (.latchDebounce l .opened) s = .next t ∧ t.lc[l].state = .opened
      ∧ (s.ac[a].motion = .releasing → ∀ m, s.ac[a].move = some m →
        { s with
          lc := s.lc.set l { s.lc[l] with
            state := .opened
            solenoid := .hold
            step := .none
            stepTimer := .stopped
            solenoidTimer := .start
            window := if s.validity[a] = Validity.valid ∧ m.kind ≠ MoveKind.homing then s.lockWindow a s.ac[a].position else none }
          ac := s.ac.set a { s.ac[a] with motion := .starting }
          tw := s.tw.set a { s.tw[a] with cooling := .stopped } }.Settles t)
      ∧ ((s.ac[a].motion = .idle ∨ s.ac[a].motion = .dwell) → s.lc[l].solenoid = .off →
        { s with
          lc := s.lc.set l { s.lc[l] with state := .opened }
          validity := if s.validity[a] = Validity.valid then s.validity.set a .unverified else s.validity }.Settles t)
      ∧ ((s.ac[a].motion = .idle ∨ s.ac[a].motion = .dwell → s.lc[l].solenoid ≠ .off) → s.ac[a].motion ≠ .releasing →
        { s with lc := s.lc.set l { s.lc[l] with state := .opened } }.Settles t))
  ∧ ∀ (s : State) (l : LatchNo) (v : SwitchLevel), s.Quiet → s.sp.power ≠ .park → s.lc[l].sensorFault = false → s.lc[l].firstReading = true →
    let a : Axis := axisOfLatch l
    let inside : Bool := (s.lockWindow a s.ac[a].position).isSome
    let before : Option LatchState := s.lc[l].stateBefore
    let checked : Bool := s.lc[l].checkDue && before.isNone
    let u : LatchState → Bool → State := fun r lost => { s with
      lc := s.lc.set l { s.lc[l] with state := r, firstReading := false, stateBefore := none, checkDue := s.lc[l].checkDue && before.isSome }
      validity := if s.validity[a] = Validity.valid ∧ lost = true then s.validity.set a .unverified else s.validity }
    ∃ t, exec (.latchDebounce l v) s = .next t
      ∧ (v = .opened → (u .opened ((before == some .locked && s.ac[a].motion.atRest && s.lc[l].solenoid == .off)
        || (checked && (s.st.drive.isNone || inside)))).Settles t)
      ∧ (v = .closed → s.lc[l].relock ≠ .pending →
        checked = true ∨ before = some .locked ∨ s.validity[a] ≠ .valid ∨ s.st.drive = none ∨ inside = true →
        (u .locked (checked && !inside)).Settles t)

/-- A LOCKED reading on a VALID axis outside both lock windows, but not in RELEASING, is a sensor fault: the latch is UNKNOWN, the axis LOCKED_OUT and
UNVERIFIED, and a driving move brakes with LOCKED_OUT, while an axis that does not drive changes in nothing else; while the fault holds nothing is read
(R36, R71, R72). -/
def Obligations.SensorFaults : Prop :=
  ∀ (s : State) (l : LatchNo), s.sp.power ≠ .park →
    let a : Axis := axisOfLatch l
    (s.lc[l].sensorFault = true → s.Quiet → ∀ v, ∃ t, exec (.latchDebounce l v) s = .next t ∧ s.Settles t)
    ∧ (s.lc[l].sensorFault = false → s.lc[l].firstReading = false → s.lc[l].state = .opened → s.validity[a] = .valid → s.st.drive.isSome = true →
      s.lockWindow a s.ac[a].position = none → s.ac[a].motion ≠ .releasing → s.ac[a].motion ≠ .idle → s.lc[l].relock ≠ .pending →
      ∃ t, exec (.latchDebounce l .closed) s = .next t ∧ t.lc[l].sensorFault = true ∧ t.lc[l].state = .unknown
        ∧ t.ac[a].lockedOut = true ∧ t.validity[a] = .unverified
        ∧ ∀ m, s.ac[a].move = some m → s.ac[a].motion.driving = true → t.ac[a].BrakesWith m .lockedOut s.ac[a].position)
    ∧ (s.Quiet → s.lc[l].sensorFault = false → s.validity[a] = .valid → s.st.drive.isSome = true → s.lockWindow a s.ac[a].position = none →
      s.ac[a].motion = .idle ∨ s.ac[a].motion = .braking ∨ s.ac[a].motion = .dwell →
      (s.lc[l].firstReading = false ∧ s.lc[l].state = .opened)
        ∨ (s.lc[l].firstReading = true ∧ s.lc[l].stateBefore ≠ some .locked ∧ (s.lc[l].stateBefore = none → s.lc[l].checkDue = false)) →
      ∃ t, exec (.latchDebounce l .closed) s = .next t
        ∧ { s with
            lc := s.lc.set l { s.lc[l] with
              state := .unknown
              sensorFault := true
              firstReading := false
              stateBefore := if s.lc[l].firstReading then none else s.lc[l].stateBefore }
            ac := s.ac.set a { s.ac[a] with lockedOut := true }
            validity := s.validity.set a .unverified }.Settles t)

/-! ## The store's writes -/

/-- A service write ends: its bytes reach the store and no other byte changes, the answer is DONE, a soft reset that waited follows, else a marker write
that waited starts (R188, R190). An answer without a detail carries the free value of log 4 (DESIGN CHOICE). -/
def Obligations.ServiceWriteEnds : Prop :=
  ∀ (s : State) (w : StoreWrite), s.Quiet → s.st.write = some w → w.kind = .service →
    ∃ t, exec .storeWriteComplete s = .next t ∧ t.st.memory = memWriteAll s.st.memory w.bytes
      ∧ (∀ k, (∀ b, (k, b) ∉ w.bytes) → memRead t.st.memory k = memRead s.st.memory k)
      ∧ (∀ n b0 b1 b2 b3, n ≤ 511 → s.StoreGood → w.bytes = [(4 * n, b0), (4 * n + 1, b1), (4 * n + 2, b2), (4 * n + 3, b3)] →
        chunkBytes t.st.memory n = [b0, b1, b2, b3])
      ∧ (s.st.resetQueued = none → t.Answers .service .storeWrite w.tag .done (Config.absentDetail 12 0) ∧ t.ac = s.ac ∧ t.lc = s.lc
        ∧ t.jm.slots = s.jm.slots ∧ t.iu = s.iu ∧ t.validity = s.validity ∧ t.tw = s.tw ∧ t.sp.marker = s.sp.marker
        ∧ (s.st.markerQueued = false → t.st = { s.st with memory := t.st.memory, write := none })
        ∧ (s.st.markerQueued = true → ∃ v, t.st.write = some v ∧ v.kind = .marker ∧ t.st.markerQueued = false))
      ∧ (∀ tag, s.st.resetQueued = some tag → t.st.write = none ∧ t.st.resetQueued = none ∧ (∀ j : Slot, t.jm.slots[j] = none)
        ∧ t.Answers .service .softReset tag .done (Config.absentDetail 13 0))

/-- The marker write ends: its bytes reach the store, the marker is 0, and every grant held for it reaches its channel, which leaves IDLE for RELEASING
when its latch reads LOCKED and else for STARTING (R168). -/
def Obligations.MarkerWriteEnds : Prop :=
  ∀ (s : State) (w : StoreWrite), s.Quiet → s.st.write = some w → w.kind = .marker → s.st.resetQueued = none → s.st.drive.isSome = true →
    (∀ l : LatchNo, s.lc[l].relock ≠ .pending) →
    ∃ t, exec .markerWriteComplete s = .next t
      ∧ t.st = { s.st with memory := memWriteAll s.st.memory w.bytes, write := none } ∧ t.sp.marker = false
      ∧ (∀ (a : Axis) (g : Grant), s.heldGrant a = some g → t.da.grants[a] = some { g with held := false }
        ∧ t.ac[a].motion = (if s.latchLocked a then .releasing else .starting) ∧ t.ac[a].lastDir = g.entry.dir ∧ t.ac[a].stray = 0
        ∧ ∃ m, t.ac[a].move = some m ∧ m.kind = g.entry.kind ∧ m.dir = g.entry.dir ∧ m.stop = g.stop ∧ m.job = some g.entry.slot ∧ m.samples = 0
          ∧ m.pending = none)
      ∧ (∀ a : Axis, s.heldGrant a = none → t.ac[a] = s.ac[a] ∧ t.da.grants[a] = s.da.grants[a])
      ∧ t.da.wait = s.da.wait ∧ t.validity = s.validity ∧ t.iu = s.iu

/-! ## Supply and power -/

/-- A supply outside 9.0..18.0 V in NORMAL starts a pause: PAUSED_WINDOW, every solenoid off, on IDLE axes too, every move that drives or releases ends, a
driving one with PAUSED, and no channel is left driving or releasing; below 6.0 V the part resets (R163, R164). -/
def Obligations.SupplyPauses : Prop :=
  ∀ (s : State) (mv : Nat),
    (mv < 6000 → exec (.supplyPause mv) s = exec (.powerOnReset mv) s ∧ exec (.supplyResume mv) s = exec (.powerOnReset mv) s)
    ∧ (6000 ≤ mv → mv < 9000 ∨ 18000 < mv → s.sp.cond = .normal → ∃ t, exec (.supplyPause mv) s = .next t
      ∧ { s with sp := { s.sp with cond := .pausedWindow, window := .start }, lc := s.lc.map Latch.drop }.Follows t
      ∧ (∀ l : LatchNo, t.lc[l].solenoid = .off ∧ t.lc[l].step = .none)
      ∧ ∀ a : Axis, t.ac[a].Stopped
        ∧ (∀ m, s.ac[a].motion.driving = true → s.ac[a].move = some m → t.ac[a].BrakesWith m .paused s.ac[a].position))
    ∧ (6000 ≤ mv → s.Quiet → s.sp.cond ≠ .normal ∨ (9000 ≤ mv ∧ mv ≤ 18000) → ∃ t, exec (.supplyPause mv) s = .next t ∧ s.Settles t)

/-- A supply within 10.0..17.0 V ends a pause: NORMAL, with the moves that the pause ended marked as resumed within the window. After 2 s the window
expires, and a scene with paused moves that goes on ends SUPPLY_FAULT with no failing axis (R129, R164). The resume takes each job with PAUSED moves, in
record order, and each paused homing: a move UNVERIFIED off VALID, ENDED with DONE on its place, else placed again at rank 1 toward its target; a homing
drive or back-off placed again at rank 2, the back-off toward the target it had (R129, R154). -/
def Obligations.SupplyResumes : Prop :=
  (∀ (s : State),
    (∀ mv, 10000 ≤ mv → mv ≤ 17000 → s.sp.cond = .pausedWindow → ∃ t, exec (.supplyResume mv) s = .next t ∧ t = s.resume.conclude
      ∧ ({ s with sp := { s.sp with cond := .normal, window := .stopped } }.markPause .resumed).Follows t)
    ∧ (∀ mv, 10000 ≤ mv → mv ≤ 17000 → s.sp.cond = .pausedExpired → ∃ t, exec (.supplyResume mv) s = .next t
      ∧ { s with sp := { s.sp with cond := .normal } }.Follows t)
    ∧ (∀ mv, s.Quiet → 6000 ≤ mv → mv < 10000 ∨ 17000 < mv ∨ s.sp.cond = .normal → ∃ t, exec (.supplyResume mv) s = .next t ∧ s.Settles t)
    ∧ (s.sp.cond = .pausedWindow → ∃ t, exec .pauseWindowExpiry s = .next t
      ∧ ({ s with sp := { s.sp with cond := .pausedExpired, window := .stopped } }.markPause .expired).Follows t
      ∧ ∀ j x r sc, s.jm.slots[(j : Slot)] = some x → x.source = .partner r → x.state = .active → x.outcome = none → x.cls = .scene →
        x.scene = some sc → (∃ w ∈ sc.rows, w.state = .paused) →
        ∃ y, t.jm.slots[j] = some y ∧ y.outcome = some .supplyFault ∧ y.failing = none))
  ∧ ∀ (s : State) (j : Slot) (x : Job), s.jm.slots[j] = some x → x.state = .active → x.outcome = none →
    (∀ sc, x.scene = some sc → (∃ w ∈ sc.rows, w.state = .paused) →
      Task.resumeRows j ((sc.rows.filter (fun w => w.state == .paused)).map Row.axis) ∈ s.resume.raised)
    ∧ (∀ a rest w, x.row a = some w → s.resumeWalk j (a :: rest) = (s.resumeRow j w).emit [.resumeRows j rest])
    ∧ (∀ w a, w.axis = a → x.row a = some w → w.state = .paused → x.cls = .scene →
      (s.validity[a] ≠ .valid → ∃ y v, (s.resumeRow j w).jm.slots[j] = some y ∧ y.row a = some v ∧ v.state = .ended ∧ v.lastEnd = some .unverified
        ∧ y.outcome = some .unverified ∧ y.failing = some a)
      ∧ (s.validity[a] = .valid → Sys2Proof.dist s.ac[a].position w.target ≤ s.tolerance a → Task.phaseCheck j ∈ (s.resumeRow j w).raised
        ∧ ∃ y v, (s.resumeRow j w).jm.slots[j] = some y ∧ y.row a = some v ∧ v.state = .ended ∧ v.lastEnd = some .done ∧ v.onTarget = some true
          ∧ y.outcome = none)
      ∧ (s.validity[a] = .valid → s.tolerance a < Sys2Proof.dist s.ac[a].position w.target → s.entryOf a = none →
        ∃ y e, (s.resumeRow j w).jm.slots[j] = some y ∧ y.row a = some (w.enter .waiting) ∧ (s.resumeRow j w).entryOf a = some e
          ∧ e.slot = j ∧ e.rank = 1 ∧ e.kind = .scene ∧ e.speed = w.speed ∧ e.target = some w.target
          ∧ (s.ac[a].position < w.target → e.dir = .positive) ∧ (w.target < s.ac[a].position → e.dir = .negative)))
    ∧ ∀ h a rest, x.homing = some h → h.list = a :: rest →
      (h.stage = .pausedDrive → Task.resumeHoming j ∈ s.resume.raised ∧ (s.entryOf a = none →
        ∃ e y g, (s.resumeHoming j).entryOf a = some e ∧ e.slot = j ∧ e.rank = 2 ∧ e.kind = .homing ∧ e.dir = s.homingDir a ∧ e.speed = .homing
          ∧ (s.resumeHoming j).jm.slots[j] = some y ∧ y.homing = some g ∧ g.stage = .drive ∧ g.list = h.list))
      ∧ ∀ n, h.stage = .pausedBackOff n → Task.resumeHoming j ∈ s.resume.raised ∧ (s.entryOf a = none →
        ∃ e y g, (s.resumeHoming j).entryOf a = some e ∧ e.slot = j ∧ e.rank = 2 ∧ e.kind = .backOff ∧ e.dir = (s.homingDir a).opposite
          ∧ e.speed = .quiet ∧ e.target = some n
          ∧ (s.resumeHoming j).jm.slots[j] = some y ∧ y.homing = some g ∧ g.stage = .backOff n ∧ g.list = h.list)

/-- A power-on reset leaves the state after reset over the store, less what it cut off of a write, and pauses at once outside 9.0..18.0 V (R169, R190). The
first load brings in the working copies, after a clean park the positions and heat, and else the presets; 40 ms end WAKING once it is over: a consistency check
still due is made as UNKNOWN (DEDUCED, log 37), then a scan runs, then the earliest button held on a FREE pad is counted (R43, R146, R147, R167, R179), in
this order (DESIGN CHOICE, log 68). What a cut-off write leaves is log 12. -/
def Obligations.PowerUp : Prop :=
  (∀ (s : State) (mv : Nat), ∃ t m n, exec (.powerOnReset mv) s = .next t
    ∧ (s.st.write = none → m = s.st.memory) ∧ (∀ w, s.st.write = some w → ∃ k, m = memWriteAll s.st.memory (w.bytes.take k)
      ∧ (w.kind = .park → 3 ≤ w.bytes.length → 1 ≤ k ∧ k ≤ w.bytes.length - 2))
    ∧ (9000 ≤ mv → mv ≤ 18000 → (State.afterPowerOn m n s.pending).Settles t)
    ∧ (mv < 9000 ∨ 18000 < mv → { State.afterPowerOn m n s.pending with
        sp := { (State.afterPowerOn m n s.pending).sp with cond := .pausedWindow, window := .start } }.Settles t))
  ∧ (∀ s : State, s.Quiet → s.st.loaded = false → s.sp.wakingOver = false → s.da.wait = [] → (∀ a : Axis, s.heldGrant a = none) →
    ∃ t, exec .firstLoadEnd s = .next t ∧ t.st = { loadStore s.st with loaded := true } ∧ t.da.grants = s.da.grants ∧ t.jm.slots = s.jm.slots ∧ t.iu = s.iu
      ∧ t.sp.power = s.sp.power
      ∧ (∀ a : Axis, t.ac[a].stray = 0 ∧ t.ac[a].streak = 0 ∧ t.ac[a].lastDir = .positive ∧ t.ac[a].limitSeen = false ∧ t.ac[a].stall = false
        ∧ t.ac[a].obstruction = false ∧ t.ac[a].overcurrent = false)
      ∧ (∀ x, (loadStore s.st).learned = some x → ∀ a : Axis, t.ac[a].ilr = max 5 (min 200 x.axis[a].ilr) ∧ t.ac[a].coast = x.axis[a].coast
        ∧ t.ac[a].marginTrim = min 15 x.axis[a].marginTrim ∧ t.ac[a].timeoutTrim = min 15 x.axis[a].timeoutTrim
        ∧ t.tw[a].moves = min 16777215 x.axis[a].moves
        ∧ (x.marker = true → t.ac[a].position = min 32767 x.axis[a].position ∧ t.tw[a].heat = x.axis[a].heat ∧ t.tw[a].estimated = false))
      ∧ ((∀ x, (loadStore s.st).learned = some x → x.marker = false) → t.sp.marker = false ∧ t.validity = s.validity ∧ ∀ a : Axis,
        t.ac[a].position = s.ac[a].position ∧ t.tw[a].heat = t.heatResume ∧ t.tw[a].estimated = true)
      ∧ ((loadStore s.st).learned = none → (loadStore s.st).drive = none → ∀ a : Axis, t.ac[a].ilr = 50 ∧ t.ac[a].coast = 20
        ∧ t.ac[a].marginTrim = 6 ∧ t.ac[a].timeoutTrim = 5 ∧ t.tw[a].moves = 0))
  ∧ ∀ s : State, s.sp.power = .waking → s.sp.waking.running = true →
    (s.st.loaded = true → ∃ t, exec .wakingEnd s = .next t
      ∧ { s with
          sp := { s.sp with power := .active, waking := .stopped, wakingOver := false }
          lc := s.lc.map (fun (x : Latch) => { x with checkDue := false })
          validity := Vector.ofFn (fun (a : Axis) =>
            if latches.any (fun l => axisOfLatch l == a && s.lc[l].checkDue) ∧ s.validity[a] = Validity.valid then Validity.unverified else s.validity[a])
          raised := [.padEntry .left, .padEntry .right] }.Follows t
      ∧ t = s.enterActive.conclude
      ∧ (∃ l : List Pad, s.enterActive.raised = s.raised ++ Task.scan :: l.map Task.padEntry
        ∧ l.Perm ([Pad.left, Pad.right].filter (fun p => s.ps[padNo p].cond == .free && !(s.ps[padNo p].pressed.isEmpty))))
      ∧ ∀ (p : Pad) b tm rest, s.ps[padNo p].cond = .free → s.ps[padNo p].pressed = (b, tm) :: rest → s.padEntry p = s.engage p b
        ∧ (s.Quiet → s.da.wait = [] → (∀ a : Axis, s.heldGrant a = none) → (∀ q : Pad, q ≠ p → s.ps[padNo q].cond ≠ .free ∨ s.ps[padNo q].pressed = []) →
          t.ps[padNo p].cond = .engaged b))
    ∧ (s.Quiet → s.st.loaded = false → ∃ t, exec .wakingEnd s = .next t
      ∧ { s with sp := { s.sp with wakingOver := true, waking := s.sp.waking.hold } }.Settles t)

/-- The park-quiet timer at 3 s enters PARK: the cooling and stuck timers hold, the freshness timers stop, and the park write starts; its end sets the
marker to 1. A wake event in PARK enters WAKING, at the end of a park write in progress (R144, R159, R166, R167, R180). That the
wake makes the check due on a latch in sensor fault too, which takes no reading, is the model's reading (DEDUCED, log 37). -/
def Obligations.ParkAndWake : Prop :=
  ∀ s : State, s.Quiet →
    let woken : State → State := fun s =>
      { s with
        sp := { s.sp with power := .waking, waking := .start, wakingOver := false, wakePending := false }
        lc := s.lc.map (fun l => if l.sensorFault then { l with checkDue := true }
          else { l with state := .unknown, firstReading := true, stateBefore := none, checkDue := true })
        iu := .reset
        tw := s.tw.map (fun (x : Thermal) => { x with cooling := x.cooling.resume })
        ps := s.ps.map (fun (p : PadState) => { p with pressed := p.pressed.map (fun (b : Button × Timer) => (b.1, b.2.resume)) }) }
    (s.sp.parkQuiet.running = true → s.st.write = none → ∃ t, exec .parkEntry s = .next t
      ∧ { s with
          sp := { s.sp with power := .park }
          tw := s.tw.map (fun (x : Thermal) => { x with cooling := x.cooling.hold })
          iu := { s.iu with vehicleTimer := .stopped, occupancyTimer := .stopped }
          ps := s.ps.map (fun (p : PadState) => { p with pressed := p.pressed.map (fun (b : Button × Timer) => (b.1, b.2.hold)) })
          st := { s.st with write := s.st.learnedArea.map (fun _ => { kind := .park, bytes := s.parkBytes, tag := 0#4, timer := .start }) } }.Settles t)
    ∧ (∀ w, s.st.write = some w → w.kind = .park →
      let u : State := { s with st := { s.st with memory := memWriteAll s.st.memory w.bytes, write := none }, sp := { s.sp with marker := true } }
      ∃ t, exec .parkWriteComplete s = .next t ∧ (s.sp.wakePending = false → u.Settles t) ∧ (s.sp.wakePending = true → (woken u).Settles t))
    ∧ (∀ x, ∃ t, exec (.wakeEvent x) s = .next t ∧ (s.sp.power ≠ .park → s.Settles t)
      ∧ (s.sp.power = .park → s.st.write.isSome = true → { s with sp := { s.sp with wakePending := true } }.Settles t)
      ∧ (s.sp.power = .park → s.st.write = none → (woken s).Settles t))

/-- What the park write and the marker write leave in a LEARNED area within the store that has room for its content: an area with its sum at 0 that a
load reads back as every axis's position, validity, Ilr, C, trims, H and count, with the marker at 1 and, after the marker write, at 0; and a park
write cut off after its first byte and before its last two leaves the marker at 0 (R166, R168, R195). -/
def Obligations.ParkKeepsWhatItWrote : Prop :=
  ∀ (s : State) (off len : Nat), s.StoreGood → s.ChannelsGood → (∀ a : Axis, s.tw[a].heat ≤ 65535 ∧ s.tw[a].moves ≤ 16777215) →
    s.st.learnedArea = some (off, len) → 79 ≤ len → off + len ≤ 2048 →
    let area : List Host.Cell → List Byte := fun m => (List.range len).map (fun i => memRead m (off + i))
    let parked : List Host.Cell := memWriteAll s.st.memory s.parkBytes
    let kept : LearnedCopy → Prop := fun x => ∀ a : Axis, x.axis[a].position = s.ac[a].position ∧ x.axis[a].validity = s.validity[a].code
      ∧ x.axis[a].ilr = s.ac[a].ilr ∧ x.axis[a].coast = s.ac[a].coast ∧ x.axis[a].marginTrim = s.ac[a].marginTrim
      ∧ x.axis[a].timeoutTrim = s.ac[a].timeoutTrim ∧ x.axis[a].heat = s.tw[a].heat ∧ x.axis[a].moves = s.tw[a].moves
    (∃ x, parseLearned (area parked) = some x ∧ x.marker = true ∧ kept x)
      ∧ (∃ x, parseLearned (area (memWriteAll parked { s.st with memory := parked }.markerBytes)) = some x ∧ x.marker = false ∧ kept x)
      ∧ (∀ k, k < off ∨ off + len ≤ k → memRead parked k = memRead s.st.memory k)
      ∧ ∀ k, 1 ≤ k → k ≤ s.parkBytes.length - 2 →
        memRead (memWriteAll s.st.memory (s.parkBytes.take k)) (off + len - 2) = 0#8
          ∧ ∀ x, parseLearned (area (memWriteAll s.st.memory (s.parkBytes.take k))) = some x → x.marker = false

/-! ## The Network Port -/

/-- The ends of frames and errors: a sent answer empties its slot, a sent result frees its job's slot, the error count falls by 1; an error adds 8 and
above 255 the port is in bus-off with its frame kept; it rejoins with the count at 0; a page due goes out at once when nothing stands before it (R98,
R111, R174 to R177). The next frame after a page or row is the first waiting answer on its role's result identifier, with its bytes by Table 3 or by
R192 for a store read; else the result at the head of the done list; else the next waiting row; else a due page, pages 4 and 5 by their A0 row with
the rows A1 to A6 to follow (R170, R174, R192, R194). -/
def Obligations.PortEvents : Prop :=
  (∀ (s : State) (f : TxFrame), s.Quiet → s.sp.power ≠ .park → s.np.tx = some f → s.np.busOff = false →
    (∃ p, f.source = .page p) ∨ (∃ p a, f.source = .row p a) →
    let axis (a : Option Axis) : Byte := match a with | some a => BitVec.ofNat 8 a.val | none => 0xFF#8
    let row (t : State) (p : PageNo) (a : Axis) (g : TxFrame) : Prop := t.np.tx = some g ∧ g.source = .row p a
      ∧ g.id = s.partners.base + BitVec.ofNat 11 p.val
      ∧ g.data = withSeq t.np.pages[p].seq (BitVec.ofNat 8 a.val :: ((t.pageContent p).drop (3 * a.val)).take 3)
    ∃ t, exec .frameSent s = .next t
      ∧ (∀ r x, s.jm.answers[roleNo r] = some x → (∀ q, roleNo q < roleNo r → s.jm.answers[roleNo q] = none) →
        ∃ g, t.np.tx = some g ∧ g.source = .answer r ∧ g.id = s.partners.result[roleNo r]
          ∧ (x.read = none → g.data = [x.kind, x.tag.setWidth 8 ||| (if x.overrun then 0x80#8 else 0#8), x.code.byte, 0xFF#8, axis x.failing,
            (x.detail >>> 8).setWidth 8, x.detail.setWidth 8, 0#8])
          ∧ ∀ n l, x.read = some (n, l) → g.data = [x.kind,
            x.tag.setWidth 8 ||| (if x.overrun then 0x80#8 else 0#8) ||| BitVec.ofNat 8 (16 * (n / 256 % 4)), x.code.byte, BitVec.ofNat 8 n] ++ l)
      ∧ (s.jm.answers = Vector.replicate 4 none →
        (∀ j rest x r c, s.jm.doneList = j :: rest → s.jm.slots[j] = some x → x.source = .partner r → x.outcome = some c →
          ∃ g, t.np.tx = some g ∧ g.source = .result j ∧ g.id = s.partners.result[roleNo r]
            ∧ g.data = [x.kind.req.code, x.tag.setWidth 8, c.byte, BitVec.ofNat 8 j.val, axis x.failing, (x.detail >>> 8).setWidth 8,
              x.detail.setWidth 8, x.offTarget.setWidth 8])
        ∧ (∀ p a rest, s.jm.doneList = [] → s.np.rows = (p, a) :: rest → t.np.rows = rest ∧ ∃ g, row t p a g)
        ∧ ∀ p : PageNo, s.jm.doneList = [] → s.np.rows = [] → s.np.pages[p].due = true → 4 ≤ p.val →
          (∀ q : PageNo, q < p → s.np.pages[q].due = false ∧ s.np.pages[q].buffer = s.pageContent q) →
          t.np.rows = [(p, 1), (p, 2), (p, 3), (p, 4), (p, 5), (p, 6)] ∧ t.np.pages[p].due = false ∧ t.np.pages[p].changed = false
            ∧ t.np.pages[p].timer = .start ∧ ∃ g, row t p 0 g))
  ∧ ∀ s : State, s.Quiet →
    (∀ f, s.np.tx = some f → s.np.busOff = false → ∃ t u, exec .frameSent s = .next t ∧ State.Settles u t ∧ u = { s with jm := u.jm, np := u.np }
      ∧ t.np.errors = s.np.errors - 1
      ∧ (∀ r x, f.source = .answer r → s.jm.answers[roleNo r] = some x → x.loaded = true → t.jm.answers[roleNo r] = none ∧ t.jm.slots = s.jm.slots)
      ∧ (∀ j rest, f.source = .result j → s.jm.doneList = j :: rest → t.jm.slots = s.jm.slots.set j none ∧ t.jm.doneList = rest)
      ∧ (∀ p, f.source = .page p → t.jm.slots = s.jm.slots ∧ t.jm.doneList = s.jm.doneList))
    ∧ (∀ f, s.np.tx = some f → s.np.busOff = false → ∃ t, exec .txError s = .next t ∧ t.np.tx = s.np.tx
      ∧ { s with np := { s.np with
            errors := s.np.errors + 8
            busOff := decide (255 < s.np.errors + 8)
            busOffTimer := if 255 < s.np.errors + 8 then .start else s.np.busOffTimer } }.Settles t)
    ∧ (s.np.busOff = true → ∃ t, exec .busOffRejoin s = .next t
      ∧ { s with np := { s.np with busOff := false, errors := 0, busOffTimer := .stopped } }.Settles t ∧ (s.np.tx.isSome = true → t.np.tx = s.np.tx))
    ∧ ∀ p : PageNo, ∃ t, exec (.pageDue p) s = .next t ∧ s.Settles t
      ∧ (s.np.tx.isSome = true ∨ s.np.busOff = true → s.sp.power ≠ .park → t.np.pages[p].due = true ∧ t.np.tx = s.np.tx)
      ∧ (s.np.tx = none → s.np.busOff = false → s.sp.power ≠ .park → s.jm.answers = Vector.replicate 4 none → s.jm.doneList = [] → s.np.rows = [] →
        (∀ q : PageNo, q < p → s.np.pages[q].due = false ∧ s.np.pages[q].buffer = s.pageContent q) → p.val < 4 →
        t.np.pages[p].due = false ∧ t.np.pages[p].changed = false
          ∧ t.np.pages[p].timer = .start ∧ ∃ f, t.np.tx = some f ∧ f.source = .page p ∧ f.id = s.partners.base + BitVec.ofNat 11 p.val
            ∧ f.data = withSeq t.np.pages[p].seq (t.pageContent p))

/-- After every event every page's buffer holds the content of the moment; a buffer that changes sets its mark and, with the mark clear, advances the
count by one, modulo 16, and a page whose send timer has reached 50 ms falls due with it. No frame that is ready is left waiting at an empty transmit buffer:
no answer, no partner's result at the head of the done list, and, with the done list empty, no row and no due page; in PARK no row and no due page with its
mark set (R17, R174 to R176). One write of each page at an event's end, with the count it gives, is the model's choice (DESIGN CHOICE, log 34). -/
def Obligations.EveryEventPublishes : Prop :=
  (∀ (c : Instr) (s t : State), exec c s = .next t →
    (∀ p : PageNo, t.np.pages[p].buffer = t.pageContent p)
      ∧ (t.np.tx = none → t.np.busOff = false →
        (t.sp.power ≠ .park → (∀ r : Role, t.jm.answers[roleNo r] = none)
          ∧ (∀ j rest x r, t.jm.doneList = j :: rest → t.jm.slots[j] = some x → x.source ≠ .partner r)
          ∧ (t.jm.doneList = [] → t.np.rows = [] ∧ ∀ p : PageNo, t.np.pages[p].due = false))
        ∧ (t.sp.power = .park → t.np.rows = [] ∧ ∀ p : PageNo, t.np.pages[p].due = true → t.np.pages[p].changed = false)))
  ∧ ∀ (s : State) (p : PageNo),
    (s.np.pages[p].buffer = s.pageContent p → s.publish.np.pages[p] = s.np.pages[p])
      ∧ (s.np.pages[p].buffer ≠ s.pageContent p → s.publish.np.pages[p] = { s.np.pages[p] with
          buffer := s.pageContent p
          changed := true
          due := s.np.pages[p].due || decide (50 ≤ s.np.pages[p].timer.ms)
          seq := if s.np.pages[p].changed then s.np.pages[p].seq else s.np.pages[p].seq + 1#4 })

/-! ## The pads -/

/-- In ACTIVE a press engages a FREE pad: a hold button becomes a hold job in the pad's slot that claims its axis, ACCESS a scene job of its arrangement, or
its refusal the pad's last outcome; with a scene ACTIVE the press stops every ACTIVE scene, the pads' too, and is consumed; a pad that is not FREE, and any
pad in WAKING, notes it; in PARK it wakes the part. A release of the counted hold button ends the pad's hold, and leaves the pad FREE or WAITING. A stuck
button makes the pad STUCK, and ends an ENGAGED pad's hold HOLD_LOST (R104, R105, R108, R167, R179 to R181). -/
def Obligations.PadEvents : Prop :=
  ∀ (s : State) (p : Pad) (b : Button), s.Quiet →
    let press : PadCond → State := fun c => { s with ps := s.ps.set (padNo p) { cond := c, pressed := s.ps[padNo p].pressed ++ [(b, .start)] } }
    let freeHere : Prop := s.sp.power = .active ∧ s.ps[padNo p].isPressed b = false ∧ s.ps[padNo p].cond = .free
    let halted : State → Prop := fun t => ∀ x : Job, s.jm.slots[padSlot p] = some x → x.state = .active →
      (∀ (a : Axis) (m : Move), AxisSet.has x.claimed a = true → s.ac[a].move = some m → m.job = some (padSlot p) →
        s.ac[a].motion.stoppable = true → t.ac[a].motion = .braking ∨ t.ac[a].motion = .dwell)
      ∧ (x.source = .pad p → s.jm.PadsPlaced → (∃ y, t.jm.slots[padSlot p] = some y ∧ y.state ≠ .active)
        ∨ (t.jm.slots[padSlot p] = none ∧ (t.jm.lastPad[padNo p]).isSome = true))
    let became : State → JobClass → JobKind → AxisSet → Option (Nat × List (Axis × Nat × Nat × Speed)) → Prop := fun t k d m sc =>
      t.ps[padNo p].cond = .engaged b ∧ (s.jm.PadsPlaced →
        (∃ y, t.jm.slots[padSlot p] = some y ∧ y.source = .pad p ∧ y.cls = k ∧ y.kind = d ∧ y.claimed = m ∧ y.scene.map Scene.plan = sc
          ∧ t.JobStands (padSlot p) y)
        ∨ (t.jm.slots[padSlot p] = none ∧ (t.jm.lastPad[padNo p]).isSome = true))
    (s.sp.power = .park → ∀ w, exec (.padButtonPress p b) s = exec (.wakeEvent w) s)
    ∧ (s.sp.power ≠ .park → s.ps[padNo p].isPressed b = true → ∃ t, exec (.padButtonPress p b) s = .next t ∧ s.Settles t)
    ∧ (s.sp.power = .waking ∨ (s.sp.power = .active ∧ s.ps[padNo p].cond ≠ .free) → s.ps[padNo p].isPressed b = false →
      ∃ t, exec (.padButtonPress p b) s = .next t ∧ (press s.ps[padNo p].cond).Settles t)
    ∧ (freeHere → s.activeScenes = [] → s.st.service = true → ∃ t, exec (.padButtonPress p b) s = .next t
      ∧ ((press (.engaged b)).setLastPad p (some .mode)).Settles t)
    ∧ (∀ a dir, freeHere → s.activeScenes = [] → s.st.service = false → padMove p b = some (a, dir) → ∃ t, exec (.padButtonPress p b) s = .next t
      ∧ (∀ e, s.holdCheck a dir = some e → ((press (.engaged b)).setLastPad p (some e.code)).Settles t)
      ∧ (s.holdCheck a dir = none → s.jm.slots[padSlot p] ≠ none → ((press (.engaged b)).setLastPad p (some .noSlot)).Settles t)
      ∧ (s.holdCheck a dir = none → s.jm.slots[padSlot p] = none →
        ((press (.engaged b)).takeSlot (padSlot p) (holdJob (.pad p) 0#4 (some b) a dir .stopped)).Follows t
          ∧ became t .attended .hold (AxisSet.one a) none
          ∧ (s.st.drive.isSome = true → s.tw[a].hot = false → s.da.wait = [] → (∀ c : Axis, s.heldGrant c = none) →
            (∀ l : LatchNo, axisOfLatch l = a → s.lc[l].relock ≠ .pending) →
            ∃ y, t.jm.slots[padSlot p] = some y ∧ y.state = .active ∧ y.outcome = none ∧ y.source = .pad p ∧ y.kind = .hold ∧ y.axis = some a
              ∧ y.dir = some dir ∧ t.jm.claims[a] = some (padSlot p) ∧ padSlot p ∈ t.jm.attended)))
    ∧ (freeHere → s.activeScenes = [] → s.st.service = false → b = .access → ∃ t, exec (.padButtonPress p b) s = .next t
      ∧ (∀ e, s.runCheck false (s.accessNumber p) = .error e → ((press (.engaged b)).setLastPad p (some e.code)).Settles t)
      ∧ ∀ x, s.runCheck false (s.accessNumber p) = .ok x →
        (s.jm.slots[padSlot p] ≠ none → ((press (.engaged b)).setLastPad p (some .noSlot)).Settles t)
        ∧ (s.jm.slots[padSlot p] = none →
          ((press (.engaged b)).takeSlot (padSlot p) (s.runJob (.pad p) 0#4 (some .access) x)).Follows t
            ∧ became t .scene .run (s.claimSet x)
              (some (x.number, x.moves.map (fun m => (m.axis, m.phase, m.target, if x.quiet || m.quiet then .quiet else .normal))))))
    ∧ (freeHere → s.activeScenes ≠ [] → ∃ t, exec (.padButtonPress p b) s = .next t ∧ (press (.engaged b)).Follows t
      ∧ t.ps[padNo p].cond = .engaged b
      ∧ ∀ j ∈ s.activeScenes, ∀ x, s.jm.slots[j] = some x → (∀ r, x.source = .partner r → t.JobEnded j x .stopped)
        ∧ ∀ q, x.source = .pad q → s.jm.PadsPlaced → t.PadEnded q x .stopped)
    ∧ (s.sp.power ≠ .park → s.ps[padNo p].isPressed b = true → ∃ t, exec (.padButtonRelease p b) s = .next t
      ∧ (∀ q : Pad, t.ps[padNo q].pressed = if q = p then s.ps[padNo p].pressed.filter (fun y => y.1 != b) else s.ps[padNo q].pressed)
      ∧ t.ps[padNo p].cond = (match s.ps[padNo p].cond with
        | .free => .free
        | .waiting => if (s.ps[padNo p].pressed.filter (fun y => y.1 != b)).isEmpty then .free else .waiting
        | .engaged c => if c ≠ b then .engaged c else if (s.ps[padNo p].pressed.filter (fun y => y.1 != b)).isEmpty then .free else .waiting
        | .stuck c => if c ≠ b then .stuck c else if (s.ps[padNo p].pressed.filter (fun y => y.1 != b)).isEmpty then .free else .waiting)
      ∧ (s.ps[padNo p].cond = .engaged b → b ≠ .access → (∀ x, s.jm.slots[padSlot p] = some x → x.kind = .hold) → halted t)
      ∧ (s.ps[padNo p].cond ≠ .engaged b → s.ac = t.ac ∧ s.jm.slots = t.jm.slots))
    ∧ (s.sp.power = .park ∨ s.ps[padNo p].isPressed b = false → ∃ t, exec (.padButtonRelease p b) s = .next t ∧ s.Settles t)
    ∧ (s.sp.power ≠ .park → s.ps[padNo p].isPressed b = true → (∀ c, s.ps[padNo p].cond ≠ .stuck c) → ∃ t, exec (.padStuck p b) s = .next t
      ∧ t.ps[padNo p].cond = .stuck b
      ∧ (∀ c, s.ps[padNo p].cond = .engaged c → (∀ x, s.jm.slots[padSlot p] = some x → x.kind = .hold) → halted t
        ∧ ∀ x, s.jm.slots[padSlot p] = some x → x.state = .active → x.source = .pad p → s.jm.PadsPlaced → t.PadEnded p x .holdLost)
      ∧ ((∀ c, s.ps[padNo p].cond ≠ .engaged c) ∨ (∀ x, s.jm.slots[padSlot p] = some x → x.kind ≠ .hold) →
        { s with ps := s.ps.set (padNo p) { s.ps[padNo p] with cond := .stuck b } }.Settles t))
end

