-- ==== Sys2Proof/Laws/State.lean ====
section
/-! SUPPORT. What each one-component update leaves unchanged, field by field, and what it makes of its own field. -/

namespace Sys2Proof
namespace Machine

variable (s : State)

/-! ## modChan -/

@[simp] theorem State.modChan_lc (a : Axis) (f : Channel → Channel) : (s.modChan a f).lc = s.lc := rfl
@[simp] theorem State.modChan_da (a : Axis) (f : Channel → Channel) : (s.modChan a f).da = s.da := rfl
@[simp] theorem State.modChan_jm (a : Axis) (f : Channel → Channel) : (s.modChan a f).jm = s.jm := rfl
@[simp] theorem State.modChan_iu (a : Axis) (f : Channel → Channel) : (s.modChan a f).iu = s.iu := rfl
@[simp] theorem State.modChan_validity (a : Axis) (f : Channel → Channel) : (s.modChan a f).validity = s.validity := rfl
@[simp] theorem State.modChan_tw (a : Axis) (f : Channel → Channel) : (s.modChan a f).tw = s.tw := rfl
@[simp] theorem State.modChan_sp (a : Axis) (f : Channel → Channel) : (s.modChan a f).sp = s.sp := rfl
@[simp] theorem State.modChan_st (a : Axis) (f : Channel → Channel) : (s.modChan a f).st = s.st := rfl
@[simp] theorem State.modChan_np (a : Axis) (f : Channel → Channel) : (s.modChan a f).np = s.np := rfl
@[simp] theorem State.modChan_ps (a : Axis) (f : Channel → Channel) : (s.modChan a f).ps = s.ps := rfl
@[simp] theorem State.modChan_picks (a : Axis) (f : Channel → Channel) : (s.modChan a f).picks = s.picks := rfl
@[simp] theorem State.modChan_raised (a : Axis) (f : Channel → Channel) : (s.modChan a f).raised = s.raised := rfl
@[simp] theorem State.modChan_pending (a : Axis) (f : Channel → Channel) : (s.modChan a f).pending = s.pending := rfl

/-! ## modMove -/

@[simp] theorem State.modMove_lc (a : Axis) (f : Move → Move) : (s.modMove a f).lc = s.lc := rfl
@[simp] theorem State.modMove_da (a : Axis) (f : Move → Move) : (s.modMove a f).da = s.da := rfl
@[simp] theorem State.modMove_jm (a : Axis) (f : Move → Move) : (s.modMove a f).jm = s.jm := rfl
@[simp] theorem State.modMove_iu (a : Axis) (f : Move → Move) : (s.modMove a f).iu = s.iu := rfl
@[simp] theorem State.modMove_validity (a : Axis) (f : Move → Move) : (s.modMove a f).validity = s.validity := rfl
@[simp] theorem State.modMove_tw (a : Axis) (f : Move → Move) : (s.modMove a f).tw = s.tw := rfl
@[simp] theorem State.modMove_sp (a : Axis) (f : Move → Move) : (s.modMove a f).sp = s.sp := rfl
@[simp] theorem State.modMove_st (a : Axis) (f : Move → Move) : (s.modMove a f).st = s.st := rfl
@[simp] theorem State.modMove_np (a : Axis) (f : Move → Move) : (s.modMove a f).np = s.np := rfl
@[simp] theorem State.modMove_ps (a : Axis) (f : Move → Move) : (s.modMove a f).ps = s.ps := rfl
@[simp] theorem State.modMove_picks (a : Axis) (f : Move → Move) : (s.modMove a f).picks = s.picks := rfl
@[simp] theorem State.modMove_raised (a : Axis) (f : Move → Move) : (s.modMove a f).raised = s.raised := rfl
@[simp] theorem State.modMove_pending (a : Axis) (f : Move → Move) : (s.modMove a f).pending = s.pending := rfl

/-! ## modLatch -/

@[simp] theorem State.modLatch_ac (l : LatchNo) (f : Latch → Latch) : (s.modLatch l f).ac = s.ac := rfl
@[simp] theorem State.modLatch_da (l : LatchNo) (f : Latch → Latch) : (s.modLatch l f).da = s.da := rfl
@[simp] theorem State.modLatch_jm (l : LatchNo) (f : Latch → Latch) : (s.modLatch l f).jm = s.jm := rfl
@[simp] theorem State.modLatch_iu (l : LatchNo) (f : Latch → Latch) : (s.modLatch l f).iu = s.iu := rfl
@[simp] theorem State.modLatch_validity (l : LatchNo) (f : Latch → Latch) : (s.modLatch l f).validity = s.validity := rfl
@[simp] theorem State.modLatch_tw (l : LatchNo) (f : Latch → Latch) : (s.modLatch l f).tw = s.tw := rfl
@[simp] theorem State.modLatch_sp (l : LatchNo) (f : Latch → Latch) : (s.modLatch l f).sp = s.sp := rfl
@[simp] theorem State.modLatch_st (l : LatchNo) (f : Latch → Latch) : (s.modLatch l f).st = s.st := rfl
@[simp] theorem State.modLatch_np (l : LatchNo) (f : Latch → Latch) : (s.modLatch l f).np = s.np := rfl
@[simp] theorem State.modLatch_ps (l : LatchNo) (f : Latch → Latch) : (s.modLatch l f).ps = s.ps := rfl
@[simp] theorem State.modLatch_picks (l : LatchNo) (f : Latch → Latch) : (s.modLatch l f).picks = s.picks := rfl
@[simp] theorem State.modLatch_raised (l : LatchNo) (f : Latch → Latch) : (s.modLatch l f).raised = s.raised := rfl
@[simp] theorem State.modLatch_pending (l : LatchNo) (f : Latch → Latch) : (s.modLatch l f).pending = s.pending := rfl

/-! ## setGrant -/

@[simp] theorem State.setGrant_ac (a : Axis) (g : Option Grant) : (s.setGrant a g).ac = s.ac := rfl
@[simp] theorem State.setGrant_lc (a : Axis) (g : Option Grant) : (s.setGrant a g).lc = s.lc := rfl
@[simp] theorem State.setGrant_jm (a : Axis) (g : Option Grant) : (s.setGrant a g).jm = s.jm := rfl
@[simp] theorem State.setGrant_iu (a : Axis) (g : Option Grant) : (s.setGrant a g).iu = s.iu := rfl
@[simp] theorem State.setGrant_validity (a : Axis) (g : Option Grant) : (s.setGrant a g).validity = s.validity := rfl
@[simp] theorem State.setGrant_tw (a : Axis) (g : Option Grant) : (s.setGrant a g).tw = s.tw := rfl
@[simp] theorem State.setGrant_sp (a : Axis) (g : Option Grant) : (s.setGrant a g).sp = s.sp := rfl
@[simp] theorem State.setGrant_st (a : Axis) (g : Option Grant) : (s.setGrant a g).st = s.st := rfl
@[simp] theorem State.setGrant_np (a : Axis) (g : Option Grant) : (s.setGrant a g).np = s.np := rfl
@[simp] theorem State.setGrant_ps (a : Axis) (g : Option Grant) : (s.setGrant a g).ps = s.ps := rfl
@[simp] theorem State.setGrant_picks (a : Axis) (g : Option Grant) : (s.setGrant a g).picks = s.picks := rfl
@[simp] theorem State.setGrant_raised (a : Axis) (g : Option Grant) : (s.setGrant a g).raised = s.raised := rfl
@[simp] theorem State.setGrant_pending (a : Axis) (g : Option Grant) : (s.setGrant a g).pending = s.pending := rfl
@[simp] theorem State.setGrant_da_wait (a : Axis) (g : Option Grant) : (s.setGrant a g).da.wait = s.da.wait := rfl
@[simp] theorem State.setGrant_da_arrival (a : Axis) (g : Option Grant) : (s.setGrant a g).da.arrival = s.da.arrival := rfl
@[simp] theorem State.setGrant_da_legs (a : Axis) (g : Option Grant) : (s.setGrant a g).da.legs = s.da.legs := rfl
@[simp] theorem State.setGrant_da_legFault (a : Axis) (g : Option Grant) : (s.setGrant a g).da.legFault = s.da.legFault := rfl

/-! ## setLeg -/

@[simp] theorem State.setLeg_ac (l : Leg) (v : Option Bool) : (s.setLeg l v).ac = s.ac := rfl
@[simp] theorem State.setLeg_lc (l : Leg) (v : Option Bool) : (s.setLeg l v).lc = s.lc := rfl
@[simp] theorem State.setLeg_jm (l : Leg) (v : Option Bool) : (s.setLeg l v).jm = s.jm := rfl
@[simp] theorem State.setLeg_iu (l : Leg) (v : Option Bool) : (s.setLeg l v).iu = s.iu := rfl
@[simp] theorem State.setLeg_validity (l : Leg) (v : Option Bool) : (s.setLeg l v).validity = s.validity := rfl
@[simp] theorem State.setLeg_tw (l : Leg) (v : Option Bool) : (s.setLeg l v).tw = s.tw := rfl
@[simp] theorem State.setLeg_sp (l : Leg) (v : Option Bool) : (s.setLeg l v).sp = s.sp := rfl
@[simp] theorem State.setLeg_st (l : Leg) (v : Option Bool) : (s.setLeg l v).st = s.st := rfl
@[simp] theorem State.setLeg_np (l : Leg) (v : Option Bool) : (s.setLeg l v).np = s.np := rfl
@[simp] theorem State.setLeg_ps (l : Leg) (v : Option Bool) : (s.setLeg l v).ps = s.ps := rfl
@[simp] theorem State.setLeg_picks (l : Leg) (v : Option Bool) : (s.setLeg l v).picks = s.picks := rfl
@[simp] theorem State.setLeg_raised (l : Leg) (v : Option Bool) : (s.setLeg l v).raised = s.raised := rfl
@[simp] theorem State.setLeg_pending (l : Leg) (v : Option Bool) : (s.setLeg l v).pending = s.pending := rfl
@[simp] theorem State.setLeg_da_wait (l : Leg) (v : Option Bool) : (s.setLeg l v).da.wait = s.da.wait := rfl
@[simp] theorem State.setLeg_da_arrival (l : Leg) (v : Option Bool) : (s.setLeg l v).da.arrival = s.da.arrival := rfl
@[simp] theorem State.setLeg_da_grants (l : Leg) (v : Option Bool) : (s.setLeg l v).da.grants = s.da.grants := rfl
@[simp] theorem State.setLeg_da_legFault (l : Leg) (v : Option Bool) : (s.setLeg l v).da.legFault = s.da.legFault := rfl

/-! ## setWait -/

@[simp] theorem State.setWait_ac (l : List WaitEntry) : (s.setWait l).ac = s.ac := rfl
@[simp] theorem State.setWait_lc (l : List WaitEntry) : (s.setWait l).lc = s.lc := rfl
@[simp] theorem State.setWait_jm (l : List WaitEntry) : (s.setWait l).jm = s.jm := rfl
@[simp] theorem State.setWait_iu (l : List WaitEntry) : (s.setWait l).iu = s.iu := rfl
@[simp] theorem State.setWait_validity (l : List WaitEntry) : (s.setWait l).validity = s.validity := rfl
@[simp] theorem State.setWait_tw (l : List WaitEntry) : (s.setWait l).tw = s.tw := rfl
@[simp] theorem State.setWait_sp (l : List WaitEntry) : (s.setWait l).sp = s.sp := rfl
@[simp] theorem State.setWait_st (l : List WaitEntry) : (s.setWait l).st = s.st := rfl
@[simp] theorem State.setWait_np (l : List WaitEntry) : (s.setWait l).np = s.np := rfl
@[simp] theorem State.setWait_ps (l : List WaitEntry) : (s.setWait l).ps = s.ps := rfl
@[simp] theorem State.setWait_picks (l : List WaitEntry) : (s.setWait l).picks = s.picks := rfl
@[simp] theorem State.setWait_raised (l : List WaitEntry) : (s.setWait l).raised = s.raised := rfl
@[simp] theorem State.setWait_pending (l : List WaitEntry) : (s.setWait l).pending = s.pending := rfl
@[simp] theorem State.setWait_da_arrival (l : List WaitEntry) : (s.setWait l).da.arrival = s.da.arrival := rfl
@[simp] theorem State.setWait_da_grants (l : List WaitEntry) : (s.setWait l).da.grants = s.da.grants := rfl
@[simp] theorem State.setWait_da_legs (l : List WaitEntry) : (s.setWait l).da.legs = s.da.legs := rfl
@[simp] theorem State.setWait_da_legFault (l : List WaitEntry) : (s.setWait l).da.legFault = s.da.legFault := rfl

/-! ## setSlot -/

@[simp] theorem State.setSlot_ac (j : Slot) (x : Option Job) : (s.setSlot j x).ac = s.ac := rfl
@[simp] theorem State.setSlot_lc (j : Slot) (x : Option Job) : (s.setSlot j x).lc = s.lc := rfl
@[simp] theorem State.setSlot_da (j : Slot) (x : Option Job) : (s.setSlot j x).da = s.da := rfl
@[simp] theorem State.setSlot_iu (j : Slot) (x : Option Job) : (s.setSlot j x).iu = s.iu := rfl
@[simp] theorem State.setSlot_validity (j : Slot) (x : Option Job) : (s.setSlot j x).validity = s.validity := rfl
@[simp] theorem State.setSlot_tw (j : Slot) (x : Option Job) : (s.setSlot j x).tw = s.tw := rfl
@[simp] theorem State.setSlot_sp (j : Slot) (x : Option Job) : (s.setSlot j x).sp = s.sp := rfl
@[simp] theorem State.setSlot_st (j : Slot) (x : Option Job) : (s.setSlot j x).st = s.st := rfl
@[simp] theorem State.setSlot_np (j : Slot) (x : Option Job) : (s.setSlot j x).np = s.np := rfl
@[simp] theorem State.setSlot_ps (j : Slot) (x : Option Job) : (s.setSlot j x).ps = s.ps := rfl
@[simp] theorem State.setSlot_picks (j : Slot) (x : Option Job) : (s.setSlot j x).picks = s.picks := rfl
@[simp] theorem State.setSlot_raised (j : Slot) (x : Option Job) : (s.setSlot j x).raised = s.raised := rfl
@[simp] theorem State.setSlot_pending (j : Slot) (x : Option Job) : (s.setSlot j x).pending = s.pending := rfl
@[simp] theorem State.setSlot_jm_attended (j : Slot) (x : Option Job) : (s.setSlot j x).jm.attended = s.jm.attended := rfl
@[simp] theorem State.setSlot_jm_scenes (j : Slot) (x : Option Job) : (s.setSlot j x).jm.scenes = s.jm.scenes := rfl
@[simp] theorem State.setSlot_jm_services (j : Slot) (x : Option Job) : (s.setSlot j x).jm.services = s.jm.services := rfl
@[simp] theorem State.setSlot_jm_doneList (j : Slot) (x : Option Job) : (s.setSlot j x).jm.doneList = s.jm.doneList := rfl
@[simp] theorem State.setSlot_jm_claims (j : Slot) (x : Option Job) : (s.setSlot j x).jm.claims = s.jm.claims := rfl
@[simp] theorem State.setSlot_jm_answers (j : Slot) (x : Option Job) : (s.setSlot j x).jm.answers = s.jm.answers := rfl
@[simp] theorem State.setSlot_jm_lastPad (j : Slot) (x : Option Job) : (s.setSlot j x).jm.lastPad = s.jm.lastPad := rfl

/-! ## modJob -/

@[simp] theorem State.modJob_ac (j : Slot) (f : Job → Job) : (s.modJob j f).ac = s.ac := rfl
@[simp] theorem State.modJob_lc (j : Slot) (f : Job → Job) : (s.modJob j f).lc = s.lc := rfl
@[simp] theorem State.modJob_da (j : Slot) (f : Job → Job) : (s.modJob j f).da = s.da := rfl
@[simp] theorem State.modJob_iu (j : Slot) (f : Job → Job) : (s.modJob j f).iu = s.iu := rfl
@[simp] theorem State.modJob_validity (j : Slot) (f : Job → Job) : (s.modJob j f).validity = s.validity := rfl
@[simp] theorem State.modJob_tw (j : Slot) (f : Job → Job) : (s.modJob j f).tw = s.tw := rfl
@[simp] theorem State.modJob_sp (j : Slot) (f : Job → Job) : (s.modJob j f).sp = s.sp := rfl
@[simp] theorem State.modJob_st (j : Slot) (f : Job → Job) : (s.modJob j f).st = s.st := rfl
@[simp] theorem State.modJob_np (j : Slot) (f : Job → Job) : (s.modJob j f).np = s.np := rfl
@[simp] theorem State.modJob_ps (j : Slot) (f : Job → Job) : (s.modJob j f).ps = s.ps := rfl
@[simp] theorem State.modJob_picks (j : Slot) (f : Job → Job) : (s.modJob j f).picks = s.picks := rfl
@[simp] theorem State.modJob_raised (j : Slot) (f : Job → Job) : (s.modJob j f).raised = s.raised := rfl
@[simp] theorem State.modJob_pending (j : Slot) (f : Job → Job) : (s.modJob j f).pending = s.pending := rfl
@[simp] theorem State.modJob_jm_attended (j : Slot) (f : Job → Job) : (s.modJob j f).jm.attended = s.jm.attended := rfl
@[simp] theorem State.modJob_jm_scenes (j : Slot) (f : Job → Job) : (s.modJob j f).jm.scenes = s.jm.scenes := rfl
@[simp] theorem State.modJob_jm_services (j : Slot) (f : Job → Job) : (s.modJob j f).jm.services = s.jm.services := rfl
@[simp] theorem State.modJob_jm_doneList (j : Slot) (f : Job → Job) : (s.modJob j f).jm.doneList = s.jm.doneList := rfl
@[simp] theorem State.modJob_jm_claims (j : Slot) (f : Job → Job) : (s.modJob j f).jm.claims = s.jm.claims := rfl
@[simp] theorem State.modJob_jm_answers (j : Slot) (f : Job → Job) : (s.modJob j f).jm.answers = s.jm.answers := rfl
@[simp] theorem State.modJob_jm_lastPad (j : Slot) (f : Job → Job) : (s.modJob j f).jm.lastPad = s.jm.lastPad := rfl

/-! ## setAnswer -/

@[simp] theorem State.setAnswer_ac (r : Role) (x : Option Answer) : (s.setAnswer r x).ac = s.ac := rfl
@[simp] theorem State.setAnswer_lc (r : Role) (x : Option Answer) : (s.setAnswer r x).lc = s.lc := rfl
@[simp] theorem State.setAnswer_da (r : Role) (x : Option Answer) : (s.setAnswer r x).da = s.da := rfl
@[simp] theorem State.setAnswer_iu (r : Role) (x : Option Answer) : (s.setAnswer r x).iu = s.iu := rfl
@[simp] theorem State.setAnswer_validity (r : Role) (x : Option Answer) : (s.setAnswer r x).validity = s.validity := rfl
@[simp] theorem State.setAnswer_tw (r : Role) (x : Option Answer) : (s.setAnswer r x).tw = s.tw := rfl
@[simp] theorem State.setAnswer_sp (r : Role) (x : Option Answer) : (s.setAnswer r x).sp = s.sp := rfl
@[simp] theorem State.setAnswer_st (r : Role) (x : Option Answer) : (s.setAnswer r x).st = s.st := rfl
@[simp] theorem State.setAnswer_np (r : Role) (x : Option Answer) : (s.setAnswer r x).np = s.np := rfl
@[simp] theorem State.setAnswer_ps (r : Role) (x : Option Answer) : (s.setAnswer r x).ps = s.ps := rfl
@[simp] theorem State.setAnswer_picks (r : Role) (x : Option Answer) : (s.setAnswer r x).picks = s.picks := rfl
@[simp] theorem State.setAnswer_raised (r : Role) (x : Option Answer) : (s.setAnswer r x).raised = s.raised := rfl
@[simp] theorem State.setAnswer_pending (r : Role) (x : Option Answer) : (s.setAnswer r x).pending = s.pending := rfl
@[simp] theorem State.setAnswer_jm_slots (r : Role) (x : Option Answer) : (s.setAnswer r x).jm.slots = s.jm.slots := rfl
@[simp] theorem State.setAnswer_jm_attended (r : Role) (x : Option Answer) : (s.setAnswer r x).jm.attended = s.jm.attended := rfl
@[simp] theorem State.setAnswer_jm_scenes (r : Role) (x : Option Answer) : (s.setAnswer r x).jm.scenes = s.jm.scenes := rfl
@[simp] theorem State.setAnswer_jm_services (r : Role) (x : Option Answer) : (s.setAnswer r x).jm.services = s.jm.services := rfl
@[simp] theorem State.setAnswer_jm_doneList (r : Role) (x : Option Answer) : (s.setAnswer r x).jm.doneList = s.jm.doneList := rfl
@[simp] theorem State.setAnswer_jm_claims (r : Role) (x : Option Answer) : (s.setAnswer r x).jm.claims = s.jm.claims := rfl
@[simp] theorem State.setAnswer_jm_lastPad (r : Role) (x : Option Answer) : (s.setAnswer r x).jm.lastPad = s.jm.lastPad := rfl

/-! ## setLastPad -/

@[simp] theorem State.setLastPad_ac (p : Pad) (x : Option Code) : (s.setLastPad p x).ac = s.ac := rfl
@[simp] theorem State.setLastPad_lc (p : Pad) (x : Option Code) : (s.setLastPad p x).lc = s.lc := rfl
@[simp] theorem State.setLastPad_da (p : Pad) (x : Option Code) : (s.setLastPad p x).da = s.da := rfl
@[simp] theorem State.setLastPad_iu (p : Pad) (x : Option Code) : (s.setLastPad p x).iu = s.iu := rfl
@[simp] theorem State.setLastPad_validity (p : Pad) (x : Option Code) : (s.setLastPad p x).validity = s.validity := rfl
@[simp] theorem State.setLastPad_tw (p : Pad) (x : Option Code) : (s.setLastPad p x).tw = s.tw := rfl
@[simp] theorem State.setLastPad_sp (p : Pad) (x : Option Code) : (s.setLastPad p x).sp = s.sp := rfl
@[simp] theorem State.setLastPad_st (p : Pad) (x : Option Code) : (s.setLastPad p x).st = s.st := rfl
@[simp] theorem State.setLastPad_np (p : Pad) (x : Option Code) : (s.setLastPad p x).np = s.np := rfl
@[simp] theorem State.setLastPad_ps (p : Pad) (x : Option Code) : (s.setLastPad p x).ps = s.ps := rfl
@[simp] theorem State.setLastPad_picks (p : Pad) (x : Option Code) : (s.setLastPad p x).picks = s.picks := rfl
@[simp] theorem State.setLastPad_raised (p : Pad) (x : Option Code) : (s.setLastPad p x).raised = s.raised := rfl
@[simp] theorem State.setLastPad_pending (p : Pad) (x : Option Code) : (s.setLastPad p x).pending = s.pending := rfl
@[simp] theorem State.setLastPad_jm_slots (p : Pad) (x : Option Code) : (s.setLastPad p x).jm.slots = s.jm.slots := rfl
@[simp] theorem State.setLastPad_jm_attended (p : Pad) (x : Option Code) : (s.setLastPad p x).jm.attended = s.jm.attended := rfl
@[simp] theorem State.setLastPad_jm_scenes (p : Pad) (x : Option Code) : (s.setLastPad p x).jm.scenes = s.jm.scenes := rfl
@[simp] theorem State.setLastPad_jm_services (p : Pad) (x : Option Code) : (s.setLastPad p x).jm.services = s.jm.services := rfl
@[simp] theorem State.setLastPad_jm_doneList (p : Pad) (x : Option Code) : (s.setLastPad p x).jm.doneList = s.jm.doneList := rfl
@[simp] theorem State.setLastPad_jm_claims (p : Pad) (x : Option Code) : (s.setLastPad p x).jm.claims = s.jm.claims := rfl
@[simp] theorem State.setLastPad_jm_answers (p : Pad) (x : Option Code) : (s.setLastPad p x).jm.answers = s.jm.answers := rfl

/-! ## modHeat -/

@[simp] theorem State.modHeat_ac (a : Axis) (f : Thermal → Thermal) : (s.modHeat a f).ac = s.ac := rfl
@[simp] theorem State.modHeat_lc (a : Axis) (f : Thermal → Thermal) : (s.modHeat a f).lc = s.lc := rfl
@[simp] theorem State.modHeat_da (a : Axis) (f : Thermal → Thermal) : (s.modHeat a f).da = s.da := rfl
@[simp] theorem State.modHeat_jm (a : Axis) (f : Thermal → Thermal) : (s.modHeat a f).jm = s.jm := rfl
@[simp] theorem State.modHeat_iu (a : Axis) (f : Thermal → Thermal) : (s.modHeat a f).iu = s.iu := rfl
@[simp] theorem State.modHeat_validity (a : Axis) (f : Thermal → Thermal) : (s.modHeat a f).validity = s.validity := rfl
@[simp] theorem State.modHeat_sp (a : Axis) (f : Thermal → Thermal) : (s.modHeat a f).sp = s.sp := rfl
@[simp] theorem State.modHeat_st (a : Axis) (f : Thermal → Thermal) : (s.modHeat a f).st = s.st := rfl
@[simp] theorem State.modHeat_np (a : Axis) (f : Thermal → Thermal) : (s.modHeat a f).np = s.np := rfl
@[simp] theorem State.modHeat_ps (a : Axis) (f : Thermal → Thermal) : (s.modHeat a f).ps = s.ps := rfl
@[simp] theorem State.modHeat_picks (a : Axis) (f : Thermal → Thermal) : (s.modHeat a f).picks = s.picks := rfl
@[simp] theorem State.modHeat_raised (a : Axis) (f : Thermal → Thermal) : (s.modHeat a f).raised = s.raised := rfl
@[simp] theorem State.modHeat_pending (a : Axis) (f : Thermal → Thermal) : (s.modHeat a f).pending = s.pending := rfl

/-! ## setValidity -/

@[simp] theorem State.setValidity_ac (a : Axis) (v : Validity) : (s.setValidity a v).ac = s.ac := rfl
@[simp] theorem State.setValidity_lc (a : Axis) (v : Validity) : (s.setValidity a v).lc = s.lc := rfl
@[simp] theorem State.setValidity_da (a : Axis) (v : Validity) : (s.setValidity a v).da = s.da := rfl
@[simp] theorem State.setValidity_jm (a : Axis) (v : Validity) : (s.setValidity a v).jm = s.jm := rfl
@[simp] theorem State.setValidity_iu (a : Axis) (v : Validity) : (s.setValidity a v).iu = s.iu := rfl
@[simp] theorem State.setValidity_tw (a : Axis) (v : Validity) : (s.setValidity a v).tw = s.tw := rfl
@[simp] theorem State.setValidity_sp (a : Axis) (v : Validity) : (s.setValidity a v).sp = s.sp := rfl
@[simp] theorem State.setValidity_st (a : Axis) (v : Validity) : (s.setValidity a v).st = s.st := rfl
@[simp] theorem State.setValidity_np (a : Axis) (v : Validity) : (s.setValidity a v).np = s.np := rfl
@[simp] theorem State.setValidity_ps (a : Axis) (v : Validity) : (s.setValidity a v).ps = s.ps := rfl
@[simp] theorem State.setValidity_picks (a : Axis) (v : Validity) : (s.setValidity a v).picks = s.picks := rfl
@[simp] theorem State.setValidity_raised (a : Axis) (v : Validity) : (s.setValidity a v).raised = s.raised := rfl
@[simp] theorem State.setValidity_pending (a : Axis) (v : Validity) : (s.setValidity a v).pending = s.pending := rfl

/-! ## demote -/

@[simp] theorem State.demote_ac (a : Axis) (v : Validity) : (s.demote a v).ac = s.ac := rfl
@[simp] theorem State.demote_lc (a : Axis) (v : Validity) : (s.demote a v).lc = s.lc := rfl
@[simp] theorem State.demote_da (a : Axis) (v : Validity) : (s.demote a v).da = s.da := rfl
@[simp] theorem State.demote_jm (a : Axis) (v : Validity) : (s.demote a v).jm = s.jm := rfl
@[simp] theorem State.demote_iu (a : Axis) (v : Validity) : (s.demote a v).iu = s.iu := rfl
@[simp] theorem State.demote_tw (a : Axis) (v : Validity) : (s.demote a v).tw = s.tw := rfl
@[simp] theorem State.demote_sp (a : Axis) (v : Validity) : (s.demote a v).sp = s.sp := rfl
@[simp] theorem State.demote_st (a : Axis) (v : Validity) : (s.demote a v).st = s.st := rfl
@[simp] theorem State.demote_np (a : Axis) (v : Validity) : (s.demote a v).np = s.np := rfl
@[simp] theorem State.demote_ps (a : Axis) (v : Validity) : (s.demote a v).ps = s.ps := rfl
@[simp] theorem State.demote_picks (a : Axis) (v : Validity) : (s.demote a v).picks = s.picks := rfl
@[simp] theorem State.demote_raised (a : Axis) (v : Validity) : (s.demote a v).raised = s.raised := rfl
@[simp] theorem State.demote_pending (a : Axis) (v : Validity) : (s.demote a v).pending = s.pending := rfl

/-! ## modPage -/

@[simp] theorem State.modPage_ac (p : PageNo) (f : Page → Page) : (s.modPage p f).ac = s.ac := rfl
@[simp] theorem State.modPage_lc (p : PageNo) (f : Page → Page) : (s.modPage p f).lc = s.lc := rfl
@[simp] theorem State.modPage_da (p : PageNo) (f : Page → Page) : (s.modPage p f).da = s.da := rfl
@[simp] theorem State.modPage_jm (p : PageNo) (f : Page → Page) : (s.modPage p f).jm = s.jm := rfl
@[simp] theorem State.modPage_iu (p : PageNo) (f : Page → Page) : (s.modPage p f).iu = s.iu := rfl
@[simp] theorem State.modPage_validity (p : PageNo) (f : Page → Page) : (s.modPage p f).validity = s.validity := rfl
@[simp] theorem State.modPage_tw (p : PageNo) (f : Page → Page) : (s.modPage p f).tw = s.tw := rfl
@[simp] theorem State.modPage_sp (p : PageNo) (f : Page → Page) : (s.modPage p f).sp = s.sp := rfl
@[simp] theorem State.modPage_st (p : PageNo) (f : Page → Page) : (s.modPage p f).st = s.st := rfl
@[simp] theorem State.modPage_ps (p : PageNo) (f : Page → Page) : (s.modPage p f).ps = s.ps := rfl
@[simp] theorem State.modPage_picks (p : PageNo) (f : Page → Page) : (s.modPage p f).picks = s.picks := rfl
@[simp] theorem State.modPage_raised (p : PageNo) (f : Page → Page) : (s.modPage p f).raised = s.raised := rfl
@[simp] theorem State.modPage_pending (p : PageNo) (f : Page → Page) : (s.modPage p f).pending = s.pending := rfl

/-! ## modPad -/

@[simp] theorem State.modPad_ac (p : Pad) (f : PadState → PadState) : (s.modPad p f).ac = s.ac := rfl
@[simp] theorem State.modPad_lc (p : Pad) (f : PadState → PadState) : (s.modPad p f).lc = s.lc := rfl
@[simp] theorem State.modPad_da (p : Pad) (f : PadState → PadState) : (s.modPad p f).da = s.da := rfl
@[simp] theorem State.modPad_jm (p : Pad) (f : PadState → PadState) : (s.modPad p f).jm = s.jm := rfl
@[simp] theorem State.modPad_iu (p : Pad) (f : PadState → PadState) : (s.modPad p f).iu = s.iu := rfl
@[simp] theorem State.modPad_validity (p : Pad) (f : PadState → PadState) : (s.modPad p f).validity = s.validity := rfl
@[simp] theorem State.modPad_tw (p : Pad) (f : PadState → PadState) : (s.modPad p f).tw = s.tw := rfl
@[simp] theorem State.modPad_sp (p : Pad) (f : PadState → PadState) : (s.modPad p f).sp = s.sp := rfl
@[simp] theorem State.modPad_st (p : Pad) (f : PadState → PadState) : (s.modPad p f).st = s.st := rfl
@[simp] theorem State.modPad_np (p : Pad) (f : PadState → PadState) : (s.modPad p f).np = s.np := rfl
@[simp] theorem State.modPad_picks (p : Pad) (f : PadState → PadState) : (s.modPad p f).picks = s.picks := rfl
@[simp] theorem State.modPad_raised (p : Pad) (f : PadState → PadState) : (s.modPad p f).raised = s.raised := rfl
@[simp] theorem State.modPad_pending (p : Pad) (f : PadState → PadState) : (s.modPad p f).pending = s.pending := rfl

/-! ## emit -/

@[simp] theorem State.emit_ac (ts : List Task) : (s.emit ts).ac = s.ac := rfl
@[simp] theorem State.emit_lc (ts : List Task) : (s.emit ts).lc = s.lc := rfl
@[simp] theorem State.emit_da (ts : List Task) : (s.emit ts).da = s.da := rfl
@[simp] theorem State.emit_jm (ts : List Task) : (s.emit ts).jm = s.jm := rfl
@[simp] theorem State.emit_iu (ts : List Task) : (s.emit ts).iu = s.iu := rfl
@[simp] theorem State.emit_validity (ts : List Task) : (s.emit ts).validity = s.validity := rfl
@[simp] theorem State.emit_tw (ts : List Task) : (s.emit ts).tw = s.tw := rfl
@[simp] theorem State.emit_sp (ts : List Task) : (s.emit ts).sp = s.sp := rfl
@[simp] theorem State.emit_st (ts : List Task) : (s.emit ts).st = s.st := rfl
@[simp] theorem State.emit_np (ts : List Task) : (s.emit ts).np = s.np := rfl
@[simp] theorem State.emit_ps (ts : List Task) : (s.emit ts).ps = s.ps := rfl
@[simp] theorem State.emit_picks (ts : List Task) : (s.emit ts).picks = s.picks := rfl
@[simp] theorem State.emit_pending (ts : List Task) : (s.emit ts).pending = s.pending := rfl

/-! ## What each update makes of its own field -/

theorem State.modChan_get (a b : Axis) (f : Channel → Channel) : (s.modChan a f).ac[b] = if b = a then f s.ac[a] else s.ac[b] := by
  simp only [State.modChan, Fin.getElem_fin, Vector.getElem_set, Fin.ext_iff]
  by_cases h : (a : Nat) = b <;> simp [h, eq_comm]

theorem State.modLatch_get (l k : LatchNo) (f : Latch → Latch) : (s.modLatch l f).lc[k] = if k = l then f s.lc[l] else s.lc[k] := by
  simp only [State.modLatch, Fin.getElem_fin, Vector.getElem_set, Fin.ext_iff]
  by_cases h : (l : Nat) = k <;> simp [h, eq_comm]

theorem State.setGrant_get (a b : Axis) (g : Option Grant) : (s.setGrant a g).da.grants[b] = if b = a then g else s.da.grants[b] := by
  simp only [State.setGrant, Fin.getElem_fin, Vector.getElem_set, Fin.ext_iff]
  by_cases h : (a : Nat) = b <;> simp [h, eq_comm]

theorem State.setLeg_get (l k : Leg) (v : Option Bool) : (s.setLeg l v).da.legs[k] = if k = l then v else s.da.legs[k] := by
  simp only [State.setLeg, Fin.getElem_fin, Vector.getElem_set, Fin.ext_iff]
  by_cases h : (l : Nat) = k <;> simp [h, eq_comm]

theorem State.setSlot_get (j k : Slot) (x : Option Job) : (s.setSlot j x).jm.slots[k] = if k = j then x else s.jm.slots[k] := by
  simp only [State.setSlot, Fin.getElem_fin, Vector.getElem_set, Fin.ext_iff]
  by_cases h : (j : Nat) = k <;> simp [h, eq_comm]

theorem State.modJob_get (j k : Slot) (f : Job → Job) : (s.modJob j f).jm.slots[k] = if k = j then s.jm.slots[j].map f else s.jm.slots[k] :=
  s.setSlot_get j k _

theorem State.modHeat_get (a b : Axis) (f : Thermal → Thermal) : (s.modHeat a f).tw[b] = if b = a then f s.tw[a] else s.tw[b] := by
  simp only [State.modHeat, Fin.getElem_fin, Vector.getElem_set, Fin.ext_iff]
  by_cases h : (a : Nat) = b <;> simp [h, eq_comm]

theorem State.setValidity_get (a b : Axis) (v : Validity) : (s.setValidity a v).validity[b] = if b = a then v else s.validity[b] := by
  simp only [State.setValidity, Fin.getElem_fin, Vector.getElem_set, Fin.ext_iff]
  by_cases h : (a : Nat) = b <;> simp [h, eq_comm]

@[simp] theorem State.setWait_wait (l : List WaitEntry) : (s.setWait l).da.wait = l := rfl

@[simp] theorem State.emit_work (ts : List Task) : (s.emit ts).raised = s.raised ++ ts := rfl

end Machine
end Sys2Proof
end

