-- ==== Sys2Proof/Laws/Jobs.lean ====
section
/-! SUPPORT. What the work of an event can make of the Job Manager, as a chain of four kinds of piece, and what every such chain keeps. -/

namespace Sys2Proof
namespace Machine

/-! ## Job.Follows -/

theorem Job.Follows.refl (x : Job) : x.Follows x :=
  ⟨⟨rfl, rfl, rfl, rfl, rfl, rfl, rfl⟩, fun _ => ⟨rfl, rfl, rfl⟩, id, fun h => ⟨h, rfl, rfl, rfl⟩, rfl, fun h e => ⟨h, e, List.suffix_refl _⟩⟩

theorem Job.Follows.trans {x y z : Job} (h : x.Follows y) (k : y.Follows z) : x.Follows z := by
  refine ⟨?_, ?_, fun e => k.ended (h.ended e), ?_, k.plan.trans h.plan, ?_⟩
  · obtain ⟨a1, a2, a3, a4, a5, a6, a7⟩ := h.record
    obtain ⟨b1, b2, b3, b4, b5, b6, b7⟩ := k.record
    exact ⟨b1.trans a1, b2.trans a2, b3.trans a3, b4.trans a4, b5.trans a5, b6.trans a6, b7.trans a7⟩
  · intro e
    obtain ⟨a1, a2, a3⟩ := h.decided e
    obtain ⟨b1, b2, b3⟩ := k.decided (by rw [a1]; exact e)
    exact ⟨b1.trans a1, b2.trans a2, b3.trans a3⟩
  · intro e
    obtain ⟨a1, a2, a3, a4⟩ := h.done e
    obtain ⟨b1, b2, b3, b4⟩ := k.done a1
    exact ⟨b1, b2.trans a2, b3.trans a3, b4.trans a4⟩
  · intro f e
    obtain ⟨g, hg, hs⟩ := h.homing f e
    obtain ⟨m, hm, hk⟩ := k.homing g hg
    exact ⟨m, hm, hk.trans hs⟩

theorem Job.Follows.source {x y : Job} (h : x.Follows y) : y.source = x.source := h.record.2.1

theorem Job.Follows.claimed {x y : Job} (h : x.Follows y) : y.claimed = x.claimed := h.record.2.2.2.2.2.2

theorem Job.Follows.cls {x y : Job} (h : x.Follows y) : y.cls = x.cls := h.record.1

/-- A change of the scene that keeps its arrangement. -/
theorem Job.Follows.of_scene (x : Job) (f : Scene → Scene) (h : ∀ sc : Scene, (f sc).plan = sc.plan) : x.Follows { x with scene := x.scene.map f } :=
  ⟨⟨rfl, rfl, rfl, rfl, rfl, rfl, rfl⟩, fun _ => ⟨rfl, rfl, rfl⟩, id, fun h => ⟨h, rfl, rfl, rfl⟩,
    (by show (x.scene.map f).map Scene.plan = _; rw [Option.map_map]; congr 1; funext sc; exact h sc), fun h e => ⟨h, e, List.suffix_refl _⟩⟩

/-- A change of the homing list that drops at most axes at its beginning. -/
theorem Job.Follows.of_homing (x : Job) (f : Homing → Homing) (h : ∀ y : Homing, (f y).list <:+ y.list) : x.Follows { x with homing := x.homing.map f } :=
  ⟨⟨rfl, rfl, rfl, rfl, rfl, rfl, rfl⟩, fun _ => ⟨rfl, rfl, rfl⟩, id, fun h => ⟨h, rfl, rfl, rfl⟩, rfl,
    fun y e => ⟨f y, by show x.homing.map f = _; rw [e]; rfl, h y⟩⟩

/-! ## The pieces -/

/-- What the work of an event makes of the Job Manager: changes of one job, DONE transitions, marks on answers, and, for a pad of ok, a press that its
slot or its field takes. -/
inductive JobManager.Works (ok : Pad → Prop) : JobManager → JobManager → Prop
  | refl (u : JobManager) : Works ok u u
  | trans {u v t : JobManager} : Works ok u v → Works ok v t → Works ok u t
  | job (u : JobManager) (j : Slot) (f : Job → Job)
      (h : ∀ x, u.slots[j] = some x → x.Follows (f x) ∧ ((f x).state = .done → x.state = .done)) :
      Works ok u { u with slots := u.slots.set j (u.slots[j].map f) }
  | answers (u : JobManager) (l : Vector (Option Answer) 4)
      (h : l.map (fun x => x.map Answer.unmarked) = u.answers.map (fun x => x.map Answer.unmarked)) : Works ok u { u with answers := l }
  | complete (u : JobManager) (j : Slot) (x y : Job) (hx : u.slots[j] = some x) (hd : x.state ≠ .done) (hf : x.Follows y)
      (hy : y.state = .done) (ho : y.outcome.isSome = true) : Works ok u (u.complete j y)
  | padTake (u : JobManager) (p : Pad) (x : Job) (hp : ok p) (hf : u.slots[padSlot p] = none) (ha : x.state = .active) (hs : x.source = .pad p)
      (hc : ∀ a : Axis, AxisSet.has x.claimed a = true → u.claims[a] = none) : Works ok u (u.take (padSlot p) x)
  | padLast (u : JobManager) (p : Pad) (c : Option Code) (hp : ok p) : Works ok u { u with lastPad := u.lastPad.set (padNo p) c }

theorem JobManager.Works.mono {ok ok' : Pad → Prop} {u t : JobManager} (h : JobManager.Works ok u t) (hk : ∀ p, ok p → ok' p) :
    JobManager.Works ok' u t := by
  induction h with
  | refl u => exact .refl u
  | trans _ _ h k => exact .trans h k
  | job u j f h => exact .job u j f h
  | answers u l h => exact .answers u l h
  | complete u j x y hx hd hf hy ho => exact .complete u j x y hx hd hf hy ho
  | padTake u p x hp hf ha hs hc => exact .padTake u p x (hk p hp) hf ha hs hc
  | padLast u p c hp => exact .padLast u p c (hk p hp)

/-! ## One piece at a time -/

theorem setSlot_get {α : Type} {n : Nat} (v : Vector α n) (j k : Fin n) (x : α) : (v.set j x)[k] = if k = j then x else v[k] := by
  simp only [Fin.getElem_fin, Vector.getElem_set, Fin.ext_iff, eq_comm]

theorem JobManager.complete_slots (u : JobManager) (j : Slot) (y : Job) (k : Slot) :
    (u.complete j y).slots[k] = if k = j then (match y.source with | .partner _ => some y | .pad _ => none) else u.slots[k] := by
  unfold JobManager.complete
  dsimp only
  cases y.source <;> exact setSlot_get _ _ _ _

theorem JobManager.complete_claims (u : JobManager) (j : Slot) (y : Job) (a : Axis) :
    (u.complete j y).claims[a] = if u.claims[a] = some j then none else u.claims[a] := by
  unfold JobManager.complete
  dsimp only
  cases y.source <;> simp only [JobManager.leave, Fin.getElem_fin, Vector.getElem_map]

theorem JobManager.complete_lists (u : JobManager) (j : Slot) (y : Job) :
    (u.complete j y).attended = u.attended.filter (fun k => k != j) ∧ (u.complete j y).scenes = u.scenes.filter (fun k => k != j)
      ∧ (u.complete j y).services = u.services.filter (fun k => k != j)
      ∧ (u.complete j y).doneList = (match y.source with | .partner _ => u.doneList ++ [j] | .pad _ => u.doneList)
      ∧ (u.complete j y).answers = u.answers := by
  unfold JobManager.complete
  dsimp only
  cases y.source <;> exact ⟨rfl, rfl, rfl, rfl, rfl⟩

theorem JobManager.complete_keeps (u : JobManager) {j k : Slot} (y : Job) (h : k ≠ j) : u.Keeps (u.complete j y) k := by
  obtain ⟨h1, h2, h3, _⟩ := u.complete_lists j y
  refine ⟨fun a e => ?_, fun e => ?_, fun e => ?_, fun e => ?_⟩
  · rw [JobManager.complete_claims, e, if_neg (by intro q; exact h (Option.some.inj q))]
  · rw [h1]; simp [e, h]
  · rw [h2]; simp [e, h]
  · rw [h3]; simp [e, h]

theorem JobManager.Keeps.refl (u : JobManager) (j : Slot) : u.Keeps u j := ⟨fun _ => id, id, id, id⟩

theorem JobManager.Keeps.trans {u v t : JobManager} {j : Slot} (h : u.Keeps v j) (k : v.Keeps t j) : u.Keeps t j :=
  ⟨fun a e => k.1 a (h.1 a e), fun e => k.2.1 (h.2.1 e), fun e => k.2.2.1 (h.2.2.1 e), fun e => k.2.2.2 (h.2.2.2 e)⟩

theorem JobManager.take_slots (u : JobManager) (j : Slot) (x : Job) (k : Slot) : (u.take j x).slots[k] = if k = j then some x else u.slots[k] :=
  setSlot_get _ _ _ _

theorem JobManager.take_claims (u : JobManager) (j : Slot) (x : Job) (a : Axis) :
    (u.take j x).claims[a] = if AxisSet.has x.claimed a = true then some j else u.claims[a] := by
  simp only [JobManager.take, Fin.getElem_fin, Vector.getElem_ofFn]

theorem JobManager.take_keeps (u : JobManager) {j k : Slot} (x : Job) (hc : ∀ a : Axis, AxisSet.has x.claimed a = true → u.claims[a] = none) :
    u.Keeps (u.take j x) k := by
  refine ⟨fun a e => ?_, fun e => ?_, fun e => ?_, fun e => ?_⟩
  · rw [JobManager.take_claims]; split
    · rename_i ha; rw [hc a ha] at e; cases e
    · exact e
  all_goals
    simp only [JobManager.take]
    split
    · exact List.mem_append_left _ e
    · exact e

theorem padSlot_ge (p : Pad) : 14 ≤ (padSlot p).val := by cases p <;> decide

theorem padSlot_inj {p q : Pad} (h : padSlot p = padSlot q) : p = q := by cases p <;> cases q <;> first | rfl | exact absurd h (by decide)

theorem padNo_inj {p q : Pad} (h : padNo p = padNo q) : p = q := by cases p <;> cases q <;> first | rfl | exact absurd h (by decide)

/-! ## What every chain keeps -/

section
variable {ok : Pad → Prop} {u t : JobManager}

/-- A partner's job goes on. -/
theorem JobManager.Works.jobs (h : JobManager.Works ok u t) : ∀ (j : Slot) (x : Job), u.slots[j] = some x → (∃ r, x.source = .partner r) →
    ∃ y, t.slots[j] = some y ∧ x.Follows y := by
  induction h with
  | refl u => exact fun j x hx _ => ⟨x, hx, .refl x⟩
  | trans _ _ h k =>
    intro j x hx hr
    obtain ⟨y, hy, fy⟩ := h j x hx hr
    obtain ⟨z, hz, fz⟩ := k j y hy (by rw [fy.source]; exact hr)
    exact ⟨z, hz, fy.trans fz⟩
  | job u j f h =>
    intro k x hx _
    rw [setSlot_get]; split
    · subst k; exact ⟨f x, by rw [hx]; rfl, (h x hx).1⟩
    · exact ⟨x, hx, .refl x⟩
  | answers u l h => exact fun j x hx _ => ⟨x, hx, .refl x⟩
  | complete u j x y hx hd hf hy ho =>
    intro k z hz hr
    rw [JobManager.complete_slots]; split
    · subst k
      rw [hx] at hz; cases hz
      obtain ⟨r, hr⟩ := hr
      exact ⟨y, by rw [hf.source, hr], hf⟩
    · exact ⟨z, hz, .refl z⟩
  | padTake u p x hp hf ha hs hc =>
    intro k z hz _
    rw [JobManager.take_slots]; split
    · subst k; rw [hf] at hz; cases hz
    · exact ⟨z, hz, .refl z⟩
  | padLast u p c hp => exact fun j x hx _ => ⟨x, hx, .refl x⟩

/-- A FREE slot of the partners stays FREE. -/
theorem JobManager.Works.free (h : JobManager.Works ok u t) : ∀ j : Slot, j.val < 14 → u.slots[j] = none → t.slots[j] = none := by
  induction h with
  | refl u => exact fun _ _ e => e
  | trans _ _ h k => exact fun j hj e => k j hj (h j hj e)
  | job u j f h =>
    intro k _ e
    rw [setSlot_get]; split
    · subst k; rw [e]; rfl
    · exact e
  | answers u l h => exact fun _ _ e => e
  | complete u j x y hx hd hf hy ho =>
    intro k _ e
    rw [JobManager.complete_slots, if_neg (by rintro rfl; rw [hx] at e; cases e)]; exact e
  | padTake u p x hp hf ha hs hc =>
    intro k hk e
    rw [JobManager.take_slots, if_neg (by rintro rfl; have := padSlot_ge p; omega)]; exact e
  | padLast u p c hp => exact fun _ _ e => e

/-- The done list only grows at its tail. -/
theorem JobManager.Works.doneList (h : JobManager.Works ok u t) : u.doneList <+: t.doneList := by
  induction h with
  | trans _ _ h k => exact h.trans k
  | complete u j x y hx hd hf hy ho =>
    rw [(u.complete_lists j y).2.2.2.1]
    cases y.source
    · exact List.prefix_append _ _
    · exact List.prefix_refl _
  | _ => exact List.prefix_refl _

/-- The answers keep all but their marks. -/
theorem JobManager.Works.answers_eq (h : JobManager.Works ok u t) :
    t.answers.map (fun x => x.map Answer.unmarked) = u.answers.map (fun x => x.map Answer.unmarked) := by
  induction h with
  | refl u => rfl
  | trans _ _ h k => exact k.trans h
  | job u j f h => rfl
  | answers u l h => exact h
  | complete u j x y hx hd hf hy ho => rw [(u.complete_lists j y).2.2.2.2]
  | padTake u p x hp hf ha hs hc => rfl
  | padLast u p c hp => rfl

/-- A partner's job that is not DONE keeps its claims and its class list. -/
theorem JobManager.Works.kept (h : JobManager.Works ok u t) : ∀ (j : Slot) (x : Job) (r : Role), u.slots[j] = some x → x.source = .partner r →
    ∀ y, t.slots[j] = some y → y.state ≠ .done → u.Keeps t j := by
  induction h with
  | refl u => exact fun j _ _ _ _ _ _ _ => .refl u j
  | trans h1 h2 h k =>
    intro j x r hx hr z hz hd
    obtain ⟨y, hy, fy⟩ := h1.jobs j x hx ⟨r, hr⟩
    have hr' : y.source = .partner r := by rw [fy.source]; exact hr
    obtain ⟨z', hz', fz⟩ := h2.jobs j y hy ⟨r, hr'⟩
    rw [hz] at hz'; cases hz'
    exact (h j x r hx hr y hy (fun e => hd (fz.done e).1)).trans (k j y r hy hr' z hz hd)
  | job u j f h => exact fun k _ _ _ _ _ _ _ => .refl u k
  | answers u l h => exact fun k _ _ _ _ _ _ _ => .refl u k
  | complete u j x y hx hd hf hy ho =>
    intro k z r hz hr w hw hn
    by_cases e : k = j
    · subst k
      rw [hx] at hz; cases hz
      rw [JobManager.complete_slots, if_pos rfl, hf.source, hr] at hw
      cases hw; exact absurd hy hn
    · exact u.complete_keeps y e
  | padTake u p x hp hf ha hs hc => exact fun k _ _ _ _ _ _ _ => u.take_keeps x hc
  | padLast u p c hp => exact fun k _ _ _ _ _ _ _ => .refl u k

/-- The pads' jobs stay in their slots. -/
theorem JobManager.Works.padsPlaced (h : JobManager.Works ok u t) : u.PadsPlaced → t.PadsPlaced := by
  induction h with
  | refl u => exact id
  | trans _ _ h k => exact fun e => k (h e)
  | job u j f h =>
    intro e k x p hk hs
    rw [setSlot_get] at hk
    split at hk
    · subst k
      cases hx : u.slots[j] with
      | none => rw [hx] at hk; cases hk
      | some z =>
        rw [hx] at hk; cases hk
        exact e j z p hx (by rw [← (h z hx).1.source]; exact hs)
    · exact e k x p hk hs
  | answers u l h => exact id
  | complete u j x y hx hd hf hy ho =>
    intro e k z p hk hs
    rw [JobManager.complete_slots] at hk
    split at hk
    · subst k
      cases hq : y.source with
      | partner r => rw [hq] at hk; cases hk; rw [hq] at hs; cases hs
      | pad q => rw [hq] at hk; cases hk
    · exact e k z p hk hs
  | padTake u p x hp hf ha hs hc =>
    intro e k z q hk hq
    rw [JobManager.take_slots] at hk
    split at hk
    · subst k; cases hk; rw [hs] at hq; cases hq; rfl
    · exact e k z q hk hq
  | padLast u p c hp => exact id

theorem JobManager.PadKeeps.refl (u : JobManager) (p : Pad) : u.PadKeeps u p :=
  ⟨fun x hx _ => .inl ⟨x, hx, .refl x, .refl u _⟩, fun e => ⟨e, rfl⟩⟩

theorem JobManager.PadKeeps.trans {u v t : JobManager} {p : Pad} (h : u.PadKeeps v p) (k : v.PadKeeps t p) : u.PadKeeps t p := by
  refine ⟨fun x hx hs => ?_, fun e => ?_⟩
  · rcases h.job x hx hs with ⟨y, hy, fy, ky⟩ | ⟨e, c, hc, ho⟩
    · rcases k.job y hy (by rw [fy.source]; exact hs) with ⟨z, hz, fz, kz⟩ | ⟨e, c, hc, ho⟩
      · exact .inl ⟨z, hz, fy.trans fz, ky.trans kz⟩
      · refine .inr ⟨e, c, hc, fun i => ?_⟩
        have := (fy.decided i).1
        rw [← ho (by rw [this]; exact i), this]
    · obtain ⟨f1, f2⟩ := k.free e
      exact .inr ⟨f1, c, by rw [f2]; exact hc, ho⟩
  · obtain ⟨f1, f2⟩ := h.free e
    obtain ⟨g1, g2⟩ := k.free f1
    exact ⟨g1, g2.trans f2⟩

/-- What becomes of a pad that no press has reached. -/
theorem JobManager.Works.pads (h : JobManager.Works ok u t) (p : Pad) (hp : ¬ ok p) : u.PadsPlaced → u.PadKeeps t p := by
  induction h with
  | refl u => exact fun _ => .refl u p
  | trans h1 _ h k => exact fun e => (h e).trans (k (h1.padsPlaced e))
  | job u j f h =>
    intro _
    refine ⟨fun x hx _ => .inl ?_, fun e => ⟨?_, rfl⟩⟩
    · rw [setSlot_get]; split
      · rename_i e; subst e; exact ⟨f x, by rw [hx]; rfl, (h x hx).1, fun _ => id, id, id, id⟩
      · exact ⟨x, hx, .refl x, fun _ => id, id, id, id⟩
    · rw [setSlot_get]; split
      · rename_i i; subst i; rw [e]; rfl
      · exact e
  | answers u l h => exact fun _ => ⟨fun x hx _ => .inl ⟨x, hx, .refl x, fun _ => id, id, id, id⟩, fun e => ⟨e, rfl⟩⟩
  | complete u j x y hx hd hf hy ho =>
    intro hpp
    have other : ∀ q : Pad, y.source = .pad q → j = padSlot q := fun q hq => hpp j x q hx (by rw [← hf.source]; exact hq)
    by_cases e : padSlot p = j
    · subst j
      refine ⟨fun z hz hs => .inr ?_, fun e => (by rw [hx] at e; cases e)⟩
      rw [hx] at hz; cases hz
      have hy' : y.source = .pad p := by rw [hf.source]; exact hs
      obtain ⟨c, hc⟩ := Option.isSome_iff_exists.1 ho
      refine ⟨by rw [JobManager.complete_slots, if_pos rfl, hy'], c, ?_, fun i => by rw [← hc]; exact ((hf.decided i).1).symm⟩
      unfold JobManager.complete
      simp only [hy', setSlot_get, if_true]
      exact hc
    · have last : (u.complete j y).lastPad[padNo p] = u.lastPad[padNo p] := by
        unfold JobManager.complete
        dsimp only
        cases hq : y.source with
        | partner r => rfl
        | pad q =>
          dsimp only
          rw [setSlot_get, if_neg (by intro i; exact e (by rw [padNo_inj i, other q hq]))]
          rfl
      refine ⟨fun z hz _ => .inl ⟨z, ?_, .refl z, u.complete_keeps y e⟩, fun i => ⟨?_, last⟩⟩
      · rw [JobManager.complete_slots, if_neg e]; exact hz
      · rw [JobManager.complete_slots, if_neg e]; exact i
  | padTake u q x hq hf ha hs hc =>
    intro _
    have e : padSlot p ≠ padSlot q := by intro i; exact hp (padSlot_inj i ▸ hq)
    refine ⟨fun z hz _ => .inl ⟨z, ?_, .refl z, u.take_keeps x hc⟩, fun i => ⟨?_, rfl⟩⟩
    · rw [JobManager.take_slots, if_neg e]; exact hz
    · rw [JobManager.take_slots, if_neg e]; exact i
  | padLast u q c hq =>
    intro _
    have e : padNo p ≠ padNo q := by intro i; exact hp (padNo_inj i ▸ hq)
    refine ⟨fun z hz _ => .inl ⟨z, hz, .refl z, fun _ => id, id, id, id⟩, fun i => ⟨i, ?_⟩⟩
    show (u.lastPad.set (padNo q) c)[padNo p] = _
    rw [setSlot_get, if_neg e]

end

/-! ## The Job Manager's records agree throughout -/

/-- The slots on a class list, told by a test of their jobs: what a change of one job, a DONE transition and a new job make of it. -/
def ListGood (slots : Vector (Option Job) 16) (l : List Slot) (q : Job → Prop) : Prop :=
  l.Nodup ∧ ∀ j : Slot, j ∈ l ↔ ∃ x, slots[j] = some x ∧ q x

theorem ListGood.job {slots : Vector (Option Job) 16} {l : List Slot} {q : Job → Prop} (h : ListGood slots l q) (j : Slot) (f : Job → Job)
    (hf : ∀ x, slots[j] = some x → (q (f x) ↔ q x)) : ListGood (slots.set j (slots[j].map f)) l q := by
  refine ⟨h.1, fun k => (h.2 k).trans ?_⟩
  rw [setSlot_get]
  split
  · subst k
    cases hx : slots[j] with
    | none => simp
    | some x => simp [hf x hx]
  · rfl

theorem ListGood.drop {slots : Vector (Option Job) 16} {l : List Slot} {q : Job → Prop} (h : ListGood slots l q) (j : Slot) (y : Option Job)
    (hy : ∀ x, y = some x → ¬ q x) : ListGood (slots.set j y) (l.filter (fun k => k != j)) q := by
  refine ⟨h.1.filter _, fun k => ?_⟩
  rw [List.mem_filter, h.2 k, setSlot_get]
  by_cases e : k = j
  · simp only [e, if_true, bne_self_eq_false, Bool.false_eq_true, and_false, false_iff]
    rintro ⟨x, hx, hq⟩
    exact hy x hx hq
  · simp [e]

theorem ListGood.put {slots : Vector (Option Job) 16} {l : List Slot} {q : Job → Prop} (h : ListGood slots l q) (j : Slot) (x : Job)
    (hj : ∀ y, slots[j] = some y → ¬ q y) (hq : q x) : ListGood (slots.set j (some x)) (l ++ [j]) q := by
  have hn : j ∉ l := fun e => by obtain ⟨y, hy, k⟩ := (h.2 j).1 e; exact hj y hy k
  refine ⟨List.nodup_append.2 ⟨h.1, by simp, fun a ha b hb => ?_⟩, fun k => ?_⟩
  · rw [List.mem_singleton.1 hb]; rintro rfl; exact hn ha
  · rw [List.mem_append, h.2 k, setSlot_get]
    by_cases e : k = j
    · subst k
      simp [hq]
    · simp [e]

theorem ListGood.skip {slots : Vector (Option Job) 16} {l : List Slot} {q : Job → Prop} (h : ListGood slots l q) (j : Slot) (x : Option Job)
    (hj : ∀ y, slots[j] = some y → ¬ q y) (hq : ∀ y, x = some y → ¬ q y) : ListGood (slots.set j x) l q := by
  refine ⟨h.1, fun k => (h.2 k).trans ?_⟩
  rw [setSlot_get]
  split
  · subst k
    constructor
    · rintro ⟨y, hy, k⟩; exact absurd k (hj y hy)
    · rintro ⟨y, hy, k⟩; exact absurd k (hq y hy)
  · rfl

/-- The four lists of a good Job Manager. -/
theorem JobManager.good_iff (u : JobManager) : u.Good ↔
    ListGood u.slots u.doneList (fun x => x.state = .done)
      ∧ (∀ (a : Axis) (j : Slot), u.claims[a] = some j ↔ ∃ x, u.slots[j] = some x ∧ x.state ≠ .done ∧ AxisSet.has x.claimed a = true)
      ∧ ListGood u.slots u.attended (fun x => x.state ≠ .done ∧ x.cls = .attended)
      ∧ ListGood u.slots u.scenes (fun x => x.state ≠ .done ∧ x.cls = .scene)
      ∧ ListGood u.slots u.services (fun x => x.state ≠ .done ∧ x.cls = .service)
      ∧ ∀ (j : Slot) (x : Job) (p : Pad), u.slots[j] = some x → (x.source = .pad p ↔ j = padSlot p) :=
  ⟨fun h => ⟨h.done, h.claims, h.attended, h.scenes, h.services, h.placed⟩, fun ⟨h1, h2, h3, h4, h5, h6⟩ => ⟨h1, h2, h3, h4, h5, h6⟩⟩

/-- A change of one job that keeps its record and whether it is DONE. -/
theorem JobManager.Good.job {u : JobManager} (h : u.Good) (j : Slot) (f : Job → Job)
    (hf : ∀ x, u.slots[j] = some x → ((f x).state = .done ↔ x.state = .done) ∧ (f x).cls = x.cls ∧ (f x).source = x.source ∧ (f x).claimed = x.claimed) :
    ({ u with slots := u.slots.set j (u.slots[j].map f) } : JobManager).Good := by
  obtain ⟨h1, h2, h3, h4, h5, h6⟩ := (JobManager.good_iff u).1 h
  refine (JobManager.good_iff _).2 ⟨h1.job j f (fun x hx => (hf x hx).1), fun a k => (h2 a k).trans ?_,
    h3.job j f (fun x hx => by rw [ne_eq, (hf x hx).1, (hf x hx).2.1]), h4.job j f (fun x hx => by rw [ne_eq, (hf x hx).1, (hf x hx).2.1]),
    h5.job j f (fun x hx => by rw [ne_eq, (hf x hx).1, (hf x hx).2.1]), fun k x p hk => ?_⟩
  · dsimp only
    rw [setSlot_get]; split
    · subst k
      cases hx : u.slots[j] with
      | none => simp
      | some x => simp [(hf x hx).1, (hf x hx).2.2.2]
    · rfl
  · dsimp only at hk
    rw [setSlot_get] at hk; split at hk
    · subst k
      cases hx : u.slots[j] with
      | none => rw [hx] at hk; cases hk
      | some z => rw [hx] at hk; cases hk; rw [(hf z hx).2.2.1]; exact h6 j z p hx
    · exact h6 k x p hk

/-- A new job in a FREE slot over axes that nobody claims. -/
theorem JobManager.Good.take {u : JobManager} (h : u.Good) (j : Slot) (x : Job) (hf : u.slots[j] = none) (ha : x.state = .active)
    (hs : ∀ p, x.source = .pad p ↔ j = padSlot p) (hc : ∀ a : Axis, AxisSet.has x.claimed a = true → u.claims[a] = none) : (u.take j x).Good := by
  obtain ⟨h1, h2, h3, h4, h5, h6⟩ := (JobManager.good_iff u).1 h
  have nd : x.state ≠ .done := by rw [ha]; decide
  have none_ : ∀ (q : Job → Prop) y, u.slots[j] = some y → ¬ q y := fun q y e => by rw [hf] at e; cases e
  have put : ∀ (c : JobClass) (l : List Slot), ListGood u.slots l (fun x => x.state ≠ .done ∧ x.cls = c) →
      ListGood (u.slots.set j (some x)) (if x.cls = c then l ++ [j] else l) (fun x => x.state ≠ .done ∧ x.cls = c) := by
    intro c l hl
    split
    · exact hl.put j x (none_ _) ⟨nd, ‹_›⟩
    · exact hl.skip j _ (none_ _) (fun y e => by cases e; exact fun k => absurd k.2 ‹_›)
  refine (JobManager.good_iff _).2 ⟨h1.skip j _ (none_ _) (fun y e => by cases e; exact nd), fun a k => ?_, put _ _ h3, put _ _ h4, put _ _ h5,
    fun k z p hk => ?_⟩
  · rw [JobManager.take_claims, JobManager.take_slots]
    by_cases e : k = j
    · subst k
      simp only [if_true]
      constructor
      · intro hq
        split at hq
        · exact ⟨x, rfl, nd, ‹_›⟩
        · obtain ⟨y, hy, _⟩ := (h2 a j).1 hq; rw [hf] at hy; cases hy
      · rintro ⟨y, hy, _, hy2⟩
        cases hy
        rw [if_pos hy2]
    · rw [if_neg e, ← h2 a k]
      split
      · rename_i hx
        rw [hc a hx]
        simp [Ne.symm e]
      · rfl
  · rw [JobManager.take_slots] at hk
    split at hk
    · subst k; cases hk; exact hs p
    · exact h6 k z p hk

/-- A DONE transition. -/
theorem JobManager.Good.complete {u : JobManager} (h : u.Good) (j : Slot) (x y : Job) (hx : u.slots[j] = some x) (hd : x.state ≠ .done)
    (hf : x.Follows y) (hy : y.state = .done) : (u.complete j y).Good := by
  obtain ⟨h1, h2, h3, h4, h5, h6⟩ := (JobManager.good_iff u).1 h
  have hs : ∀ p, y.source = .pad p ↔ j = padSlot p := fun p => by rw [hf.source]; exact h6 j x p hx
  have nd : ∀ z, u.slots[j] = some z → ¬ z.state = .done := fun z hz => by rw [hx] at hz; cases hz; exact hd
  have claims : ∀ (s : Option Job), (∀ z, s = some z → z.state = .done) → ∀ (a : Axis) (k : Slot), (if u.claims[a] = some j then none else u.claims[a]) = some k ↔
      ∃ z, (u.slots.set j s)[k] = some z ∧ z.state ≠ .done ∧ AxisSet.has z.claimed a = true := by
    intro s hsd a k
    rw [setSlot_get]
    by_cases e : k = j
    · subst k
      simp only [if_true]
      constructor
      · intro hq; split at hq
        · cases hq
        · exact absurd hq ‹_›
      · rintro ⟨z, hz, hn, _⟩
        exact absurd (hsd z hz) hn
    · rw [if_neg e, ← h2 a k]
      split
      · rename_i hq; rw [hq]; simp [Ne.symm e]
      · rfl
  have drop : ∀ (s : Option Job) (c : JobClass) (l : List Slot), (∀ z, s = some z → z.state = .done) → ListGood u.slots l (fun x => x.state ≠ .done ∧ x.cls = c) →
      ListGood (u.slots.set j s) (l.filter (fun k => k != j)) (fun x => x.state ≠ .done ∧ x.cls = c) :=
    fun s c l hsd hl => hl.drop j s (fun z hz k => k.1 (hsd z hz))
  have place : ∀ (s : Option Job), (∀ z, s = some z → z = y) → ∀ (k : Slot) (z : Job) (p : Pad), (u.slots.set j s)[k] = some z → (z.source = .pad p ↔ k = padSlot p) := by
    intro s hsy k z p hk
    rw [setSlot_get] at hk
    split at hk
    · subst k; rw [hsy z hk]; exact hs p
    · exact h6 k z p hk
  have cl : ∀ (a : Axis) (v : Vector (Option Slot) 7), (v.map (fun c => if c = some j then none else c))[a] = if v[a] = some j then none else v[a] := by
    intro a v; simp only [Fin.getElem_fin, Vector.getElem_map]
  refine (JobManager.good_iff _).2 ?_
  unfold JobManager.complete JobManager.leave
  dsimp only
  cases hq : y.source with
  | partner r =>
    dsimp only
    have hyd : ∀ z, some y = some z → z.state = .done := fun z e => by cases e; exact hy
    refine ⟨h1.put j y nd hy, fun a k => ?_, drop _ _ _ hyd h3, drop _ _ _ hyd h4, drop _ _ _ hyd h5, place _ (fun z e => by cases e; rfl)⟩
    rw [cl]; exact claims _ hyd a k
  | pad p =>
    dsimp only
    have hnd : ∀ z : Job, none = some z → z.state = .done := fun z e => by cases e
    refine ⟨h1.skip j none nd (fun z e => by cases e), fun a k => ?_, drop _ _ _ hnd h3, drop _ _ _ hnd h4, drop _ _ _ hnd h5, place _ (fun z e => by cases e)⟩
    rw [cl]; exact claims _ hnd a k

/-- The work of an event keeps the Job Manager's records in agreement. -/
theorem JobManager.Works.good {ok : Pad → Prop} {u t : JobManager} (h : JobManager.Works ok u t) : u.Good → t.Good := by
  induction h with
  | refl u => exact id
  | trans _ _ h k => exact fun e => k (h e)
  | job u j f h =>
    exact fun e => e.job j f (fun x hx => ⟨⟨(h x hx).2, fun i => ((h x hx).1.done i).1⟩, (h x hx).1.cls, (h x hx).1.source, (h x hx).1.claimed⟩)
  | answers u l h => exact fun e => ⟨e.done, e.claims, e.attended, e.scenes, e.services, e.placed⟩
  | complete u j x y hx hd hf hy ho => exact fun e => e.complete j x y hx hd hf hy
  | padTake u p x hp hf ha hs hc =>
    exact fun e => e.take (padSlot p) x hf ha (fun q => by rw [hs]; exact ⟨fun i => by cases i; rfl, fun i => by rw [padSlot_inj i]⟩) hc
  | padLast u p c hp => exact fun e => ⟨e.done, e.claims, e.attended, e.scenes, e.services, e.placed⟩

end Machine
end Sys2Proof
end

