-- ==== Sys2Proof/Laws/Follows.lean ====
section
/-! SUPPORT. The relation State.Follows as a preorder, in two parts: what an operation makes of the channels, and of all else. -/

namespace Sys2Proof
namespace Machine

/-! ## All but the channels -/

/-- What State.Follows says of everything but the channels, the grants and the validities. ok: the pads that a press may reach. -/
structure State.RestFollows (ok : Pad → Prop) (u t : State) : Prop where
  heat : ∀ a : Axis, t.tw[a].heat = u.tw[a].heat ∧ t.tw[a].hot = u.tw[a].hot ∧ t.tw[a].estimated = u.tw[a].estimated
  jm : JobManager.Works ok u.jm t.jm
  legFault : t.da.legFault = u.da.legFault
  iu : t.iu = u.iu
  sp : t.sp = { u.sp with parkQuiet := t.sp.parkQuiet }
  st : t.st = { u.st with write := t.st.write, markerQueued := t.st.markerQueued }
  write : u.st.write.isSome = true → t.st.write = u.st.write
  port : t.np.errors = u.np.errors ∧ t.np.busOff = u.np.busOff ∧ t.np.busOffTimer = u.np.busOffTimer
  conds : ∀ p : Pad, t.ps[padNo p].cond = u.ps[padNo p].cond ∨ (ok p ∧ u.ps[padNo p].cond = .free ∧ t.ps[padNo p].cond ≠ .free)
  pressed : ∀ p : Pad, t.ps[padNo p].pressed = u.ps[padNo p].pressed
  /-- No pad's entry joins the raised work. -/
  entries : ∀ p : Pad, Task.padEntry p ∈ t.raised → Task.padEntry p ∈ u.raised
  pending : t.pending = u.pending

section
variable {ok : Pad → Prop}

theorem State.RestFollows.of {u t : State} (tw : t.tw = u.tw) (jm : JobManager.Works ok u.jm t.jm) (lf : t.da.legFault = u.da.legFault) (iu : t.iu = u.iu)
    (sp : t.sp = u.sp) (st : t.st = u.st) (np : t.np = u.np) (ps : t.ps = u.ps) (pending : t.pending = u.pending)
    (entries : ∀ p : Pad, Task.padEntry p ∈ t.raised → Task.padEntry p ∈ u.raised := by exact fun _ => id) : State.RestFollows ok u t :=
  ⟨fun a => by rw [tw]; exact ⟨rfl, rfl, rfl⟩, jm, lf, iu, by rw [sp], by rw [st], fun _ => by rw [st], by rw [np]; exact ⟨rfl, rfl, rfl⟩,
    fun p => .inl (by rw [ps]), fun p => by rw [ps], entries, pending⟩

theorem State.RestFollows.refl (s : State) : State.RestFollows ok s s := .of rfl (.refl _) rfl rfl rfl rfl rfl rfl rfl

theorem State.RestFollows.trans {u v t : State} (h : State.RestFollows ok u v) (k : State.RestFollows ok v t) : State.RestFollows ok u t := by
  refine ⟨fun a => ?_, h.jm.trans k.jm, k.legFault.trans h.legFault, k.iu.trans h.iu, ?_, ?_, fun e => ?_, ?_, fun p => ?_, fun p => (k.pressed p).trans (h.pressed p),
    fun p e => h.entries p (k.entries p e), k.pending.trans h.pending⟩
  · obtain ⟨a1, a2, a3⟩ := h.heat a
    obtain ⟨b1, b2, b3⟩ := k.heat a
    exact ⟨b1.trans a1, b2.trans a2, b3.trans a3⟩
  · rw [k.sp, h.sp]
  · rw [k.st, h.st]
  · rw [k.write (by rw [h.write e]; exact e), h.write e]
  · obtain ⟨a1, a2, a3⟩ := h.port
    obtain ⟨b1, b2, b3⟩ := k.port
    exact ⟨b1.trans a1, b2.trans a2, b3.trans a3⟩
  · rcases h.conds p with a | ⟨a0, a1, a2⟩ <;> rcases k.conds p with b | ⟨b0, b1, b2⟩
    · exact .inl (b.trans a)
    · exact .inr ⟨b0, by rw [← a, b1], b2⟩
    · exact .inr ⟨a0, a1, by rw [b]; exact a2⟩
    · exact absurd b1 a2

end

/-! ## Channels -/

theorem Channel.SameMove.motion {c d : Channel} (h : c.SameMove d) : d.motion = c.motion := by
  rcases h with rfl | rfl <;> rfl

theorem Channel.SameMove.lockedOut {c d : Channel} (h : c.SameMove d) : d.lockedOut = c.lockedOut := by
  rcases h with rfl | rfl <;> rfl

theorem Channel.SameMove.trans {c d e : Channel} (h : c.SameMove d) (k : d.SameMove e) : c.SameMove e := by
  rcases h with rfl | rfl <;> rcases k with rfl | rfl
  · exact .inl rfl
  · exact .inr rfl
  · exact .inr rfl
  · refine .inr ?_
    simp [Option.map_map, Function.comp_def]

theorem Channel.SameMove.rank {c d : Channel} (h : c.SameMove d) {m : Move} (hm : c.move = some m) :
    ∃ n, d.move = some n ∧ n.rank = m.rank ∧ n.kind = m.kind ∧ n.dir = m.dir := by
  rcases h with rfl | rfl
  · exact ⟨m, hm, rfl, rfl, rfl⟩
  · exact ⟨{ m with job := none }, by simp [hm], rfl, rfl, rfl⟩

theorem Motion.stoppable_ne_idle {m : Motion} (h : m.stoppable = true) : m ≠ .idle := by rintro rfl; cases h

/-- What State.Follows asks of every channel, wherever it stands. -/
structure Channel.Loose (c d : Channel) : Prop where
  position : d.position = c.position
  trims : d.marginTrim = c.marginTrim ∧ d.timeoutTrim = c.timeoutTrim
  flags : d.limitSeen = c.limitSeen ∧ d.stall = c.stall ∧ d.obstruction = c.obstruction
  lockedOut : c.lockedOut = true → d.lockedOut = true
  overcurrent : c.overcurrent = true → d.overcurrent = true
  range : c.InRange → d.InRange

theorem Channel.Loose.refl (c : Channel) : c.Loose c := ⟨rfl, ⟨rfl, rfl⟩, ⟨rfl, rfl, rfl⟩, id, id, id⟩

theorem Channel.Loose.trans {c d e : Channel} (h : c.Loose d) (k : d.Loose e) : c.Loose e := by
  obtain ⟨h1, ⟨h2, h3⟩, ⟨h4, h5, h6⟩, h7, h8, h9⟩ := h
  obtain ⟨k1, ⟨k2, k3⟩, ⟨k4, k5, k6⟩, k7, k8, k9⟩ := k
  exact ⟨k1.trans h1, ⟨k2.trans h2, k3.trans h3⟩, ⟨k4.trans h4, k5.trans h5, k6.trans h6⟩, fun e => k7 (h7 e), fun e => k8 (h8 e),
    fun e => k9 (h9 e)⟩

/-- The two ways a channel that is not IDLE can go on. -/
def Channel.GoesOn (c d : Channel) : Prop :=
  c.motion ≠ .idle → c.SameMove d ∨ (c.motion.stoppable = true ∧ (d.motion = .braking ∨ d.motion = .dwell))

theorem Channel.GoesOn.trans {c d e : Channel} (h : c.GoesOn d) (k : d.GoesOn e) : c.GoesOn e := by
  intro hc
  rcases h hc with h1 | ⟨h1, h2⟩
  · rcases k (by rw [h1.motion]; exact hc) with k1 | ⟨k1, k2⟩
    · exact .inl (h1.trans k1)
    · exact .inr ⟨by rw [← h1.motion]; exact k1, k2⟩
  · have hd : d.motion ≠ .idle := by rcases h2 with h2 | h2 <;> rw [h2] <;> simp
    rcases k hd with k1 | ⟨k1, k2⟩
    · exact .inr ⟨h1, by rw [k1.motion]; exact h2⟩
    · exact .inr ⟨h1, k2⟩

theorem State.KeepsAxis.refl (u : State) (a : Axis) : u.KeepsAxis u a := ⟨rfl, rfl, fun _ _ => rfl⟩

theorem State.KeepsAxis.trans {u v t : State} {a : Axis} (h : u.KeepsAxis v a) (k : v.KeepsAxis t a) : u.KeepsAxis t a :=
  ⟨k.1.trans h.1, k.2.1.trans h.2.1, fun l hl => (k.2.2 l hl).trans (h.2.2 l hl)⟩

/-- The latch of an axis is the one whose axis it is (R5). -/
theorem axisOfLatch_of {a : Axis} {l : LatchNo} (h : latchOf a = some l) : axisOfLatch l = a := by revert a l; decide

/-! ## Reservations and common legs -/

/-- A grant as it was, withdrawn, or with its reservation freed. -/
def Grant.Lowered (g h : Option Grant) : Prop := h = g ∨ h = none ∨ h = g.map (fun x => { x with reservation := 0 })

theorem Grant.Lowered.trans {g h k : Option Grant} (a : Grant.Lowered g h) (b : Grant.Lowered h k) : Grant.Lowered g k := by
  rcases a with rfl | rfl | rfl <;> rcases b with rfl | rfl | rfl
  · exact .inl rfl
  · exact .inr (.inl rfl)
  · exact .inr (.inr rfl)
  · exact .inr (.inl rfl)
  · exact .inr (.inl rfl)
  · exact .inr (.inl rfl)
  · exact .inr (.inr rfl)
  · exact .inr (.inl rfl)
  · exact .inr (.inr (by cases g <;> rfl))

theorem sum_le_of {α : Type} (l : List α) (f g : α → Nat) (h : ∀ x ∈ l, f x ≤ g x) : (l.map f).sum ≤ (l.map g).sum := by
  induction l with
  | nil => exact Nat.le_refl _
  | cons x l ih =>
    simp only [List.map_cons, List.sum_cons]
    exact Nat.add_le_add (h x (by simp)) (ih (fun y hy => h y (by simp [hy])))

/-- Where grants are at most lowered, the sums of the reservations do not rise (R52). -/
theorem State.sums_le {u t : State} (h : ∀ a : Axis, Grant.Lowered u.da.grants[a] t.da.grants[a]) :
    t.reservedTotal ≤ u.reservedTotal ∧ ∀ l : Leg, t.legSum l ≤ u.legSum l := by
  refine ⟨sum_le_of _ _ _ (fun a _ => ?_), fun l => sum_le_of _ _ _ (fun a _ => ?_)⟩
  · rcases h a with e | e | e
    · exact Nat.le_of_eq (by rw [e])
    · simp only [e]; exact Nat.zero_le _
    · simp only [e]; cases u.da.grants[a] <;> exact Nat.zero_le _
  · rcases h a with e | e | e
    · exact Nat.le_of_eq (by rw [e])
    · simp only [e]; exact Nat.zero_le _
    · simp only [e]; cases u.da.grants[a] with
      | none => exact Nat.zero_le _
      | some g => dsimp only [Option.map_some]; split <;> exact Nat.zero_le _

/-- What an operation on one axis leaves of the others, and of its own grant. -/
structure State.OnlyAt (a : Axis) (u t : State) : Prop where
  ac : ∀ b : Axis, b ≠ a → t.ac[b] = u.ac[b]
  grants : ∀ b : Axis, b ≠ a → t.da.grants[b] = u.da.grants[b]
  own : Grant.Lowered u.da.grants[a] t.da.grants[a]

theorem State.OnlyAt.refl (a : Axis) (s : State) : State.OnlyAt a s s := ⟨fun _ _ => rfl, fun _ _ => rfl, .inl rfl⟩

theorem State.OnlyAt.trans {a : Axis} {u v t : State} (h : State.OnlyAt a u v) (k : State.OnlyAt a v t) : State.OnlyAt a u t :=
  ⟨fun b e => (k.ac b e).trans (h.ac b e), fun b e => (k.grants b e).trans (h.grants b e), h.own.trans k.own⟩

theorem State.OnlyAt.of {a : Axis} {u t : State} (h : t.ac = u.ac) (k : t.da.grants = u.da.grants) : State.OnlyAt a u t :=
  ⟨fun b _ => by rw [h], fun b _ => by rw [k], .inl (by rw [k])⟩

theorem State.OnlyAt.modChan (s : State) (a : Axis) (f : Channel → Channel) : State.OnlyAt a s (s.modChan a f) :=
  ⟨fun b e => by rw [State.modChan_get, if_neg e], fun _ _ => rfl, .inl rfl⟩

theorem State.OnlyAt.setGrant (s : State) (a : Axis) (g : Option Grant) (h : Grant.Lowered s.da.grants[a] g) : State.OnlyAt a s (s.setGrant a g) :=
  ⟨fun _ _ => rfl, fun b e => by rw [State.setGrant_get, if_neg e], by rw [State.setGrant_get, if_pos rfl]; exact h⟩

theorem State.OnlyAt.sums {a : Axis} {u t : State} (h : State.OnlyAt a u t) :
    t.reservedTotal ≤ u.reservedTotal ∧ ∀ l : Leg, t.legSum l ≤ u.legSum l :=
  State.sums_le (fun b => by
    by_cases e : b = a
    · exact e ▸ h.own
    · exact .inl (h.grants b e))

/-! ## The whole relation, with the strict part left open for some axes -/

/-- A granted channel's grant, the level of its common leg and, while RULES is invalid, its being alone in the grant table stay (R48, R57). -/
structure State.Holds (p : Axis → Prop) (u t : State) (a : Axis) (g : Grant) : Prop where
  grant : t.da.grants[a] = some g
  leg : ∀ l v, g.commonLeg = some l → u.da.legs[l] = some v → t.da.legs[l] = some v
  alone : u.st.rules = none → ∀ b : Axis, b ≠ a → ¬ p b → u.da.grants[b] = none → t.da.grants[b] = none

/-- The reservations that lie within their limits still do (R52). -/
structure State.Within (u t : State) (d : DriveCopy) : Prop where
  total : u.reservedTotal ≤ d.bTotal → t.reservedTotal ≤ d.bTotal
  legs : ∀ l : Leg, u.legSum l ≤ d.lMax[l] → t.legSum l ≤ d.lMax[l]

/-- State.Follows, with what it asks of a channel beyond Channel.Loose left open for the axes of p. -/
structure State.FollowsBut (p : Axis → Prop) (ok : Pad → Prop) (u t : State) : Prop where
  loose : ∀ a : Axis, u.ac[a].Loose t.ac[a]
  goesOn : ∀ a : Axis, ¬ p a → u.ac[a].GoesOn t.ac[a]
  starts : (∀ b, ¬ p b) → ∀ a : Axis, u.ac[a].motion.stoppable = false → t.ac[a].motion.stoppable = true → t.Cleared a
  idle : ∀ a : Axis, ¬ p a → u.ac[a].motion = .idle → t.ac[a].motion = .idle → u.ac[a].SameMove t.ac[a]
  leaves : ∀ a : Axis, ¬ p a → u.ac[a].motion = .idle → t.ac[a].motion ≠ .idle →
    u.sp.power = .active ∧ u.sp.cond = .normal ∧ u.st.drive.isSome = true
  axis : ∀ a : Axis, ¬ p a → t.ac[a].motion = u.ac[a].motion → u.KeepsAxis t a
  grants : ∀ a : Axis, ¬ p a → u.ac[a].motion = .braking ∨ u.ac[a].motion = .dwell →
    t.da.grants[a] = u.da.grants[a] ∨ t.da.grants[a] = none
  holds : ∀ a : Axis, ¬ p a → u.ac[a].motion.stoppable = true → t.ac[a].motion = u.ac[a].motion → ∀ g, u.da.grants[a] = some g → g.held = false →
    State.Holds p u t a g
  within : (∀ b, ¬ p b) → ∀ d, u.st.drive = some d → State.Within u t d
  spare : ∀ a : Axis, ¬ p a → ∀ d, u.st.drive = some d → d.axis[a].runRes ≤ d.axis[a].startRes → u.Spare d a → t.Spare d a
  wait : u.da.WaitGood → t.da.WaitGood
  rest : State.RestFollows ok u t

/-- Nothing left open. -/
abbrev noAxis : Axis → Prop := fun _ => False

theorem State.FollowsBut.follows {u t : State} (h : State.FollowsBut noAxis (fun p => Task.padEntry p ∈ u.raised) u t) : u.Follows t where
  ac a := ⟨(h.loose a).position, (h.loose a).trims, (h.loose a).flags, (h.loose a).lockedOut, (h.loose a).overcurrent, (h.loose a).range, h.goesOn a id⟩
  starts := h.starts (fun _ => id)
  idle a := h.idle a id
  leaves a := h.leaves a id
  axis a := h.axis a id
  grants a := h.grants a id
  heat := h.rest.heat
  jobs := h.rest.jm.jobs
  free := h.rest.jm.free
  kept := h.rest.jm.kept
  conds := h.rest.conds
  pads e p hp := h.rest.jm.pads p hp e
  doneList := h.rest.jm.doneList
  answers := h.rest.jm.answers_eq
  legFault := h.rest.legFault
  iu := h.rest.iu
  sp := h.rest.sp
  st := h.rest.st
  write := h.rest.write
  port := h.rest.port
  pressed := h.rest.pressed
  pending := h.rest.pending

section
variable {ok : Pad → Prop}

/-- The predicates, the bars and the other conditions of an axis hang on nothing that the work of an event changes. -/
theorem State.RestFollows.falsePredicate {u t : State} (h : State.RestFollows ok u t) (mask : BitVec 5) (a : Axis) :
    t.falsePredicate mask a = u.falsePredicate mask a := by
  have hd : t.st.drive = u.st.drive := by rw [h.st]
  have hs : t.st.seats = u.st.seats := by rw [h.st]
  unfold State.falsePredicate
  congr 1
  funext n
  congr 2
  unfold State.predicate State.standstill State.inPark State.seatsEmpty State.noChildSeat State.rearAccess State.seatsOf State.occupant State.side
    State.driveAxis
  rw [h.iu, hd, hs]

theorem State.RestFollows.rankMask {u t : State} (h : State.RestFollows ok u t) (a : Axis) (r : Nat) : t.rankMask a r = u.rankMask a r := by
  have hd : t.st.drive = u.st.drive := by rw [h.st]
  unfold State.rankMask State.attendedMask State.automaticMask State.driveAxis
  rw [hd]

theorem State.RestFollows.legBarred {u t : State} (h : State.RestFollows ok u t) (a : Axis) : t.legBarred a = u.legBarred a := by
  have hd : t.st.drive = u.st.drive := by rw [h.st]
  unfold State.legBarred State.driveAxis
  rw [hd, h.legFault]

/-- A cleared channel stays cleared while it goes on unchanged. -/
theorem State.Cleared.keep {u t : State} {a : Axis} (h : u.Cleared a) (hr : State.RestFollows ok u t)
    (hs : u.ac[a].SameMove t.ac[a]) (hk : u.KeepsAxis t a) (hh : ∀ g, u.da.grants[a] = some g → g.held = false → State.Holds noAxis u t a g)
    (hw : ∀ d, u.st.drive = some d → State.Within u t d) : t.Cleared a := by
  obtain ⟨h2, h3, h4, h5, c, m, g, h1, hm, hg, hn, hv, hp, hb, hc, hl, ha⟩ := h
  have hd : t.st.drive = u.st.drive := by rw [hr.st]
  have hru : t.st.rules = u.st.rules := by rw [hr.st]
  obtain ⟨n, hmn, hk1, hk2, hk3⟩ := hs.rank hm
  have q := hh g hg hn
  refine ⟨?_, ?_, ?_, ?_, c, n, g, by rw [hd]; exact h1, hmn, q.grant, hn, ?_, ?_, (hw c h1).total hb, hc, fun l e => ?_, fun e b hb => ?_⟩
  · rw [hr.sp]; exact h2
  · rw [hr.sp]; exact h3
  · unfold State.barred at h4 ⊢
    rw [hs.lockedOut, hr.legBarred]; exact h4
  · rw [(hr.heat a).2.1]; exact h5
  · rw [hk.1, hk2]; exact hv
  · rw [hr.falsePredicate, hr.rankMask, hk1]; exact hp
  · obtain ⟨l1, l2⟩ := hl l e
    exact ⟨(hw c h1).legs l l1, by rw [hk3]; exact q.leg l _ (by rw [hc, e]) l2⟩
  · rw [hru] at e
    exact q.alone e b hb id (ha e b hb)

theorem State.FollowsBut.same {p : Axis → Prop} {u v t : State} (h : State.FollowsBut p ok u v) (k : State.FollowsBut p ok v t) {a : Axis} (ha : ¬ p a)
    (e : t.ac[a].motion = u.ac[a].motion) : v.ac[a].motion = u.ac[a].motion := by
  by_cases hu : u.ac[a].motion = .idle
  · by_cases hv : v.ac[a].motion = .idle
    · exact hv.trans hu.symm
    · rcases k.goesOn a ha hv with k1 | ⟨_, k2⟩
      · rw [← k1.motion, e]
      · rw [e, hu] at k2; rcases k2 with k2 | k2 <;> cases k2
  · rcases h.goesOn a ha hu with h1 | ⟨h1, h2⟩
    · exact h1.motion
    · have nb : v.ac[a].motion ≠ .idle ∧ v.ac[a].motion.stoppable = false := by rcases h2 with h2 | h2 <;> rw [h2] <;> exact ⟨by simp, rfl⟩
      rcases k.goesOn a ha nb.1 with k1 | ⟨k1, _⟩
      · rw [← e, k1.motion]
      · rw [nb.2] at k1; cases k1

theorem State.FollowsBut.trans {p : Axis → Prop} {u v t : State} (h : State.FollowsBut p ok u v) (k : State.FollowsBut p ok v t) :
    State.FollowsBut p ok u t := by
  have rests : ∀ a, ¬ p a → u.ac[a].motion = .braking ∨ u.ac[a].motion = .dwell → v.ac[a].motion = .braking ∨ v.ac[a].motion = .dwell := by
    intro a ha hu
    have hv : v.ac[a].motion = u.ac[a].motion := by
      rcases h.goesOn a ha (by rcases hu with e | e <;> rw [e] <;> simp) with h1 | ⟨h1, _⟩
      · exact h1.motion
      · rcases hu with e | e <;> rw [e] at h1 <;> cases h1
    rw [hv]; exact hu
  have hd : v.st.drive = u.st.drive := by rw [h.rest.st]
  have hr : v.st.rules = u.st.rules := by rw [h.rest.st]
  refine ⟨fun a => (h.loose a).trans (k.loose a), fun a ha => (h.goesOn a ha).trans (k.goesOn a ha), fun hp a hu ht => ?_, fun a ha hu ht => ?_,
    fun a ha hu ht => ?_, fun a ha e => ?_, fun a ha hu => ?_, fun a ha hu e g hg hn => ?_, fun hp d e => ?_, fun a ha d e hs hu => ?_, fun e => k.wait (h.wait e), h.rest.trans k.rest⟩
  · cases hv : v.ac[a].motion.stoppable with
    | false => exact k.starts hp a hv ht
    | true =>
      have hi := Motion.stoppable_ne_idle hv
      rcases k.goesOn a (hp a) hi with k1 | ⟨_, k2⟩
      · exact (h.starts hp a hu hv).keep k.rest k1 (k.axis a (hp a) k1.motion)
          (fun g hg hn => by
            have q := k.holds a (hp a) hv k1.motion g hg hn
            exact ⟨q.grant, q.leg, fun e b hb _ => q.alone e b hb (hp b)⟩) (k.within hp)
      · rcases k2 with k2 | k2 <;> rw [k2] at ht <;> cases ht
  · have hv := (h.same k ha (ht.trans hu.symm)).trans hu
    exact (h.idle a ha hu hv).trans (k.idle a ha hv ht)
  · by_cases hv : v.ac[a].motion = .idle
    · obtain ⟨k1, k2, k3⟩ := k.leaves a ha hv ht
      rw [h.rest.sp] at k1 k2
      exact ⟨k1, k2, by rw [← hd]; exact k3⟩
    · exact h.leaves a ha hu hv
  · have hv := h.same k ha e
    exact (h.axis a ha hv).trans (k.axis a ha (e.trans hv.symm))
  · rcases k.grants a ha (rests a ha hu) with e | e
    · rw [e]; exact h.grants a ha hu
    · exact .inr e
  · have hv := h.same k ha e
    have q := h.holds a ha hu hv g hg hn
    have r := k.holds a ha (by rw [hv]; exact hu) (e.trans hv.symm) g q.grant hn
    exact ⟨r.grant, fun l x e1 e2 => r.leg l x e1 (q.leg l x e1 e2), fun e1 b b1 b2 b3 => r.alone (hr.trans e1) b b1 b2 (q.alone e1 b b1 b2 b3)⟩
  · have q := h.within hp d e
    have r := k.within hp d (hd.trans e)
    exact ⟨fun x => r.total (q.total x), fun l x => r.legs l (q.legs l x)⟩
  · exact k.spare a ha d (hd.trans e) hs (h.spare a ha d e hs hu)

theorem State.FollowsBut.weaken {p q : Axis → Prop} {u t : State} (h : State.FollowsBut p ok u t) (hpq : ∀ a, p a → q a)
    (hs : (∀ b, ¬ p b) ∨ ∃ b, q b) : State.FollowsBut q ok u t := by
  have np : ∀ a, ¬ q a → ¬ p a := fun a ha e => ha (hpq a e)
  have nn : (∀ b, ¬ q b) → ∀ b, ¬ p b := fun hq => hs.resolve_right (fun ⟨b, hb⟩ => hq b hb)
  exact ⟨h.loose, fun a ha => h.goesOn a (np a ha), fun hq => h.starts (nn hq), fun a ha => h.idle a (np a ha), fun a ha => h.leaves a (np a ha),
    fun a ha => h.axis a (np a ha), fun a ha => h.grants a (np a ha),
    fun a ha hu e g hg hn =>
      have r := h.holds a (np a ha) hu e g hg hn
      ⟨r.grant, r.leg, fun e1 b b1 b2 => r.alone e1 b b1 (np b b2)⟩,
    fun hq => h.within (nn hq), fun a ha => h.spare a (np a ha), h.wait, h.rest⟩

theorem State.FollowsBut.loosen {p : Axis → Prop} {u t : State} (h : State.FollowsBut noAxis ok u t) : State.FollowsBut p ok u t :=
  h.weaken (fun _ e => e.elim) (.inl (fun _ => id))

theorem State.RestFollows.mono {ok' : Pad → Prop} {u t : State} (h : State.RestFollows ok u t) (hk : ∀ q, ok q → ok' q) : State.RestFollows ok' u t :=
  { h with jm := h.jm.mono hk, conds := fun p => (h.conds p).imp id (fun e => ⟨hk p e.1, e.2⟩) }

theorem State.FollowsBut.mono {ok' : Pad → Prop} {p : Axis → Prop} {u t : State} (h : State.FollowsBut p ok u t) (hk : ∀ q, ok q → ok' q) :
    State.FollowsBut p ok' u t :=
  { h with rest := h.rest.mono hk }

/-- An operation that touches no channel; the grants it touches it withdraws, and no leg of one that stays goes free. -/
theorem State.FollowsBut.of_same {p : Axis → Prop} {u t : State} (hac : t.ac = u.ac) (hk : ∀ a : Axis, p a ∨ u.KeepsAxis t a)
    (hg : ∀ a : Axis, p a ∨ t.da.grants[a] = u.da.grants[a] ∨ (t.da.grants[a] = none ∧ ∀ g, u.da.grants[a] = some g → g.held = true))
    (hl : ∀ a : Axis, u.ac[a].motion.stoppable = true → ∀ g, u.da.grants[a] = some g → g.held = false → ∀ l v, g.commonLeg = some l →
      u.da.legs[l] = some v → t.da.legs[l] = some v)
    (hw : u.da.WaitGood → t.da.WaitGood) (hr : State.RestFollows ok u t) : State.FollowsBut p ok u t := by
  refine ⟨fun a => by rw [hac]; exact .refl _, fun a _ _ => by rw [hac]; exact .inl (.inl rfl), fun _ a h1 h2 => ?_,
    fun a _ _ _ => by rw [hac]; exact .inl rfl, fun a _ h1 h2 => absurd h1 (by rw [← hac]; exact h2), fun a ha _ => (hk a).resolve_left ha, fun a ha _ => ((hg a).resolve_left ha).imp id And.left, fun a ha hu e g e1 e2 => ?_, fun hp d _ => ?_,
    fun a ha d _ _ hu g e => ?_, hw, hr⟩
  · rw [hac, h1] at h2; cases h2
  · have hga : t.da.grants[a] = some g := by
      rcases (hg a).resolve_left ha with k | ⟨_, k⟩
      · rw [k]; exact e1
      · rw [k g e1] at e2; cases e2
    refine ⟨hga, hl a hu g e1 e2, fun _ b hb hpb e3 => ?_⟩
    rcases (hg b).resolve_left hpb with k | ⟨k, _⟩
    · rw [k]; exact e3
    · exact k
  · have q := State.sums_le (u := u) (t := t) (fun a => ((hg a).resolve_left (hp a)).imp id (fun k => .inl k.1))
    exact ⟨fun x => Nat.le_trans q.1 x, fun l x => Nat.le_trans (q.2 l) x⟩
  · rw [hac]
    rcases (hg a).resolve_left ha with k | ⟨k, _⟩
    · exact hu g (by rw [← k]; exact e)
    · rw [k] at e; cases e

/-- An operation that touches no channel, no grant, no leg and nothing of KeepsAxis. -/
theorem State.FollowsBut.of_rest {p : Axis → Prop} {u t : State} (hac : t.ac = u.ac) (hv : t.validity = u.validity) (htw : t.tw = u.tw)
    (hlc : t.lc = u.lc) (hg : t.da.grants = u.da.grants) (hl : t.da.legs = u.da.legs) (hw : u.da.WaitGood → t.da.WaitGood)
    (hr : State.RestFollows ok u t) : State.FollowsBut p ok u t :=
  .of_same hac (fun a => .inr ⟨by rw [hv], by rw [htw], fun l _ => by rw [hlc]⟩) (fun a => .inr (.inl (by rw [hg])))
    (fun _ _ _ _ _ l v _ e => by rw [hl]; exact e) hw hr

theorem State.FollowsBut.refl (p : Axis → Prop) (s : State) : State.FollowsBut p ok s s := .of_rest rfl rfl rfl rfl rfl rfl id (.refl s)

/-- An operation that touches nothing State.Follows speaks of. -/
theorem State.FollowsBut.of_lite {p : Axis → Prop} {u t : State} (ac : t.ac = u.ac) (v : t.validity = u.validity) (tw : t.tw = u.tw)
    (lc : t.lc = u.lc) (jm : t.jm = u.jm) (da : t.da = u.da) (iu : t.iu = u.iu) (sp : t.sp = u.sp) (st : t.st = u.st)
    (np : t.np = u.np) (ps : t.ps = u.ps) (pending : t.pending = u.pending)
    (entries : ∀ p : Pad, Task.padEntry p ∈ t.raised → Task.padEntry p ∈ u.raised := by exact fun _ => id) : State.FollowsBut p ok u t :=
  .of_rest ac v tw lc (by rw [da]) (by rw [da]) (by rw [da]; exact id) (.of tw (by rw [jm]; exact .refl _) (by rw [da]) iu sp st np ps pending entries)

/-- The raised work alone differs: no pad's entry joins it. -/
theorem State.FollowsBut.raised {p : Axis → Prop} {u t : State} (h : State.FollowsBut p ok u t) (l : List Task)
    (hl : ∀ q : Pad, Task.padEntry q ∈ l → Task.padEntry q ∈ u.raised) : State.FollowsBut p ok u { t with raised := l } :=
  ⟨h.loose, h.goesOn, h.starts, h.idle, h.leaves, h.axis, h.grants,
    fun a ha hu e g e1 e2 => have q := h.holds a ha hu e g e1 e2; ⟨q.grant, q.leg, q.alone⟩,
    fun hp d e => have q := h.within hp d e; ⟨q.total, q.legs⟩, h.spare, h.wait,
    ⟨h.rest.heat, h.rest.jm, h.rest.legFault, h.rest.iu, h.rest.sp, h.rest.st, h.rest.write, h.rest.port, h.rest.conds, h.rest.pressed, hl,
      h.rest.pending⟩⟩

/-- A change of one channel within Channel.Loose. -/
theorem State.modChan_but (s : State) (a : Axis) (f : Channel → Channel) (h : s.ac[a].Loose (f s.ac[a])) :
    State.FollowsBut (fun b => b = a) ok s (s.modChan a f) := by
  have other : ∀ b : Axis, b ≠ a → (s.modChan a f).ac[b] = s.ac[b] := fun b hb => by rw [State.modChan_get, if_neg hb]
  refine ⟨fun b => ?_, fun b hb _ => ?_, fun hp => absurd rfl (hp a), fun b hb _ _ => ?_, fun b hb h1 h2 => absurd h1 (by rw [← other b hb]; exact h2),
    fun b _ _ => .refl s b, fun _ _ _ => .inl rfl,
    fun b hb _ _ g e _ => ⟨e, fun _ _ _ e => e, fun _ _ _ _ e => e⟩, fun hp => absurd rfl (hp a), fun b hb d _ _ hu g e => ?_, id,
    .of rfl (.refl _) rfl rfl rfl rfl rfl rfl rfl⟩
  · rw [State.modChan_get]; split
    · subst b; exact h
    · exact .refl _
  · rw [other b hb]; exact .inl (.inl rfl)
  · rw [other b hb]; exact .inl rfl
  · rw [other b hb]; exact hu g e

theorem State.modMove_but (s : State) (a : Axis) (f : Move → Move) : State.FollowsBut (fun b => b = a) ok s (s.modMove a f) :=
  s.modChan_but a _ ⟨rfl, ⟨rfl, rfl⟩, ⟨rfl, rfl, rfl⟩, id, id, id⟩

theorem State.setValidity_but {p : Axis → Prop} (s : State) (a : Axis) (v : Validity) (ha : p a) : State.FollowsBut p ok s (s.setValidity a v) := by
  refine .of_same rfl (fun b => ?_) (fun _ => .inr (.inl rfl)) (fun _ _ _ _ _ _ _ _ => id) id (.of rfl (.refl _) rfl rfl rfl rfl rfl rfl rfl)
  by_cases e : b = a
  · exact .inl (e ▸ ha)
  · exact .inr ⟨by rw [State.setValidity_get, if_neg e], rfl, fun _ _ => rfl⟩

theorem State.modHeat_but {p : Axis → Prop} (s : State) (a : Axis) (f : Thermal → Thermal) (ha : p a)
    (h : (f s.tw[a]).heat = s.tw[a].heat ∧ (f s.tw[a]).hot = s.tw[a].hot ∧ (f s.tw[a]).estimated = s.tw[a].estimated) :
    State.FollowsBut p ok s (s.modHeat a f) := by
  refine .of_same rfl (fun b => ?_) (fun _ => .inr (.inl rfl)) (fun _ _ _ _ _ _ _ _ => id) id
    ⟨fun b => ?_, .refl _, rfl, rfl, rfl, rfl, fun _ => rfl, ⟨rfl, rfl, rfl⟩, fun _ => .inl rfl, fun _ => rfl, fun _ => id, rfl⟩
  · by_cases e : b = a
    · exact .inl (e ▸ ha)
    · exact .inr ⟨rfl, by rw [State.modHeat_get, if_neg e], fun _ _ => rfl⟩
  · rw [State.modHeat_get]; split
    · subst b; exact h
    · exact ⟨rfl, rfl, rfl⟩

theorem State.modLatch_but {p : Axis → Prop} (s : State) (l : LatchNo) (f : Latch → Latch) (h : p (axisOfLatch l)) :
    State.FollowsBut p ok s (s.modLatch l f) := by
  refine .of_same rfl (fun b => ?_) (fun _ => .inr (.inl rfl)) (fun _ _ _ _ _ _ _ _ => id) id (.of rfl (.refl _) rfl rfl rfl rfl rfl rfl rfl)
  by_cases e : axisOfLatch l = b
  · exact .inl (e ▸ h)
  · refine .inr ⟨rfl, rfl, fun k hk => ?_⟩
    rw [State.modLatch_get, if_neg (by rintro rfl; exact e hk)]

/-- A grant set for an axis left open, or a held one withdrawn. -/
theorem State.setGrant_but {p : Axis → Prop} (s : State) (a : Axis) (g : Option Grant)
    (h : p a ∨ (g = none ∧ ∀ x, s.da.grants[a] = some x → x.held = true)) : State.FollowsBut p ok s (s.setGrant a g) := by
  refine .of_same rfl (fun b => .inr (.refl s b)) (fun b => ?_) (fun _ _ _ _ _ _ _ _ => id) id (.of rfl (.refl _) rfl rfl rfl rfl rfl rfl rfl)
  rw [State.setGrant_get]; split
  · subst b; exact h.imp id .inr
  · exact .inr (.inl rfl)

theorem State.setWait_but {p : Axis → Prop} (s : State) (l : List WaitEntry) (h : s.da.WaitGood → Arbiter.WaitGood { s.da with wait := l }) :
    State.FollowsBut p ok s (s.setWait l) :=
  .of_rest rfl rfl rfl rfl rfl rfl h (.of rfl (.refl _) rfl rfl rfl rfl rfl rfl rfl)

/-- Raised work, but no pad's entry. -/
theorem State.emit_but {p : Axis → Prop} (s : State) (ts : List Task) (h : ∀ q : Pad, Task.padEntry q ∉ ts := by simp) :
    State.FollowsBut p ok s (s.emit ts) :=
  .of_lite rfl rfl rfl rfl rfl rfl rfl rfl rfl rfl rfl rfl (fun q e => (List.mem_append.1 e).resolve_right (h q))

theorem State.shuffled_but {p : Axis → Prop} {α : Type} (s : State) (l : List α) : State.FollowsBut p ok s (s.shuffled l).2 :=
  .of_lite rfl rfl rfl rfl rfl rfl rfl rfl rfl rfl rfl rfl

theorem State.coin_but {p : Axis → Prop} (s : State) : State.FollowsBut p ok s s.coin.2 :=
  .of_lite rfl rfl rfl rfl rfl rfl rfl rfl rfl rfl rfl rfl

theorem State.each_but {p : Axis → Prop} {α : Type} (f : State → α → State) : ∀ (l : List α) (s : State),
    (∀ (t : State) (x : α), x ∈ l → State.FollowsBut p ok t (f t x)) → State.FollowsBut p ok s (s.each l f)
  | [], s, _ => .refl p s
  | x :: rest, s, h =>
    (h s x (by simp)).trans (State.each_but f rest (f s x) (fun t y hy => h t y (by simp [hy])))

/-- A piece of the Job Manager's work. -/
theorem State.jm_but {p : Axis → Prop} (s : State) {u : JobManager} (h : JobManager.Works ok s.jm u) : State.FollowsBut p ok s { s with jm := u } :=
  .of_rest rfl rfl rfl rfl rfl rfl id (.of rfl h rfl rfl rfl rfl rfl rfl rfl)

/-- A change of a slot's job that Job.Follows allows. -/
theorem State.modJob_but {p : Axis → Prop} (s : State) (j : Slot) (f : Job → Job)
    (h : ∀ x, s.jm.slots[j] = some x → x.Follows (f x) ∧ ((f x).state = .done → x.state = .done)) : State.FollowsBut p ok s (s.modJob j f) :=
  s.jm_but (.job s.jm j f h)

/-- An operation on one axis that was stopped by it. -/
theorem State.FollowsBut.stopped {u t : State} {a : Axis} (h : State.FollowsBut (fun b => b = a) ok u t) (ho : State.OnlyAt a u t)
    (hu : u.ac[a].motion.stoppable = true) (ht : t.ac[a].motion = .braking ∨ t.ac[a].motion = .dwell) : State.FollowsBut noAxis ok u t := by
  have nt : t.ac[a].motion.stoppable = false := by rcases ht with e | e <;> rw [e] <;> rfl
  have tne : t.ac[a].motion ≠ u.ac[a].motion := by intro e; rw [e, hu] at nt; cases nt
  refine ⟨h.loose, fun b _ => ?_, fun _ b h1 h2 => ?_, fun b _ h1 h2 => ?_, fun b _ h1 h2 => ?_, fun b _ e => ?_, fun b _ hb => ?_, fun b _ hb e g hg hn => ?_, fun _ d _ => ?_,
    fun b _ d e hs hu2 => ?_, h.wait, h.rest⟩
  · by_cases e : b = a
    · subst e; exact fun _ => .inr ⟨hu, ht⟩
    · exact h.goesOn b e
  · by_cases e : b = a
    · subst e; rw [hu] at h1; cases h1
    · rw [ho.ac b e, h1] at h2; cases h2
  · by_cases e : b = a
    · subst e; rw [h1] at hu; cases hu
    · exact h.idle b e h1 h2
  · by_cases e : b = a
    · subst e; rw [h1] at hu; cases hu
    · exact h.leaves b e h1 h2
  · by_cases e' : b = a
    · subst e'; exact absurd e tne
    · exact h.axis b e' e
  · by_cases e : b = a
    · subst e; rcases hb with hb | hb <;> rw [hb] at hu <;> cases hu
    · exact h.grants b e hb
  · by_cases e' : b = a
    · subst e'; exact absurd e tne
    · have q := h.holds b e' hb e g hg hn
      refine ⟨q.grant, q.leg, fun e1 c hc _ e2 => ?_⟩
      by_cases e3 : c = a
      · subst e3
        rcases ho.own with k | k | k <;> rw [k]
        · exact e2
        · rw [e2]; rfl
      · exact q.alone e1 c hc e3 e2
  · exact ⟨fun x => Nat.le_trans ho.sums.1 x, fun l x => Nat.le_trans (ho.sums.2 l) x⟩
  · by_cases e' : b = a
    · subst e'
      intro g hg
      have hheld : g.held = false := by
        have key : ∃ k, u.da.grants[b] = some k ∧ k.held = g.held := by
          rcases ho.own with k | k | k <;> rw [k] at hg
          · exact ⟨g, hg, rfl⟩
          · cases hg
          · cases hk : u.da.grants[b] with
            | none => rw [hk] at hg; cases hg
            | some k => rw [hk] at hg; cases hg; exact ⟨k, rfl, rfl⟩
        obtain ⟨k, hk, hh⟩ := key
        cases hx : g.held with
        | false => rfl
        | true =>
          have := (hu2 k hk).1 (hh.trans hx)
          rw [this] at hu; cases hu
      refine ⟨fun x => (by rw [hheld] at x; cases x), fun x => ?_⟩
      rcases x with x | x | x
      · rw [hheld] at x; cases x
      · rw [x] at nt; cases nt
      · rw [x] at nt; cases nt
    · exact h.spare b e' d e hs hu2

/-- An operation on one axis that was IDLE. -/
theorem State.FollowsBut.started {u t : State} {a : Axis} (h : State.FollowsBut (fun b => b = a) ok u t) (ho : ∀ b : Axis, b ≠ a → t.ac[b] = u.ac[b])
    (hu : u.ac[a].motion = .idle)
    (hl : u.sp.power = .active ∧ u.sp.cond = .normal ∧ u.st.drive.isSome = true)
    (hk : t.ac[a].motion = .idle → u.ac[a].SameMove t.ac[a] ∧ u.KeepsAxis t a) (ht : t.ac[a].motion.stoppable = true → t.Cleared a) (hn : u.st.rules = none → ∀ b : Axis, u.da.grants[b] = none)
    (hw : ∀ d, u.st.drive = some d → State.Within u t d)
    (hs : ∀ d, u.st.drive = some d → d.axis[a].runRes ≤ d.axis[a].startRes → u.Spare d a → t.Spare d a) : State.FollowsBut noAxis ok u t := by
  refine ⟨h.loose, fun b _ => ?_, fun _ b h1 h2 => ?_, fun b _ h1 h2 => ?_, fun b _ h1 h2 => ?_, fun b _ e => ?_, fun b _ hb => ?_, fun b _ hb e g hg hgn => ?_, fun _ => hw,
    fun b _ d e1 e2 e3 => ?_, h.wait, h.rest⟩
  · by_cases e : b = a
    · subst e; exact fun n => absurd hu n
    · exact h.goesOn b e
  · by_cases e : b = a
    · subst e; exact ht h2
    · rw [ho b e, h1] at h2; cases h2
  · by_cases e : b = a
    · subst e; exact (hk h2).1
    · exact h.idle b e h1 h2
  · by_cases e : b = a
    · exact hl
    · exact h.leaves b e h1 h2
  · by_cases e' : b = a
    · subst e'; exact (hk (e.trans hu)).2
    · exact h.axis b e' e
  · by_cases e : b = a
    · subst e; rcases hb with hb | hb <;> rw [hb] at hu <;> cases hu
    · exact h.grants b e hb
  · by_cases e' : b = a
    · subst e'; rw [hu] at hb; cases hb
    · have q := h.holds b e' hb e g hg hgn
      exact ⟨q.grant, q.leg, fun e1 => by rw [hn e1 b] at hg; cases hg⟩
  · by_cases e' : b = a
    · subst e'; exact hs d e1 e2 e3
    · exact h.spare b e' d e1 e2 e3

end

end Machine
end Sys2Proof
end

