-- ==== Sys2Proof/Laws/Channels.lean ====
section
/-! SUPPORT. What the shared operations of the channels and the Drive Arbiter can do, in the terms of State.Follows: a stop, the end of a move, a grant,
and the scan. -/

namespace Sys2Proof
namespace Machine

variable {ok : Pad → Prop}

/-- A leg that no channel keeps goes free; that of a granted channel that drives or releases stays (R48, R49). -/
theorem State.freeLeg_but {p : Axis → Prop} (s : State) (l : Option Leg) : State.FollowsBut p ok s (s.freeLeg l) := by
  unfold State.freeLeg
  split
  · rename_i l
    split
    · exact .refl p s
    · rename_i hf
      refine .of_same rfl (fun b => .inr (.refl s b)) (fun _ => .inr (.inl rfl)) (fun a ha g hg hn k v hk hv => ?_) id (.of rfl (.refl _) rfl rfl rfl rfl rfl rfl rfl)
      rw [State.setLeg_get]; split
      · rename_i e
        subst e
        refine absurd ?_ hf
        rw [List.any_eq_true]
        exact ⟨a, (by decide : ∀ a : Axis, a ∈ axes) a, by unfold State.keepsLeg; rw [hg]; simp; exact ⟨hk, .inr ha⟩⟩
      · exact hv
  · exact .refl p s

/-- A free leg is set (R48). -/
theorem State.takeLeg_but {p : Axis → Prop} (s : State) (l : Option Leg) (v : Bool) : State.FollowsBut p ok s (s.takeLeg l v) := by
  unfold State.takeLeg
  split
  · rename_i l
    split
    · rename_i hf
      refine .of_same rfl (fun b => .inr (.refl s b)) (fun _ => .inr (.inl rfl)) (fun a ha g hg hn k w hk hv => ?_) id (.of rfl (.refl _) rfl rfl rfl rfl rfl rfl rfl)
      rw [State.setLeg_get]; split
      · rename_i e
        subst e
        rw [hv] at hf; cases hf
      · exact hv
    · exact .refl p s
  · exact .refl p s

theorem State.dropSolenoid_but {p : Axis → Prop} (s : State) (a : Axis) (ha : p a) : State.FollowsBut p ok s (s.dropSolenoid a) := by
  unfold State.dropSolenoid
  split
  · rename_i l hl
    exact s.modLatch_but _ _ (axisOfLatch_of hl ▸ ha)
  · exact .refl p s

/-! ## Stops and ends of moves -/

theorem State.freeLeg_ac (s : State) (l : Option Leg) : (s.freeLeg l).ac = s.ac := by
  unfold State.freeLeg
  split
  · split <;> rfl
  · rfl

theorem State.enterBraking_but (s : State) (a : Axis) (code : Code) (pred : Option Nat) :
    State.FollowsBut (fun b => b = a) ok s (s.enterBraking a code pred) := by
  unfold State.enterBraking
  refine .trans ?_ (State.emit_but _ _)
  refine .trans ?_ (State.freeLeg_but _ _)
  refine .trans ?_ (State.modHeat_but _ a _ rfl ⟨rfl, rfl, rfl⟩)
  refine .trans ?_ (State.setGrant_but _ a _ (.inl rfl))
  exact State.modChan_but s a _ ⟨rfl, ⟨rfl, rfl⟩, ⟨rfl, rfl, rfl⟩, id, id, id⟩

theorem State.enterBraking_motion (s : State) (a : Axis) (code : Code) (pred : Option Nat) :
    (s.enterBraking a code pred).ac[a].motion = .braking := by
  unfold State.enterBraking
  simp only [State.emit_ac, State.freeLeg_ac, State.modHeat_ac, State.setGrant_ac, State.modChan_get, if_true]

theorem Motion.stoppable_of_driving {m : Motion} (h : m.driving = true) : m.stoppable = true := by cases m <;> first | rfl | cases h

theorem State.sensorTest_but (s : State) (a : Axis) : State.FollowsBut (fun b => b = a) ok s (s.sensorTest a) := by
  unfold State.sensorTest
  split
  · exact .refl _ s
  · rename_i l hl
    split
    · have h1 : State.FollowsBut (fun b => b = a) ok s
          (((s.modLatch l (fun x => { x with state := .unknown, sensorFault := true, firstReading := false })).modChan a
            (fun c => { c with lockedOut := true })).demote a .unverified) :=
        .trans (State.modLatch_but s l _ (axisOfLatch_of hl)) (.trans (State.modChan_but _ a _ ⟨rfl, ⟨rfl, rfl⟩, ⟨rfl, rfl, rfl⟩, fun _ => rfl, id, id⟩)
          (State.setValidity_but _ a _ rfl))
      dsimp only
      split
      · exact h1.trans (State.enterBraking_but _ _ _ _)
      · exact h1
    · exact .refl _ s

/-- The sensor-fault test ends a move or leaves its motion. -/
theorem State.sensorTest_motion (s : State) (a : Axis) :
    (s.sensorTest a).ac[a].motion = s.ac[a].motion ∨ (s.ac[a].motion.driving = true ∧ (s.sensorTest a).ac[a].motion = .braking) := by
  unfold State.sensorTest
  split
  · exact .inl rfl
  · split
    · dsimp only
      split
      · rename_i h
        refine .inr ⟨?_, State.enterBraking_motion _ _ _ _⟩
        simpa only [State.demote, State.setValidity_ac, State.modChan_get, if_true, State.modLatch_ac] using h
      · left
        simp only [State.demote, State.setValidity_ac, State.modChan_get, if_true, State.modLatch_ac]
    · exact .inl rfl

theorem State.openRelock_but {p : Axis → Prop} (s : State) (a : Axis) (job : Option Slot) (ha : p a) :
    State.FollowsBut p ok s (s.openRelock a job) := by
  unfold State.openRelock
  split
  · exact .refl p s
  · rename_i l hl
    split
    · exact s.modLatch_but _ _ (axisOfLatch_of hl ▸ ha)
    · exact .refl p s

theorem State.openRelock_ac (s : State) (a : Axis) (job : Option Slot) : (s.openRelock a job).ac = s.ac := by
  unfold State.openRelock
  split
  · rfl
  · split <;> rfl

theorem clamp_range (x : Int) (lo hi : Nat) (h : lo ≤ hi) : lo ≤ (clamp x lo hi).toNat ∧ (clamp x lo hi).toNat ≤ hi := by
  unfold clamp; omega

/-- The learned values keep their ranges (R40, R41). -/
theorem Channel.endMove_range (c : Channel) (m : Move) (h : c.InRange) : (c.endMove m).InRange := by
  obtain ⟨h1, h2, h3, h4, h5, h6, h7, h8⟩ := h
  have hi := fun x => clamp_range x 5 200 (by decide)
  have hc := fun x => clamp_range x 0 255 (by decide)
  refine ⟨h1, h2, ?_, ?_, ?_, h6, h7, ?_⟩ <;> dsimp only [Channel.endMove] <;> split <;>
    first | assumption | exact (hi _).1 | exact (hi _).2 | exact (hc _).2 | exact Nat.zero_le _

theorem State.claimCheck_pads (s : State) (a : Axis) (q : Pad) : Task.padEntry q ∉ s.claimCheck a := by
  unfold State.claimCheck
  split <;> simp

theorem Channel.moveEnd_pads (c : Channel) (a : Axis) (q : Pad) : Task.padEntry q ∉ c.moveEnd a := by
  unfold Channel.moveEnd
  split
  · split <;> simp
  · simp

theorem State.enterDwell_but (s : State) (a : Axis) : State.FollowsBut (fun b => b = a) ok s (s.enterDwell a) := by
  unfold State.enterDwell
  split
  · refine .trans ?_ (State.emit_but _ _ (fun q => by simp [State.claimCheck_pads]))
    refine .trans ?_ (State.setGrant_but _ a _ (.inl rfl))
    exact State.modChan_but s a _ ⟨rfl, ⟨rfl, rfl⟩, ⟨rfl, rfl, rfl⟩, id, id, id⟩
  · rename_i m _
    dsimp only
    refine .trans ?_ (State.emit_but _ _ (fun q => by simp [State.claimCheck_pads, Channel.moveEnd_pads]))
    refine .trans ?_ (State.sensorTest_but _ _)
    refine .trans ?_ (State.openRelock_but _ _ _ rfl)
    refine .trans ?_ (State.freeLeg_but _ _)
    refine .trans ?_ (State.setGrant_but _ a _ (.inl rfl))
    refine .trans ?_ (State.modHeat_but _ a _ rfl ⟨rfl, rfl, rfl⟩)
    have h : State.FollowsBut (fun b => b = a) ok s (s.modChan a (fun c => c.endMove m)) :=
      State.modChan_but s a _ ⟨rfl, ⟨rfl, rfl⟩, ⟨rfl, rfl, rfl⟩, id, id, Channel.endMove_range _ m⟩
    split
    · exact h.trans (State.setValidity_but _ a _ rfl)
    · exact h

theorem State.sensorTest_rest (s : State) (a : Axis) (h : s.ac[a].motion.driving = false) : (s.sensorTest a).ac[a].motion = s.ac[a].motion := by
  rcases s.sensorTest_motion a with e | ⟨e, _⟩
  · exact e
  · rw [h] at e; cases e

theorem State.enterDwell_motion (s : State) (a : Axis) : (s.enterDwell a).ac[a].motion = .dwell := by
  unfold State.enterDwell
  split
  · simp only [State.emit_ac, State.setGrant_ac, State.modChan_get, if_true]
  · rename_i m _
    dsimp only
    rw [State.emit_ac]
    have h : ∀ t : State, t.ac = (s.modChan a (fun c => c.endMove m)).ac → (t.sensorTest a).ac[a].motion = .dwell := by
      intro t ht
      have e : t.ac[a].motion = .dwell := by
        rw [ht]; simp only [State.modChan_get, if_true, Channel.endMove]
      rw [t.sensorTest_rest a (by rw [e]; rfl), e]
    apply h
    rw [State.openRelock_ac, State.freeLeg_ac]
    simp only [State.setGrant_ac, State.modHeat_ac]
    split <;> rfl

theorem State.stopAxis_motion (s : State) (a : Axis) (code : Code) (pred : Option Nat) (h : s.ac[a].motion.stoppable = true) :
    (s.stopAxis a code pred).ac[a].motion = .braking ∨ (s.stopAxis a code pred).ac[a].motion = .dwell := by
  unfold State.stopAxis
  rw [if_pos h]
  dsimp only
  split
  · split
    · exact .inr (State.enterDwell_motion _ _)
    · exact .inl (State.enterBraking_motion _ _ _ _)
  · split
    · exact .inr (State.enterDwell_motion _ _)
    · exact .inl (State.enterBraking_motion _ _ _ _)

/-! What these operations leave of the other axes. -/

theorem State.freeLeg_grants (s : State) (l : Option Leg) : (s.freeLeg l).da.grants = s.da.grants := by
  unfold State.freeLeg
  split
  · split <;> rfl
  · rfl

theorem State.freeLeg_only (s : State) (a : Axis) (l : Option Leg) : State.OnlyAt a s (s.freeLeg l) := .of (s.freeLeg_ac l) (s.freeLeg_grants l)

theorem State.dropSolenoid_only (s : State) (a b : Axis) : State.OnlyAt a s (s.dropSolenoid b) := by
  unfold State.dropSolenoid
  split
  · exact .of rfl rfl
  · exact .refl a s

theorem State.openRelock_only (s : State) (a : Axis) (job : Option Slot) : State.OnlyAt a s (s.openRelock a job) := by
  unfold State.openRelock
  split
  · exact .refl a s
  · split
    · exact .of rfl rfl
    · exact .refl a s

theorem State.enterBraking_only (s : State) (a : Axis) (code : Code) (pred : Option Nat) : State.OnlyAt a s (s.enterBraking a code pred) := by
  unfold State.enterBraking
  refine .trans ?_ (.of (State.emit_ac _ _) rfl)
  refine .trans ?_ (State.freeLeg_only _ a _)
  refine .trans ?_ (.of (State.modHeat_ac _ _ _) rfl)
  refine .trans (.modChan s a _) (State.OnlyAt.setGrant _ a _ ?_)
  exact .inr (.inr rfl)

theorem State.sensorTest_only (s : State) (a : Axis) : State.OnlyAt a s (s.sensorTest a) := by
  unfold State.sensorTest
  split
  · exact .refl a s
  · split
    · have h := fun l f => State.OnlyAt.trans (a := a) (.of (State.modLatch_ac s l f) rfl)
        (.trans (.modChan _ a (fun c => { c with lockedOut := true })) (.of (State.demote_ac _ a .unverified) rfl))
      dsimp only
      split
      · exact (h _ _).trans (State.enterBraking_only _ _ _ _)
      · exact h _ _
    · exact .refl a s

theorem State.enterDwell_only (s : State) (a : Axis) : State.OnlyAt a s (s.enterDwell a) := by
  unfold State.enterDwell
  split
  · refine .trans ?_ (.of (State.emit_ac _ _) rfl)
    exact .trans (.modChan s a _) (.setGrant _ a _ (.inr (.inl rfl)))
  · rename_i m _
    dsimp only
    refine .trans ?_ (.of (State.emit_ac _ _) rfl)
    refine .trans ?_ (State.sensorTest_only _ _)
    refine .trans ?_ (State.openRelock_only _ _ _)
    refine .trans ?_ (State.freeLeg_only _ _ _)
    refine .trans ?_ (.setGrant _ a _ (.inr (.inl rfl)))
    refine .trans ?_ (.of (State.modHeat_ac _ _ _) rfl)
    have h : State.OnlyAt a s (s.modChan a (fun c => c.endMove m)) := .modChan s a _
    split
    · exact h.trans (.of rfl rfl)
    · exact h

theorem State.stopAxis_only (s : State) (a : Axis) (code : Code) (pred : Option Nat) : State.OnlyAt a s (s.stopAxis a code pred) := by
  unfold State.stopAxis
  split
  · dsimp only
    have h0 : State.OnlyAt a s (if code = .overcurrent then s.modChan a (fun c => { c with overcurrent := true }) else s) := by
      split
      · exact .modChan s a _
      · exact .refl a s
    generalize (if code = .overcurrent then s.modChan a (fun c => { c with overcurrent := true }) else s) = s0 at h0 ⊢
    refine h0.trans ?_
    split
    · refine .trans ?_ (State.enterDwell_only _ _)
      exact .trans (State.dropSolenoid_only _ a a) (.modChan _ a _)
    · exact State.enterBraking_only _ _ _ _
  · exact .refl a s

/-- A stop request: the channel it ends comes to BRAKING or DWELL (R27). -/
theorem State.stopAxis_but (s : State) (a : Axis) (code : Code) (pred : Option Nat) :
    State.FollowsBut noAxis ok s (s.stopAxis a code pred) := by
  by_cases h : s.ac[a].motion.stoppable = true
  · refine State.FollowsBut.stopped (a := a) ?_ (State.stopAxis_only s a code pred) h (State.stopAxis_motion s a code pred h)
    unfold State.stopAxis
    rw [if_pos h]
    have h0 : State.FollowsBut (fun b => b = a) ok s (if code = .overcurrent then s.modChan a (fun c => { c with overcurrent := true }) else s) := by
      split
      · exact State.modChan_but s a _ ⟨rfl, ⟨rfl, rfl⟩, ⟨rfl, rfl, rfl⟩, id, fun _ => rfl, id⟩
      · exact .refl _ s
    generalize (if code = .overcurrent then s.modChan a (fun c => { c with overcurrent := true }) else s) = s0 at h0 ⊢
    refine h0.trans ?_
    dsimp only
    split
    · refine .trans ?_ (State.enterDwell_but _ _)
      refine .trans ?_ (State.modMove_but _ a _)
      exact State.dropSolenoid_but _ _ rfl
    · exact State.enterBraking_but _ _ _ _
  · unfold State.stopAxis
    rw [if_neg h]
    exact .refl _ s

/-- A stopped channel is at rest or braking, and stays so (R27). -/
theorem State.stopAxis_stops (s : State) (a : Axis) (code : Code) (pred : Option Nat) : (s.stopAxis a code pred).ac[a].motion.stoppable = false := by
  by_cases h : s.ac[a].motion.stoppable = true
  · rcases State.stopAxis_motion s a code pred h with e | e <;> rw [e] <;> rfl
  · unfold State.stopAxis
    rw [if_neg h]
    simpa using h

/-! ## Starting a move -/

theorem State.decideRelock_but (s : State) (a : Axis) (passed : Bool) : State.FollowsBut (fun b => b = a) ok s (s.decideRelock a passed) := by
  unfold State.decideRelock
  split
  · exact .refl _ s
  · rename_i l hl
    split
    · dsimp only
      have h : State.FollowsBut (fun b => b = a) ok s
          (if passed = true then s.modLatch l (fun x => { x with relock := if passed then .passed else .failed, relockTimer := .stopped, relockJob := none })
            else (s.modLatch l (fun x => { x with relock := if passed then .passed else .failed, relockTimer := .stopped, relockJob := none })).modChan a
              (fun c => { c with lastOutcome := some .latchNotEngaged })) := by
        split
        · exact State.modLatch_but s l _ (axisOfLatch_of hl)
        · refine .trans ?_ (State.modChan_but _ a _ ⟨rfl, ⟨rfl, rfl⟩, ⟨rfl, rfl, rfl⟩, id, id, id⟩)
          exact State.modLatch_but s l _ (axisOfLatch_of hl)
      split
      · exact h.trans (State.emit_but _ _)
      · exact h
    · exact .refl _ s

theorem State.grantLatch_but {p : Axis → Prop} (s : State) (a : Axis) (k : MoveKind) (ha : p a) : State.FollowsBut p ok s (s.grantLatch a k) := by
  unfold State.grantLatch
  split
  · exact .refl p s
  · rename_i l hl
    have hp : p (axisOfLatch l) := axisOfLatch_of hl ▸ ha
    split
    · exact s.modLatch_but _ _ hp
    · exact s.modLatch_but _ _ hp
    · split
      · exact s.modLatch_but _ _ hp
      · exact s.modLatch_but _ _ hp

theorem State.grantLatch_ac (s : State) (a : Axis) (k : MoveKind) : (s.grantLatch a k).ac = s.ac := by
  unfold State.grantLatch
  split
  · rfl
  · split
    · rfl
    · rfl
    · split <;> rfl

theorem State.startMove_but (s : State) (a : Axis) (g : Grant) : State.FollowsBut (fun b => b = a) ok s (s.startMove a g) := by
  unfold State.startMove
  split
  · exact .refl _ s
  · dsimp only
    split
    · refine .trans ?_ (State.grantLatch_but _ _ _ rfl)
      exact .trans (State.decideRelock_but s a _) (State.modChan_but _ a _ ⟨rfl, ⟨rfl, rfl⟩, ⟨rfl, rfl, rfl⟩, id, id,
        fun h => ⟨h.1, Nat.zero_le _, h.2.2⟩⟩)
    · refine .trans ?_ (State.modHeat_but _ a _ rfl ⟨rfl, rfl, rfl⟩)
      refine .trans ?_ (State.grantLatch_but _ _ _ rfl)
      exact .trans (State.decideRelock_but s a _) (State.modChan_but _ a _ ⟨rfl, ⟨rfl, rfl⟩, ⟨rfl, rfl, rfl⟩, id, id,
        fun h => ⟨h.1, Nat.zero_le _, h.2.2⟩⟩)

/-- The relock decision of a grant leaves its channel's motion and LOCKED_OUT. -/
theorem State.decideRelock_chan (s : State) (a : Axis) (passed : Bool) (b : Axis) :
    (s.decideRelock a passed).ac[b].lockedOut = s.ac[b].lockedOut ∧ (s.decideRelock a passed).ac[b].motion = s.ac[b].motion
      ∧ (s.decideRelock a passed).ac[b].move = s.ac[b].move ∧ (s.decideRelock a passed).ac[b].position = s.ac[b].position := by
  unfold State.decideRelock
  split
  · exact ⟨rfl, rfl, rfl, rfl⟩
  · split
    · dsimp only
      cases passed <;> split <;> simp only [State.emit_ac, State.modLatch_ac, State.modChan_get, Bool.false_eq_true, if_false, if_true] <;>
        first | trivial | (split <;> first | (subst b; exact ⟨rfl, rfl, rfl, rfl⟩) | exact ⟨rfl, rfl, rfl, rfl⟩)
    · exact ⟨rfl, rfl, rfl, rfl⟩

theorem State.decideRelock_st (s : State) (a : Axis) (passed : Bool) : (s.decideRelock a passed).st = s.st := by
  unfold State.decideRelock
  split
  · rfl
  · split
    · dsimp only
      cases passed <;> split <;> rfl
    · rfl

/-- What a started channel holds (R19). -/
theorem State.startMove_chan (s : State) (a : Axis) (g : Grant) {d : DriveAxis} (hd : s.driveAxis a = some d) :
    (s.startMove a g).ac[a].lockedOut = s.ac[a].lockedOut
      ∧ (s.startMove a g).ac[a].motion.stoppable = true
      ∧ ∃ m, (s.startMove a g).ac[a].move = some m ∧ m.rank = g.entry.rank ∧ m.kind = g.entry.kind ∧ m.dir = g.entry.dir := by
  unfold State.startMove
  rw [hd]
  dsimp only
  have h1 := (State.decideRelock_chan s a (s.latchLocked a) a).1
  split <;> (simp only [State.modHeat_ac, State.grantLatch_ac, State.modChan_get, if_true]; exact ⟨h1, rfl, _, rfl, rfl, rfl, rfl⟩)

/-! ## The wait list -/

theorem Arbiter.WaitGood.sub {d : Arbiter} (h : d.WaitGood) {l : List WaitEntry} (hl : l.Sublist d.wait) : Arbiter.WaitGood { d with wait := l } :=
  ⟨h.1.sublist (hl.map _), h.2.1.sublist hl, fun e he => h.2.2.1 e (hl.subset he), h.2.2.2⟩

/-- A change of entries that keeps their axes, ranks and arrival numbers. -/
theorem Arbiter.WaitGood.change {d : Arbiter} (h : d.WaitGood) (f : WaitEntry → WaitEntry)
    (hf : ∀ e, (f e).axis = e.axis ∧ (f e).rank = e.rank ∧ (f e).arrival = e.arrival) : Arbiter.WaitGood { d with wait := d.wait.map f } := by
  refine ⟨?_, ?_, fun e he => ?_, h.2.2.2⟩
  · show ((d.wait.map f).map WaitEntry.axis).Nodup
    rw [List.map_map, show WaitEntry.axis ∘ f = WaitEntry.axis from funext (fun e => (hf e).1)]
    exact h.1
  · refine List.pairwise_map.2 (h.2.1.imp (fun {x y} k => ?_))
    rw [(hf x).2.1, (hf x).2.2, (hf y).2.1, (hf y).2.2]
    exact k
  · obtain ⟨x, hx, rfl⟩ := List.mem_map.1 he
    rw [(hf x).2.2]
    exact h.2.2.1 x hx

theorem insertEntry_mem (e x : WaitEntry) : ∀ l, x ∈ insertEntry e l ↔ x = e ∨ x ∈ l
  | [] => by simp [insertEntry]
  | y :: rest => by
    unfold insertEntry
    split
    · simp
    · simp only [List.mem_cons, insertEntry_mem e x rest]
      exact ⟨fun h => h.elim (fun h => .inr (.inl h)) (fun h => h.imp id .inr), fun h => h.elim (fun h => .inr (.inl h)) (fun h => h.imp id .inr)⟩

theorem insertEntry_nodup (e : WaitEntry) : ∀ l, (l.map WaitEntry.axis).Nodup → e.axis ∉ l.map WaitEntry.axis →
    ((insertEntry e l).map WaitEntry.axis).Nodup
  | [], _, _ => by simp [insertEntry]
  | y :: rest, h, k => by
    unfold insertEntry
    split
    · exact List.nodup_cons.2 ⟨k, h⟩
    · rw [List.map_cons] at h k
      obtain ⟨h1, h2⟩ := List.nodup_cons.1 h
      simp only [List.mem_cons, not_or] at k
      rw [List.map_cons]
      refine List.nodup_cons.2 ⟨fun i => ?_, insertEntry_nodup e rest h2 k.2⟩
      obtain ⟨x, hx, hy⟩ := List.mem_map.1 i
      rcases (insertEntry_mem e x rest).1 hx with rfl | hx
      · exact k.1 hy
      · exact h1 (hy ▸ List.mem_map_of_mem hx)

/-- A new entry, with an arrival number above all others, goes to its place (R54). -/
theorem insertEntry_sorted (e : WaitEntry) : ∀ l : List WaitEntry, l.Pairwise (fun e f => e.rank < f.rank ∨ (e.rank = f.rank ∧ e.arrival < f.arrival)) →
    (∀ x ∈ l, x.arrival < e.arrival) → (insertEntry e l).Pairwise (fun e f => e.rank < f.rank ∨ (e.rank = f.rank ∧ e.arrival < f.arrival))
  | [], _, _ => by simp [insertEntry]
  | y :: rest, h, k => by
    unfold insertEntry
    obtain ⟨h1, h2⟩ := List.pairwise_cons.1 h
    split
    · rename_i hr
      refine List.pairwise_cons.2 ⟨fun x hx => .inl ?_, h⟩
      rcases List.mem_cons.1 hx with rfl | hx
      · exact hr
      · have := h1 x hx; omega
    · rename_i hr
      refine List.pairwise_cons.2 ⟨fun x hx => ?_, insertEntry_sorted e rest h2 (fun x hx => k x (by simp [hx]))⟩
      rcases (insertEntry_mem e x rest).1 hx with rfl | hx
      · have := k y (by simp); omega
      · exact h1 x hx

theorem renumber_mem : ∀ (l : List WaitEntry) (n : Nat) (e : WaitEntry), e ∈ renumber n l → n ≤ e.arrival ∧ e.arrival < n + l.length ∧ ∃ x ∈ l, x.axis = e.axis ∧ x.rank = e.rank
  | [], _, _, h => by cases h
  | y :: rest, n, e, h => by
    unfold renumber at h
    rcases List.mem_cons.1 h with rfl | h
    · exact ⟨Nat.le_refl _, by simp, y, by simp, rfl, rfl⟩
    · obtain ⟨h1, h2, x, h3, h4⟩ := renumber_mem rest (n + 1) e h
      exact ⟨by omega, by rw [List.length_cons]; omega, x, by simp [h3], h4⟩

theorem renumber_axes : ∀ (l : List WaitEntry) (n : Nat), (renumber n l).map WaitEntry.axis = l.map WaitEntry.axis
  | [], _ => rfl
  | y :: rest, n => by unfold renumber; simp [renumber_axes rest (n + 1)]

theorem renumber_sorted : ∀ (l : List WaitEntry) (n : Nat), l.Pairwise (fun e f => e.rank < f.rank ∨ (e.rank = f.rank ∧ e.arrival < f.arrival)) →
    (renumber n l).Pairwise (fun e f => e.rank < f.rank ∨ (e.rank = f.rank ∧ e.arrival < f.arrival))
  | [], _, _ => .nil
  | y :: rest, n, h => by
    obtain ⟨h1, h2⟩ := List.pairwise_cons.1 h
    unfold renumber
    refine List.pairwise_cons.2 ⟨fun x hx => ?_, renumber_sorted rest (n + 1) h2⟩
    obtain ⟨a1, _, z, a3, a4, a5⟩ := renumber_mem rest (n + 1) x hx
    dsimp only
    have := h1 z a3
    rw [← a5]; omega

theorem nodup_length {α : Type} [DecidableEq α] : ∀ l m : List α, l.Nodup → (∀ x ∈ l, x ∈ m) → l.length ≤ m.length
  | [], _, _, _ => Nat.zero_le _
  | x :: l, m, h, k => by
    obtain ⟨h1, h2⟩ := List.nodup_cons.1 h
    have hx := k x (by simp)
    have := nodup_length l (m.erase x) h2 (fun y hy => (List.mem_erase_of_ne (by rintro rfl; exact h1 hy)).2 (k y (by simp [hy])))
    rw [List.length_erase_of_mem hx] at this
    have := List.length_pos_of_mem hx
    rw [List.length_cons]; omega

theorem Arbiter.WaitGood.length {d : Arbiter} (h : d.WaitGood) : d.wait.length ≤ 7 := by
  have := nodup_length _ axes h.1 (fun x _ => (by decide : ∀ a : Axis, a ∈ axes) x)
  rw [List.length_map] at this
  exact this

/-- Placing an entry keeps the wait list in its form (R54). -/
theorem Arbiter.WaitGood.place (s : State) (j : Slot) (a : Axis) (rank : Nat) (k : MoveKind) (dir : Dir) (v : Speed) (t : Option Nat)
    (h : s.da.WaitGood) : (s.place j a rank k dir v t).da.WaitGood := by
  unfold State.place
  dsimp only
  split
  · refine h.change _ (fun e => ?_)
    split <;> exact ⟨rfl, rfl, rfl⟩
  · rename_i hn
    have hne : a ∉ s.da.wait.map WaitEntry.axis := by
      intro i
      obtain ⟨x, hx, hxa⟩ := List.mem_map.1 i
      have := List.find?_eq_none.1 hn x hx
      simp [hxa] at this
    have key : ∀ n l, (l.map WaitEntry.axis) = s.da.wait.map WaitEntry.axis →
        l.Pairwise (fun e f => e.rank < f.rank ∨ (e.rank = f.rank ∧ e.arrival < f.arrival)) → (∀ e ∈ l, e.arrival < n) → n ≤ 65535 →
        Arbiter.WaitGood { s.da with wait := insertEntry { axis := a, slot := j, rank := rank, arrival := n, bypass := 0, kind := k, dir := dir, speed := v, target := t } l, arrival := n } := by
      intro n l h1 h2 h3 h4
      refine ⟨insertEntry_nodup _ l (by rw [h1]; exact h.1) (by rw [h1]; exact hne), insertEntry_sorted _ l h2 h3, fun e he => ?_, h4⟩
      rcases (insertEntry_mem _ e l).1 he with rfl | he
      · exact Nat.le_refl _
      · exact Nat.le_of_lt (h3 e he)
    have hl := h.length
    simp only [State.emit_da]
    unfold State.nextArrival
    split
    · refine key _ _ (renumber_axes _ _) (renumber_sorted _ _ h.2.1) (fun e he => ?_) (by omega)
      have := renumber_mem _ _ e he; omega
    · refine key _ _ rfl h.2.1 (fun e he => ?_) (by omega)
      have := h.2.2.1 e he; omega

theorem State.place_but {p : Axis → Prop} (s : State) (j : Slot) (a : Axis) (rank : Nat) (k : MoveKind) (dir : Dir) (v : Speed) (t : Option Nat) :
    State.FollowsBut p ok s (s.place j a rank k dir v t) := by
  have h : ∀ u : State, u.ac = s.ac → u.validity = s.validity → u.tw = s.tw → u.lc = s.lc → u.da.grants = s.da.grants → u.da.legs = s.da.legs →
      u.da.legFault = s.da.legFault → u.jm = s.jm → u.iu = s.iu → u.sp = s.sp → u.st = s.st → u.np = s.np → u.ps = s.ps → u.pending = s.pending →
      (∀ q, Task.padEntry q ∈ u.raised → Task.padEntry q ∈ s.raised) → (s.da.WaitGood → u.da.WaitGood) → State.FollowsBut p ok s u :=
    fun u h1 h2 h3 h4 h5 h6 h7 h8 h9 h10 h11 h12 h13 h14 h16 h15 =>
      .of_rest h1 h2 h3 h4 h5 h6 h15 (.of h3 (by rw [h8]; exact .refl _) h7 h9 h10 h11 h12 h13 h14 h16)
  have hw := Arbiter.WaitGood.place s j a rank k dir v t
  revert hw
  unfold State.place
  dsimp only
  split <;> exact fun hw => h _ rfl rfl rfl rfl rfl rfl rfl rfl rfl rfl rfl rfl rfl rfl (fun q e => by simpa using e) hw

theorem State.dropEntry_but {p : Axis → Prop} (s : State) (a : Axis) : State.FollowsBut p ok s (s.dropEntry a) :=
  s.setWait_but _ (fun h => h.sub List.filter_sublist)

theorem State.heldGrant_held {s : State} {a : Axis} {g : Grant} (h : s.heldGrant a = some g) : ∀ x, s.da.grants[a] = some x → x.held = true := by
  intro x hx
  unfold State.heldGrant at h
  rw [hx] at h
  dsimp only at h
  split at h
  · assumption
  · cases h

theorem State.withdraw_but {p : Axis → Prop} (s : State) (a : Axis) {g : Grant} (h : s.heldGrant a = some g) :
    State.FollowsBut p ok s (s.withdraw a) :=
  .trans (s.setGrant_but a none (.inr ⟨rfl, State.heldGrant_held h⟩)) (State.freeLeg_but _ _)

theorem State.dropWork_but {p : Axis → Prop} (s : State) (f : WaitEntry → Bool) : State.FollowsBut p ok s (s.dropWork f) := by
  unfold State.dropWork
  split
  · exact .refl p s
  refine .trans (State.setWait_but s _ (fun h => h.sub List.filter_sublist)) (.trans (State.each_but _ _ _ (fun t a _ => ?_)) (State.emit_but _ _))
  split
  · split
    · exact State.withdraw_but _ _ ‹_›
    · exact .refl p t
  · exact .refl p t

theorem State.startMarkerWrite_but {p : Axis → Prop} (s : State) : State.FollowsBut p ok s s.startMarkerWrite := by
  unfold State.startMarkerWrite
  split
  · rename_i hw
    exact .of_rest rfl rfl rfl rfl rfl rfl id ⟨fun _ => ⟨rfl, rfl, rfl⟩, .refl _, rfl, rfl, rfl, rfl, fun e => (by rw [hw] at e; cases e), ⟨rfl, rfl, rfl⟩, fun _ => .inl rfl, fun _ => rfl, fun _ => id, rfl⟩
  · split
    · exact .refl p s
    · exact .of_rest rfl rfl rfl rfl rfl rfl id ⟨fun _ => ⟨rfl, rfl, rfl⟩, .refl _, rfl, rfl, rfl, rfl, fun _ => rfl, ⟨rfl, rfl, rfl⟩, fun _ => .inl rfl, fun _ => rfl, fun _ => id, rfl⟩

theorem State.startMarkerWrite_rest (s : State) : s.startMarkerWrite.tw = s.tw ∧ s.startMarkerWrite.lc = s.lc := by
  unfold State.startMarkerWrite
  split
  · exact ⟨rfl, rfl⟩
  · split <;> exact ⟨rfl, rfl⟩

theorem State.startMarkerWrite_ac (s : State) : s.startMarkerWrite.ac = s.ac := by
  unfold State.startMarkerWrite
  split
  · rfl
  · split <;> rfl

/-! ## Grants and the scan -/

theorem State.takeLeg_ac (s : State) (l : Option Leg) (v : Bool) : (s.takeLeg l v).ac = s.ac := by
  unfold State.takeLeg
  split
  · split <;> rfl
  · rfl

theorem State.takeLeg_rest (s : State) (l : Option Leg) (v : Bool) : (s.takeLeg l v).tw = s.tw ∧ (s.takeLeg l v).lc = s.lc := by
  unfold State.takeLeg
  split
  · split <;> exact ⟨rfl, rfl⟩
  · exact ⟨rfl, rfl⟩

theorem State.takeLeg_st (s : State) (l : Option Leg) (v : Bool) : (s.takeLeg l v).st = s.st := by
  unfold State.takeLeg
  split
  · split <;> rfl
  · rfl

theorem State.markGranted_but {p : Axis → Prop} (s : State) (j : Slot) (a : Axis) : State.FollowsBut p ok s (s.markGranted j a) :=
  s.modJob_but j _ (fun x _ => ⟨.of_scene x _ (fun sc => (by
    unfold Scene.plan
    rw [List.map_map]
    congr 2
    funext r
    dsimp only [Function.comp_def]
    split <;> rfl)), id⟩)

theorem State.markGranted_ac (s : State) (j : Slot) (a : Axis) : (s.markGranted j a).ac = s.ac := rfl

/-- An entry that meets the tests of a scan. -/
structure State.MayGrant (s : State) (e : WaitEntry) : Prop where
  terminal : s.terminalTest e = none
  wait : s.waitTest e = true

theorem State.MayGrant.idle {s : State} {e : WaitEntry} (h : s.MayGrant e) : s.ac[e.axis].motion = .idle := by
  have := h.wait
  unfold State.waitTest at this
  split at this
  · cases this
  · simp only [Bool.and_eq_true, beq_iff_eq] at this
    exact this.1.1.1.1.1

/-- What the tests of a scan say of the entry they let through (R56, R57). -/
structure State.GrantFacts (s : State) (e : WaitEntry) (c : DriveCopy) : Prop where
  drive : s.st.drive = some c
  power : s.sp.power = .active
  cond : s.sp.cond = .normal
  barred : s.barred e.axis = false
  hot : s.tw[e.axis].hot = false
  trusted : s.validity[e.axis] = .valid ∨ e.kind = .homing
  predicates : s.falsePredicate (s.rankMask e.axis e.rank) e.axis = none
  budget : s.reservedTotal + c.axis[e.axis].startRes ≤ c.bTotal
  leg : ∀ l, c.axis[e.axis].commonLeg = some l → s.legSum l + c.axis[e.axis].startRes ≤ c.lMax[l]
    ∧ ∀ v, s.da.legs[l] = some v → v = neededLevel c.axis[e.axis] e.dir
  rules : s.st.rules = none → ∀ b : Axis, s.da.grants[b] = none

theorem State.MayGrant.facts {s : State} {e : WaitEntry} (h : s.MayGrant e) : ∃ c, s.GrantFacts e c := by
  have hw := h.wait
  have ht := h.terminal
  unfold State.waitTest at hw
  unfold State.terminalTest at ht
  split at hw
  · cases hw
  · rename_i c hd
    simp only [Bool.and_eq_true, beq_iff_eq, decide_eq_true_eq] at hw
    obtain ⟨⟨⟨⟨⟨_, hb⟩, hl⟩, hp⟩, hc⟩, hr⟩ := hw
    split at ht
    · cases ht
    · split at ht
      · cases ht
      · split at ht
        · cases ht
        · split at ht
          · cases ht
          · rename_i hv
            split at ht
            · cases ht
            · refine ⟨c, hd, hp, hc, by simpa using ‹¬ _ = true›, by simpa using ‹¬ s.tw[e.axis].hot = true›, ?_, ‹_›, hb, fun l e1 => ?_, fun e1 b => ?_⟩
              · simp only [Bool.and_eq_true, bne_iff_ne, ne_eq, not_and, Decidable.not_not] at hv
                by_cases k : s.validity[e.axis] = .valid
                · exact .inl k
                · exact .inr (hv k)
              · rw [e1] at hl
                simp only [Bool.and_eq_true, decide_eq_true_eq] at hl
                refine ⟨hl.1, fun v e2 => ?_⟩
                have h3 := hl.2
                rw [e2] at h3
                simpa using h3
              · rw [e1] at hr
                simp only [Option.isSome_none, Bool.false_or, List.all_eq_true] at hr
                simpa using hr b ((by decide : ∀ a : Axis, a ∈ axes) b)

theorem State.decideEntry_grant {s : State} {e : WaitEntry} {t st tr : Option Nat} (h : s.decideEntry e = .grant t st tr) : s.waitTest e = true := by
  unfold State.decideEntry at h
  split at h
  · cases h
  · simpa using ‹¬ (!s.waitTest e) = true›

theorem State.grantEntry_but (s : State) (e : WaitEntry) (t st tr : Option Nat) :
    State.FollowsBut (fun b => b = e.axis) ok s (s.grantEntry e t st tr) := by
  unfold State.grantEntry
  split
  · exact .refl _ s
  · dsimp only
    split
    · refine .trans ?_ (State.startMarkerWrite_but _)
      refine .trans ?_ (State.takeLeg_but _ _ _)
      exact .trans (State.dropEntry_but s e.axis) (State.setGrant_but _ _ _ (.inl rfl))
    · refine .trans ?_ (State.markGranted_but _ _ _)
      refine .trans ?_ (State.startMove_but _ _ _)
      refine .trans ?_ (State.takeLeg_but _ _ _)
      exact .trans (State.dropEntry_but s e.axis) (State.setGrant_but _ _ _ (.inl rfl))

theorem State.decideRelock_da (s : State) (a : Axis) (passed : Bool) : (s.decideRelock a passed).da = s.da := by
  unfold State.decideRelock
  split
  · rfl
  · split
    · dsimp only
      cases passed <;> split <;> rfl
    · rfl

theorem State.grantLatch_da (s : State) (a : Axis) (k : MoveKind) : (s.grantLatch a k).da = s.da := by
  unfold State.grantLatch
  split
  · rfl
  · split
    · rfl
    · rfl
    · split <;> rfl

theorem State.startMove_da (s : State) (a : Axis) (g : Grant) : (s.startMove a g).da = s.da := by
  unfold State.startMove
  split
  · rfl
  · dsimp only
    split
    · rw [State.grantLatch_da]; exact State.decideRelock_da s a _
    · rw [State.modHeat_da, State.grantLatch_da]; exact State.decideRelock_da s a _

theorem State.startMarkerWrite_da (s : State) : s.startMarkerWrite.da = s.da := by
  unfold State.startMarkerWrite
  split
  · rfl
  · split <;> rfl

theorem State.decideRelock_other (s : State) (a : Axis) (passed : Bool) (b : Axis) (h : b ≠ a) : (s.decideRelock a passed).ac[b] = s.ac[b] := by
  unfold State.decideRelock
  split
  · rfl
  · split
    · dsimp only
      cases passed <;> split <;> simp only [State.emit_ac, State.modLatch_ac, State.modChan_get, Bool.false_eq_true, if_false, if_true, if_neg h]
    · rfl

theorem State.startMove_other (s : State) (a : Axis) (g : Grant) (b : Axis) (h : b ≠ a) : (s.startMove a g).ac[b] = s.ac[b] := by
  unfold State.startMove
  split
  · rfl
  · dsimp only
    split <;> simp only [State.modHeat_ac, State.grantLatch_ac, State.modChan_get, if_neg h] <;> exact State.decideRelock_other s a _ b h

theorem State.takeLeg_grants (s : State) (l : Option Leg) (v : Bool) : (s.takeLeg l v).da.grants = s.da.grants := by
  unfold State.takeLeg
  split
  · split <;> rfl
  · rfl

theorem State.takeLeg_legs (s : State) (l : Leg) (v : Bool) (h : ∀ w, s.da.legs[l] = some w → w = v) : (s.takeLeg (some l) v).da.legs[l] = some v := by
  unfold State.takeLeg
  dsimp only
  split
  · rw [State.setLeg_get, if_pos rfl]
  · rename_i hn
    cases hl : s.da.legs[l] with
    | none => rw [hl] at hn; exact absurd rfl hn
    | some w => rw [h w hl]

theorem State.grantLatch_validity (s : State) (a : Axis) (k : MoveKind) : (s.grantLatch a k).validity = s.validity := by
  unfold State.grantLatch
  split
  · rfl
  · split
    · rfl
    · rfl
    · split <;> rfl

theorem State.decideRelock_validity (s : State) (a : Axis) (passed : Bool) : (s.decideRelock a passed).validity = s.validity := by
  unfold State.decideRelock
  split
  · rfl
  · split
    · dsimp only
      cases passed <;> split <;> rfl
    · rfl

theorem State.startMove_validity (s : State) (a : Axis) (g : Grant) : (s.startMove a g).validity = s.validity := by
  unfold State.startMove
  split
  · rfl
  · dsimp only
    split <;> simp only [State.modHeat_validity, State.grantLatch_validity, State.modChan_validity, State.decideRelock_validity]

theorem State.grantEntry_validity (s : State) (e : WaitEntry) (t st tr : Option Nat) : (s.grantEntry e t st tr).validity = s.validity := by
  have hl : ∀ (u : State) l v, (u.takeLeg l v).validity = u.validity := by
    intro u l v; unfold State.takeLeg; split
    · split <;> rfl
    · rfl
  have hw : ∀ u : State, u.startMarkerWrite.validity = u.validity := by
    intro u; unfold State.startMarkerWrite; split
    · rfl
    · split <;> rfl
  unfold State.grantEntry
  split
  · rfl
  · dsimp only
    split
    · rw [hw, hl]; rfl
    · refine (State.startMove_validity _ _ _).trans ?_
      rw [hl]; rfl

/-- The grant an entry takes (R52, R53). -/
def State.newGrant (s : State) (e : WaitEntry) (d : DriveAxis) (t st tr : Option Nat) : Grant :=
  { entry := e, target := t, stop := st, travel := tr, reservation := d.startRes, commonLeg := d.commonLeg,
    ownLeg := if d.common then d.leg2 else d.leg1, secondLeg := if d.common then none else some d.leg2, held := s.sp.marker }

/-- What a grant makes of the channels and the Drive Arbiter: it is held, or it has started the move. -/
theorem State.grantEntry_spec (s : State) (e : WaitEntry) (t st tr : Option Nat) {d : DriveAxis} (hd : s.driveAxis e.axis = some d) :
    (∀ b : Axis, b ≠ e.axis → (s.grantEntry e t st tr).ac[b] = s.ac[b])
      ∧ (s.grantEntry e t st tr).da = (((s.dropEntry e.axis).setGrant e.axis (some (s.newGrant e d t st tr))).takeLeg d.commonLeg (neededLevel d e.dir)).da
      ∧ (s.grantEntry e t st tr).ac[e.axis].lockedOut = s.ac[e.axis].lockedOut
      ∧ ((s.sp.marker = true ∧ (s.grantEntry e t st tr).ac = s.ac ∧ (s.grantEntry e t st tr).tw = s.tw ∧ (s.grantEntry e t st tr).lc = s.lc)
        ∨ (s.sp.marker = false ∧ (s.grantEntry e t st tr).ac[e.axis].motion.stoppable = true ∧ ∃ m, (s.grantEntry e t st tr).ac[e.axis].move = some m ∧ m.rank = e.rank ∧ m.kind = e.kind ∧ m.dir = e.dir)) := by
  let g : Grant := s.newGrant e d t st tr
  let x := ((s.dropEntry e.axis).setGrant e.axis (some g)).takeLeg d.commonLeg (neededLevel d e.dir)
  have hx : x.ac = s.ac := State.takeLeg_ac _ _ _
  have hs : x.driveAxis e.axis = some d := by
    unfold State.driveAxis at hd ⊢; rw [← hd, show x.st = s.st from State.takeLeg_st _ _ _]
  by_cases hm : s.sp.marker = true
  · have h : s.grantEntry e t st tr = x.startMarkerWrite := by unfold State.grantEntry; rw [hd]; exact if_pos hm
    have h1 : (s.grantEntry e t st tr).ac = s.ac := by rw [h, State.startMarkerWrite_ac, hx]
    have h2 : (s.grantEntry e t st tr).da = x.da := by rw [h, State.startMarkerWrite_da]
    have h3 : x.tw = s.tw ∧ x.lc = s.lc := State.takeLeg_rest _ _ _
    rw [h1]; exact ⟨fun _ _ => rfl, h2, rfl, .inl ⟨hm, rfl, by rw [h, x.startMarkerWrite_rest.1, h3.1], by rw [h, x.startMarkerWrite_rest.2, h3.2]⟩⟩
  · have h : s.grantEntry e t st tr = (x.startMove e.axis g).markGranted e.slot e.axis := by
      unfold State.grantEntry; rw [hd]; exact if_neg hm
    have h1 : (s.grantEntry e t st tr).ac = (x.startMove e.axis g).ac := by rw [h]; rfl
    have h2 : (s.grantEntry e t st tr).da = x.da := by
      rw [h]; exact State.startMove_da x e.axis g
    obtain ⟨k1, k0, m, k2, k3⟩ := State.startMove_chan x e.axis g hs
    refine ⟨fun b hb => ?_, h2, ?_, .inr ⟨by simpa using hm, ?_, m, ?_, k3⟩⟩
    · rw [h1, State.startMove_other x e.axis g b hb, hx]
    · rw [h1, k1, hx]
    · rw [h1]; exact k0
    · rw [h1]; exact k2

theorem sum_le_add {α : Type} [DecidableEq α] (l : List α) (hl : l.Nodup) (a : α) (f g : α → Nat) (n : Nat) (h : ∀ x ∈ l, x ≠ a → f x ≤ g x)
    (k : f a ≤ n) : (l.map f).sum ≤ (l.map g).sum + n := by
  induction l with
  | nil => exact Nat.zero_le _
  | cons x l ih =>
    obtain ⟨h1, h2⟩ := List.nodup_cons.1 hl
    simp only [List.map_cons, List.sum_cons]
    by_cases e : x = a
    · subst e
      have := sum_le_of l f g (fun y hy => h y (by simp [hy]) (by rintro rfl; exact h1 hy))
      omega
    · have h3 := h x (by simp) e
      have := ih h2 (fun y hy => h y (by simp [hy]))
      omega

/-- One more grant raises the sums by its reservation at most (R52). -/
theorem State.sums_add {u t : State} {a : Axis} {g : Grant} (h : ∀ b : Axis, b ≠ a → t.da.grants[b] = u.da.grants[b]) (hg : t.da.grants[a] = some g) :
    t.reservedTotal ≤ u.reservedTotal + g.reservation ∧ ∀ l : Leg, t.legSum l ≤ u.legSum l + (if g.commonLeg = some l then g.reservation else 0) := by
  refine ⟨sum_le_add axes (by decide) a _ _ _ (fun b _ e => ?_) ?_, fun l => sum_le_add axes (by decide) a _ _ _ (fun b _ e => ?_) ?_⟩
  · exact Nat.le_of_eq (by rw [h b e])
  · exact Nat.le_of_eq (by rw [hg])
  · exact Nat.le_of_eq (by rw [h b e])
  · exact Nat.le_of_eq (by rw [hg])

/-- A grant of an entry that meets the tests: the channel is cleared for what it starts. -/
theorem State.grantEntry_follows (s : State) (e : WaitEntry) (t st tr : Option Nat) (h : s.MayGrant e) :
    State.FollowsBut noAxis ok s (s.grantEntry e t st tr) := by
  have hb := State.grantEntry_but (ok := ok) s e t st tr
  obtain ⟨c, f⟩ := h.facts
  have hd : s.driveAxis e.axis = some c.axis[e.axis] := by unfold State.driveAxis; rw [f.drive]; rfl
  obtain ⟨ho, hda, hl, hm⟩ := State.grantEntry_spec s e t st tr hd
  have r := hb.rest
  have go : ∀ b : Axis, b ≠ e.axis → (s.grantEntry e t st tr).da.grants[b] = s.da.grants[b] := by
    intro b hb; rw [hda, State.takeLeg_grants, State.setGrant_get, if_neg hb]; rfl
  have ga : (s.grantEntry e t st tr).da.grants[e.axis] = some (s.newGrant e c.axis[e.axis] t st tr) := by
    rw [hda, State.takeLeg_grants, State.setGrant_get, if_pos rfl]
  obtain ⟨s1, s2⟩ := State.sums_add go ga
  have s1' : (s.grantEntry e t st tr).reservedTotal ≤ s.reservedTotal + c.axis[e.axis].startRes := s1
  have s2' : ∀ l, (s.grantEntry e t st tr).legSum l ≤ s.legSum l + (if c.axis[e.axis].commonLeg = some l then c.axis[e.axis].startRes else 0) := s2
  have hw : ∀ d, s.st.drive = some d → State.Within s (s.grantEntry e t st tr) d := by
    intro d e1
    rw [f.drive] at e1; cases e1
    refine ⟨fun _ => Nat.le_trans s1' f.budget, fun l x => ?_⟩
    have := s2' l
    split at this
    · exact Nat.le_trans this (f.leg l ‹_›).1
    · exact Nat.le_trans this x
  have hv : (s.grantEntry e t st tr).validity = s.validity := State.grantEntry_validity s e t st tr
  refine hb.started ho h.idle ⟨f.power, f.cond, by rw [f.drive]; rfl⟩ (fun hi => ?_) (fun hs => ?_) f.rules hw (fun d e1 e2 _ g hg => ?_)
  · rcases hm with ⟨_, h1, h2, h3⟩ | ⟨_, hm, _⟩
    · exact ⟨.inl (by rw [h1]), by rw [hv], by rw [h2], fun l _ => by rw [h3]⟩
    · rw [hi] at hm; cases hm
  · rcases hm with ⟨_, hm, _⟩ | ⟨mk, _, m, hm, hr, hk, hdir⟩
    · rw [hm, h.idle] at hs; cases hs
    · refine ⟨by rw [r.sp]; exact f.power, by rw [r.sp]; exact f.cond, ?_, by rw [(r.heat _).2.1]; exact f.hot, c, m, _, by rw [r.st]; exact f.drive, hm,
        ga, mk, ?_, ?_, Nat.le_trans s1' f.budget, rfl, fun l e1 => ⟨?_, ?_⟩, fun e1 b hb => ?_⟩
      · have := f.barred
        unfold State.barred at this ⊢
        rw [hl, r.legBarred]; exact this
      · rw [hk, show (s.grantEntry e t st tr).validity = s.validity from hv]; exact f.trusted
      · rw [r.falsePredicate, r.rankMask, hr]; exact f.predicates
      · have := s2' l
        rw [if_pos e1] at this
        exact Nat.le_trans this (f.leg l e1).1
      · rw [hda, hdir, e1]
        exact State.takeLeg_legs _ _ _ (f.leg l e1).2
      · rw [go b hb]
        exact f.rules (by rw [← e1, r.st]) b
  · rw [f.drive] at e1; cases e1
    rw [ga] at hg; cases hg
    refine ⟨fun hh => ?_, fun _ => e2⟩
    rcases hm with ⟨_, hm, _⟩ | ⟨mk, _⟩
    · rw [hm]; exact h.idle
    · rw [show (s.newGrant e c.axis[e.axis] t st tr).held = s.sp.marker from rfl, mk] at hh; cases hh

theorem State.raiseBypass_but {p : Axis → Prop} (s : State) (l : List Axis) : State.FollowsBut p ok s (s.raiseBypass l) :=
  s.setWait_but _ (fun h => h.change _ (fun e => by split <;> exact ⟨rfl, rfl, rfl⟩))

theorem State.scanHeld_but {p : Axis → Prop} (s : State) : State.FollowsBut p ok s s.scanHeld := by
  refine State.each_but _ _ _ (fun t a _ => ?_)
  split
  · exact .refl p t
  · split
    · exact .trans (State.withdraw_but _ _ ‹_›) (State.emit_but _ _)
    · exact .refl p t

theorem scanWalk_but : ∀ (l : List WaitEntry) (halted : Bool) (passed : List Axis) (s : State),
    State.FollowsBut noAxis ok s (scanWalk l halted passed s)
  | [], _, _, s => .refl _ s
  | e0 :: rest, halted, passed, s => by
    unfold scanWalk
    dsimp only
    split
    · exact .trans (.trans (State.dropEntry_but _ _) (State.emit_but _ _)) (scanWalk_but rest _ _ _)
    · split
      · exact scanWalk_but rest _ _ s
      · split
        · exact scanWalk_but rest _ _ s
        · exact .trans (.trans (State.dropEntry_but _ _) (State.emit_but _ _)) (scanWalk_but rest _ _ _)
        · rename_i hg
          exact .trans (.trans (State.grantEntry_follows s _ _ _ _ ⟨‹_›, State.decideEntry_grant hg⟩) (State.raiseBypass_but _ _))
            (scanWalk_but rest _ _ _)

/-- A scan starts only channels that are cleared for it (R55 to R57). -/
theorem State.scan_but (s : State) : State.FollowsBut noAxis ok s s.scan :=
  .trans (State.scanHeld_but s) (scanWalk_but _ _ _ _)

end Machine
end Sys2Proof
end

