-- ==== Sys2Proof/Laws/Work.lean ====
section
/-! SUPPORT. What the work raised in an event can do, in the terms of State.Follows: the Job Manager, the sequencers, the pads, and the end of every
event. -/

namespace Sys2Proof
namespace Machine

variable {ok : Pad → Prop}

/-! ## The Job Manager -/

/-- A change of the scene that keeps its arrangement (R113, R115). -/
theorem State.modScene_but {p : Axis → Prop} (s : State) (j : Slot) (f : Scene → Scene) (h : ∀ sc : Scene, (f sc).plan = sc.plan) :
    State.FollowsBut p ok s (s.modScene j f) :=
  s.modJob_but j _ (fun x _ => ⟨.of_scene x f h, id⟩)

theorem rows_plan (l : List Row) (f : Row → Row) (h : ∀ r, (f r).plan = r.plan) : (l.map f).map Row.plan = l.map Row.plan := by
  rw [List.map_map]; congr 1; funext r; exact h r

theorem Scene.modRow_plan (sc : Scene) (a : Axis) (f : Row → Row) (h : ∀ r, (f r).plan = r.plan) : (sc.modRow a f).plan = sc.plan := by
  unfold Scene.plan Scene.modRow
  dsimp only
  rw [rows_plan _ _ (fun r => by split; exact h r; rfl)]

theorem State.modRow_but {p : Axis → Prop} (s : State) (j : Slot) (a : Axis) (f : Row → Row) (h : ∀ r, (f r).plan = r.plan) :
    State.FollowsBut p ok s (s.modRow j a f) :=
  s.modScene_but j _ (fun sc => sc.modRow_plan a f h)

theorem State.modHoming_but {p : Axis → Prop} (s : State) (j : Slot) (f : Homing → Homing) (h : ∀ y : Homing, (f y).list <:+ y.list) :
    State.FollowsBut p ok s (s.modHoming j f) :=
  s.modJob_but j _ (fun x _ => ⟨.of_homing x f h, id⟩)

theorem State.overHoming_but {p : Axis → Prop} (s : State) (j : Slot) : State.FollowsBut p ok s (s.overHoming j) :=
  s.modHoming_but j _ (fun _ => List.suffix_refl _)

theorem State.finishWork_but {p : Axis → Prop} (s : State) (j : Slot) : State.FollowsBut p ok s (s.finishWork j) := by
  unfold State.finishWork
  refine .trans (State.modJob_but s j _ (fun x _ => ?_)) (State.emit_but _ _)
  split
  · exact ⟨.refl x, id⟩
  · exact ⟨⟨⟨rfl, rfl, rfl, rfl, rfl, rfl, rfl⟩, fun _ => ⟨rfl, rfl, rfl⟩, fun _ e => (by cases e), fun h => absurd h ‹_›, rfl, fun h e => ⟨h, e, List.suffix_refl _⟩⟩, fun e => (by cases e)⟩

theorem State.eachStop_but {α : Type} (s : State) (l : List α) (g : α → Axis) (c : Code) (pr : Option Nat) :
    State.FollowsBut noAxis ok s (s.each l (fun t a => t.stopAxis (g a) c pr)) :=
  State.each_but _ _ _ (fun t a _ => State.stopAxis_but t (g a) c pr)

theorem State.abortScene_but (s : State) (j : Slot) : State.FollowsBut noAxis ok s (s.abortScene j) := by
  unfold State.abortScene
  split
  · exact .refl _ s
  · dsimp only
    have h1 := (State.modScene_but (p := noAxis) (ok := ok) s j (fun sc => { sc with rows := sc.rows.map Row.abort })
      (fun sc => by unfold Scene.plan; rw [rows_plan _ _ (fun r => by unfold Row.abort; split <;> rfl)])).trans (State.overHoming_but _ j)
    have h2 := h1.trans (State.dropWork_but _ (fun e => e.slot == j && !e.obstructed))
    have h3 := fun l : List Axis => h2.trans (State.eachStop_but _ l id .stopped none)
    split
    · split
      · exact (h3 _).trans (State.finishWork_but _ _)
      · exact h3 _
    · exact (h3 _).trans (State.finishWork_but _ _)

theorem State.endHoming_but (s : State) (j : Slot) : State.FollowsBut noAxis ok s (s.endHoming j) := by
  unfold State.endHoming
  refine .trans ?_ (State.finishWork_but _ _)
  refine .trans ?_ (State.dropWork_but _ _)
  exact State.overHoming_but _ _

/-- A decisive outcome: the first one stays, and a job that has none takes it (R103). -/
theorem State.takeOutcome_but (s : State) (j : Slot) (c : Code) (f : Option Axis) (n : Option Nat) :
    State.FollowsBut noAxis ok s (s.takeOutcome j c f n) := by
  unfold State.takeOutcome
  split
  · exact .refl _ s
  · rename_i x hx
    split
    · exact .refl _ s
    · rename_i hn
      have hd : ¬ x.state = .done := fun e => hn (.inl e)
      have ho : ¬ x.outcome.isSome = true := fun e => hn (.inr e)
      have h1 : State.FollowsBut noAxis ok s (s.modJob j (fun y => { y with outcome := some c, failing := f, aux := n })) := by
        refine State.modJob_but s j _ (fun y hy => ?_)
        rw [hx] at hy; cases hy
        exact ⟨⟨⟨rfl, rfl, rfl, rfl, rfl, rfl, rfl⟩, fun e => absurd e ho, id, fun e => absurd e hd, rfl, fun h e => ⟨h, e, List.suffix_refl _⟩⟩, id⟩
      dsimp only
      split
      · split
        · exact h1.trans (State.abortScene_but _ _)
        · exact h1.trans (State.endHoming_but _ _)
        · exact h1
      · exact h1

theorem State.haltJob_but (s : State) (j : Slot) (c : Code) (o : Option Code) : State.FollowsBut noAxis ok s (s.haltJob j c o) := by
  unfold State.haltJob
  split
  · exact .refl _ s
  · rename_i x hx
    split
    · exact .refl _ s
    · rename_i hn
      dsimp only
      refine .trans ?_ (State.emit_but _ _)
      refine .trans ?_ (State.eachStop_but _ _ id c none)
      refine .trans ?_ (State.dropWork_but _ _)
      refine .trans ?_ (State.overHoming_but _ _)
      refine State.modJob_but s j _ (fun y hy => ?_)
      rw [hx] at hy; cases hy
      refine ⟨⟨⟨rfl, rfl, rfl, rfl, rfl, rfl, rfl⟩, fun e => ⟨?_, rfl, rfl⟩, fun _ e => (by cases e), fun e => ?_, ?_, fun h e => ⟨h, e, List.suffix_refl _⟩⟩,
        fun e => (by cases e)⟩
      · obtain ⟨v, hv⟩ := Option.isSome_iff_exists.1 e
        simp [hv]
      · have h1 : x.state = .active := by simpa using hn
        rw [h1] at e; cases e
      · show (x.scene.map (s.stopScene j)).map Scene.plan = _
        rw [Option.map_map]
        congr 1
        funext sc
        unfold State.stopScene
        dsimp only [Function.comp_def, Scene.plan]
        rw [rows_plan _ _ (fun r => by
          unfold State.stopRow
          split
          · split <;> rfl
          · unfold Row.abort; split <;> rfl)]

/-- A channel's move has no owner any more (R110, R112). -/
theorem State.releaseAxes_but (s : State) (j : Slot) : State.FollowsBut noAxis ok s (s.releaseAxes j) := by
  have key : ∀ a : Axis, s.ac[a].SameMove (s.releaseAxes j).ac[a] := by
    intro a
    have e : (s.releaseAxes j).ac[a] =
        { s.ac[a] with move := s.ac[a].move.map (fun m => if m.job = some j then { m with job := none } else m) } := by
      unfold State.releaseAxes
      simp only [Fin.getElem_fin, Vector.getElem_map]
    rw [e]
    cases hm : s.ac[a].move with
    | none => exact .inl (by rw [show s.ac[a] = { s.ac[a] with move := none } from by rw [← hm]]; rfl)
    | some m =>
      by_cases hj : m.job = some j
      · refine .inr ?_
        rw [hm]; simp [hj]
      · refine .inl ?_
        simp only [Option.map_some, if_neg hj]
        rw [← hm]
  refine ⟨fun a => ?_, fun a _ _ => .inl (key a), fun _ a h1 h2 => ?_, fun a _ _ _ => key a,
    fun a _ h1 h2 => absurd h1 (by rw [← (key a).motion]; exact h2), fun b _ _ => .refl s b, fun _ _ _ => .inl rfl,
    fun _ _ _ _ g e _ => ⟨e, fun _ _ _ e => e, fun _ _ _ _ e => e⟩, fun _ _ _ => ⟨id, fun _ => id⟩, fun b _ d _ _ hu g e => ?_, id,
    .of rfl (.refl _) rfl rfl rfl rfl rfl rfl rfl⟩
  · rcases key a with e | e <;> rw [e]
    · exact .refl _
    · exact ⟨rfl, ⟨rfl, rfl⟩, ⟨rfl, rfl, rfl⟩, id, id, id⟩
  · rw [(key a).motion, h1] at h2; cases h2
  · rw [(key b).motion]; exact hu g e

theorem State.setLastPad_but {p : Axis → Prop} (s : State) (q : Pad) (c : Option Code) (h : ok q) : State.FollowsBut p ok s (s.setLastPad q c) :=
  s.jm_but (.padLast s.jm q c h)

theorem State.doneRecord_follows (s : State) (x : Job) (hd : x.state ≠ .done) : x.Follows (s.doneRecord x) := by
  refine ⟨⟨rfl, rfl, rfl, rfl, rfl, rfl, rfl⟩, fun e => ⟨?_, rfl, rfl⟩, fun _ e => (by cases e), fun e => absurd e hd, rfl, fun h e => ⟨h, e, List.suffix_refl _⟩⟩
  obtain ⟨v, hv⟩ := Option.isSome_iff_exists.1 e
  simp [State.doneRecord, hv]

theorem State.completeJob_but (s : State) (j : Slot) (x : Job) (hx : s.jm.slots[j] = some x) (hd : x.state ≠ .done) :
    State.FollowsBut noAxis ok s (s.completeJob j x) :=
  (State.releaseAxes_but s j).trans (State.jm_but (s.releaseAxes j) (.complete s.jm j x (s.doneRecord x) hx hd (s.doneRecord_follows x hd) rfl rfl))

theorem State.doneCheck_but (s : State) (j : Slot) : State.FollowsBut noAxis ok s (s.doneCheck j) := by
  unfold State.doneCheck
  split
  · rename_i x hx
    split
    · rename_i hr
      refine State.completeJob_but s j x hx ?_
      unfold State.doneReady at hr
      simp only [Bool.and_eq_true, bne_iff_ne, ne_eq] at hr
      exact hr.1.1.1.1
    · exact .refl _ s
  · exact .refl _ s

/-- A pad's job taken into its FREE slot. -/
theorem State.takeSlot_but {p : Axis → Prop} (s : State) (q : Pad) (x : Job) (h : ok q) (hf : s.jm.slots[padSlot q] = none) (ha : x.state = .active)
    (hs : x.source = .pad q) (hc : ∀ a : Axis, AxisSet.has x.claimed a = true → s.jm.claims[a] = none) :
    State.FollowsBut p ok s (s.takeSlot (padSlot q) x) :=
  .of_rest rfl rfl rfl rfl rfl rfl id ⟨fun _ => ⟨rfl, rfl, rfl⟩, .padTake s.jm q x h hf ha hs hc, rfl, rfl, rfl, rfl, fun _ => rfl,
    ⟨rfl, rfl, rfl⟩, fun _ => .inl rfl, fun _ => rfl, fun _ => id, rfl⟩

/-! ## The sequencers -/

theorem State.placeRow_but {p : Axis → Prop} (s : State) (j : Slot) (r : Row) : State.FollowsBut p ok s (s.placeRow j r) := by
  unfold State.placeRow
  dsimp only
  split
  · exact .trans (State.modRow_but _ _ _ _ (by intro _; rfl)) (State.place_but _ _ _ _ _ _ _ _)
  · split
    · exact .trans (State.modRow_but _ _ _ _ (by intro _; rfl)) (State.place_but _ _ _ _ _ _ _ _)
    · exact .trans (.trans (State.modRow_but _ _ _ _ (by intro _; rfl)) (State.coin_but _)) (State.place_but _ _ _ _ _ _ _ _)

theorem State.failRow_but (s : State) (j : Slot) (a : Axis) (c : Code) (n : Option Nat) : State.FollowsBut noAxis ok s (s.failRow j a c n) :=
  .trans (State.modRow_but s j a _ (by intro _; rfl)) (State.takeOutcome_but _ _ _ _ _)

theorem State.deferRow_but {p : Axis → Prop} (s : State) (j : Slot) (a : Axis) : State.FollowsBut p ok s (s.deferRow j a) := s.modRow_but j a _ (by intro _; rfl)

theorem State.startNextPhase_but {p : Axis → Prop} (s : State) (j : Slot) : State.FollowsBut p ok s (s.startNextPhase j) := by
  unfold State.startNextPhase
  split
  · exact .refl p s
  · split
    · exact State.finishWork_but _ _
    · exact .trans (State.modScene_but _ _ _ (by intro _; rfl)) (State.emit_but _ _)

theorem State.startRow_but (s : State) (j : Slot) (r : Row) : State.FollowsBut noAxis ok s (s.startRow j r) := by
  unfold State.startRow
  split
  · exact State.failRow_but _ _ _ _ _
  · split
    · exact State.modRow_but _ _ _ _ (by intro _; rfl)
    · split
      · exact State.placeRow_but _ _ _
      · exact State.deferRow_but _ _ _

theorem State.walkPhase_but (s : State) (j : Slot) (l : List Axis) : State.FollowsBut noAxis ok s (s.walkPhase j l) := by
  unfold State.walkPhase
  split
  · exact .refl _ s
  · split
    · exact State.emit_but _ _
    · split
      · exact .trans (State.startRow_but _ _ _) (State.emit_but _ _)
      · exact State.emit_but _ _

theorem State.phaseCheck_but (s : State) (j : Slot) : State.FollowsBut noAxis ok s (s.phaseCheck j) := by
  unfold State.phaseCheck
  split
  · exact .refl _ s
  · split
    · exact .refl _ s
    · split
      · exact State.startNextPhase_but _ _
      · exact .refl _ s

theorem State.blockedTest_but (s : State) (j : Slot) : State.FollowsBut noAxis ok s (s.blockedTest j) := by
  unfold State.blockedTest
  split
  · exact .refl _ s
  · split
    · exact .refl _ s
    · split
      · exact .refl _ s
      · split
        · exact State.takeOutcome_but _ _ _ _ _
        · exact .refl _ s

theorem State.retestRow_but (s : State) (j : Slot) (r : Row) : State.FollowsBut noAxis ok s (s.retestRow j r) := by
  unfold State.retestRow
  split
  · exact .refl _ s
  · split
    · exact State.failRow_but _ _ _ _ _
    · split
      · exact State.placeRow_but _ _ _
      · exact .refl _ s

theorem State.retestWalk_but (s : State) (j : Slot) (l : List Axis) : State.FollowsBut noAxis ok s (s.retestWalk j l) := by
  unfold State.retestWalk
  split
  · exact .refl _ s
  · split
    · exact State.emit_but _ _
    · split
      · exact .trans (State.retestRow_but _ _ _) (State.emit_but _ _)
      · exact State.emit_but _ _

theorem State.retest_but {p : Axis → Prop} (s : State) : State.FollowsBut p ok s s.retest :=
  .trans (State.shuffled_but _ _) (State.emit_but _ _)

theorem State.backOffRow_but {p : Axis → Prop} (s : State) (j : Slot) (a : Axis) (n : Nat) : State.FollowsBut p ok s (s.backOffRow j a n) :=
  .trans (State.modScene_but _ _ _ (by intro sc; exact sc.modRow_plan a _ (fun _ => rfl))) (State.place_but _ _ _ _ _ _ _ _)

theorem State.backOffEnded_but {p : Axis → Prop} (s : State) (j : Slot) (a : Axis) : State.FollowsBut p ok s (s.backOffEnded j a) := by
  unfold State.backOffEnded
  dsimp only
  split
  · split
    · exact .trans (State.modScene_but _ _ _ (by intro sc; exact sc.modRow_plan a _ (fun _ => rfl))) (State.finishWork_but _ _)
    · exact State.modScene_but _ _ _ (by intro sc; exact sc.modRow_plan a _ (fun _ => rfl))
  · exact State.modScene_but _ _ _ (by intro sc; exact sc.modRow_plan a _ (fun _ => rfl))

theorem State.resumeRow_but (s : State) (j : Slot) (r : Row) : State.FollowsBut noAxis ok s (s.resumeRow j r) := by
  unfold State.resumeRow
  split
  · exact .refl _ s
  · split
    · exact State.failRow_but _ _ _ _ _
    · split
      · exact .trans (State.modRow_but _ _ _ _ (by intro _; rfl)) (State.emit_but _ _)
      · exact State.placeRow_but _ _ _

theorem State.resumeWalk_but (s : State) (j : Slot) (l : List Axis) : State.FollowsBut noAxis ok s (s.resumeWalk j l) := by
  unfold State.resumeWalk
  split
  · exact .refl _ s
  · split
    · exact .refl _ s
    · split
      · exact .trans (State.resumeRow_but _ _ _) (State.emit_but _ _)
      · exact State.emit_but _ _

theorem State.expireRows_but (s : State) (j : Slot) : State.FollowsBut noAxis ok s (s.expireRows j) :=
  .trans (State.modScene_but _ _ _ (by intro sc; unfold Scene.plan; rw [rows_plan _ _ (fun r => by split <;> rfl)])) (State.takeOutcome_but _ _ _ _ _)

theorem State.sceneEnd_but (s : State) (j : Slot) (x : Job) (e : MoveEnd) : State.FollowsBut noAxis ok s (s.sceneEnd j x e) := by
  unfold State.sceneEnd
  dsimp only
  have h1 : State.FollowsBut noAxis ok s (s.modRow j e.axis (fun r => { r with lastEnd := some e.code, lastPos := some e.position, onTarget := some e.onTarget })) :=
    State.modRow_but _ _ _ _ (by intro _; rfl)
  generalize hs1 : s.modRow j e.axis (fun r => { r with lastEnd := some e.code, lastPos := some e.position, onTarget := some e.onTarget }) = s1 at h1 ⊢
  have h2 : ∀ b : Bool, State.FollowsBut noAxis ok s (if b then s1 else s1.modRow j e.axis (fun r => r.enter .ended)) := by
    intro b
    split
    · exact h1
    · exact h1.trans (State.modRow_but _ _ _ _ (by intro _; rfl))
  split
  · exact (h2 _).trans (State.emit_but _ _)
  · exact h2 _
  · split
    · exact h1.trans (.trans (State.backOffRow_but _ _ _ _) (State.takeOutcome_but _ _ _ _ _))
    · exact (h2 _).trans (State.takeOutcome_but _ _ _ _ _)
  · split
    · have h3 := h1.trans (State.modRow_but s1 j e.axis (fun r => r.enter .paused) (by intro _; rfl))
      split
      · exact h3
      · exact h3.trans (State.emit_but _ _)
      · exact h3.trans (State.expireRows_but _ _)
    · exact h2 _
  · exact (h2 _).trans (State.takeOutcome_but _ _ _ _ _)

theorem State.placeDrive_but {p : Axis → Prop} (s : State) (j : Slot) (a : Axis) : State.FollowsBut p ok s (s.placeDrive j a) :=
  .trans (State.modHoming_but _ _ _ (by intro _; exact List.suffix_refl _)) (State.place_but _ _ _ _ _ _ _ _)

theorem State.placeHomingBackOff_but {p : Axis → Prop} (s : State) (j : Slot) (a : Axis) (t : Nat) :
    State.FollowsBut p ok s (s.placeHomingBackOff j a t) :=
  .trans (State.modHoming_but _ _ _ (by intro _; exact List.suffix_refl _)) (State.place_but _ _ _ _ _ _ _ _)

theorem State.homeNext_but (s : State) (j : Slot) : State.FollowsBut noAxis ok s (s.homeNext j) := by
  unfold State.homeNext
  split
  · exact .refl _ s
  · split
    · exact .refl _ s
    · split
      · exact State.placeDrive_but _ _ _
      · split
        · exact State.startNextPhase_but _ _
        · exact State.finishWork_but _ _

theorem State.axisHomed_but {p : Axis → Prop} (s : State) (j : Slot) : State.FollowsBut p ok s (s.axisHomed j) :=
  .trans (State.modHoming_but _ _ _ (by intro _; exact List.drop_suffix _ _)) (State.emit_but _ _)

theorem State.resumeHoming_but (s : State) (j : Slot) : State.FollowsBut noAxis ok s (s.resumeHoming j) := by
  unfold State.resumeHoming
  split
  · exact .refl _ s
  · split
    · exact .refl _ s
    · split
      · exact State.placeDrive_but _ _ _
      · exact State.placeHomingBackOff_but _ _ _ _
      · exact .refl _ s

theorem State.expireHoming_but (s : State) (j : Slot) (a : Axis) : State.FollowsBut noAxis ok s (s.expireHoming j a) :=
  .trans (State.overHoming_but _ _) (State.takeOutcome_but _ _ _ _ _)

theorem State.pauseHoming_but (s : State) (j : Slot) (a : Axis) (g : HomingStage) (pe : Option PauseEnd) :
    State.FollowsBut noAxis ok s (s.pauseHoming j a g pe) := by
  unfold State.pauseHoming
  dsimp only
  split
  · exact State.modHoming_but _ _ _ (by intro _; exact List.suffix_refl _)
  · exact .trans (State.modHoming_but _ _ _ (by intro _; exact List.suffix_refl _)) (State.emit_but _ _)
  · exact .trans (State.modHoming_but _ _ _ (by intro _; exact List.suffix_refl _)) (State.expireHoming_but _ _ _)

theorem State.homingOutcome_but (s : State) (j : Slot) (e : MoveEnd) : State.FollowsBut noAxis ok s (s.homingOutcome j e) := by
  unfold State.homingOutcome
  split
  · exact .refl _ s
  · exact .refl _ s
  · exact .refl _ s
  · exact .trans (State.overHoming_but _ _) (State.takeOutcome_but _ _ _ _ _)

theorem State.homingEnd_but (s : State) (j : Slot) (h : Homing) (e : MoveEnd) : State.FollowsBut noAxis ok s (s.homingEnd j h e) := by
  unfold State.homingEnd
  have h1 : State.FollowsBut noAxis ok s (if e.kind = .homing ∧ e.code = .done then
      s.modHoming j (fun y => { y with madeValid := y.madeValid ||| AxisSet.one e.axis }) else s) := by
    split
    · exact State.modHoming_but _ _ _ (by intro _; exact List.suffix_refl _)
    · exact .refl _ s
  generalize (if e.kind = .homing ∧ e.code = .done then
      s.modHoming j (fun y => { y with madeValid := y.madeValid ||| AxisSet.one e.axis }) else s) = s1 at h1 ⊢
  refine h1.trans ?_
  dsimp only
  split
  · exact State.homingOutcome_but _ _ _
  · split
    · exact State.placeHomingBackOff_but _ _ _ _
    · exact State.pauseHoming_but _ _ _ _ _
    · exact State.overHoming_but _ _
    · exact State.axisHomed_but _ _
    · exact State.pauseHoming_but _ _ _ _ _
    · exact State.overHoming_but _ _
    · exact State.homingOutcome_but _ _ _

theorem State.holdEnd_but (s : State) (j : Slot) (e : MoveEnd) : State.FollowsBut noAxis ok s (s.holdEnd j e) := by
  unfold State.holdEnd
  split
  · exact State.finishWork_but _ _
  · refine .trans ?_ (State.finishWork_but _ _)
    refine .trans (State.takeOutcome_but s j .supplyFault (some e.axis) none) (State.modJob_but _ j _ (fun x _ => ?_))
    exact ⟨⟨⟨rfl, rfl, rfl, rfl, rfl, rfl, rfl⟩, fun _ => ⟨rfl, rfl, rfl⟩, id, fun h => ⟨h, rfl, rfl, rfl⟩, rfl, fun h e => ⟨h, e, List.suffix_refl _⟩⟩, id⟩
  · exact .trans (State.takeOutcome_but _ _ _ _ _) (State.finishWork_but _ _)

theorem State.takeMoveEnd_but (s : State) (e : MoveEnd) : State.FollowsBut noAxis ok s (s.takeMoveEnd e) := by
  unfold State.takeMoveEnd
  split
  · exact .refl _ s
  · rename_i x _
    split
    · exact .refl _ s
    · dsimp only
      refine .trans ?_ (State.emit_but _ _)
      split
      · exact State.holdEnd_but _ _ _
      · exact State.sceneEnd_but _ _ _ _
      · have h : ∀ b : Bool, State.FollowsBut noAxis ok s (if b then s.backOffEnded e.slot e.axis
            else match x.homing with | some h => s.homingEnd e.slot h e | none => s) := by
          intro b
          split
          · exact State.backOffEnded_but _ _ _
          · split
            · exact State.homingEnd_but _ _ _ _
            · exact .refl _ s
        exact h _
      · split
        · exact State.homingEnd_but _ _ _ _
        · exact .refl _ s

theorem State.takeRemoved_but (s : State) (e : WaitEntry) (why : Removal) : State.FollowsBut noAxis ok s (s.takeRemoved e why) := by
  unfold State.takeRemoved
  split
  · exact .refl _ s
  · dsimp only
    refine .trans ?_ (State.emit_but _ _)
    have ho : ∀ c n, State.FollowsBut noAxis ok s ((s.overHoming e.slot).takeOutcome e.slot c (some e.axis) n) := fun c n =>
      .trans (State.overHoming_but _ _) (State.takeOutcome_but _ _ _ _ _)
    split
    · split
      · exact State.backOffEnded_but _ _ _
      · exact ho _ _
    · split
      · exact State.backOffEnded_but _ _ _
      · exact State.axisHomed_but _ _
    · exact .trans (State.takeOutcome_but _ _ _ _ _) (State.finishWork_but _ _)
    · exact .trans (State.takeOutcome_but _ _ _ _ _) (State.finishWork_but _ _)
    · split
      · exact State.failRow_but _ _ _ _ _
      · exact .refl _ s
    · split
      · exact .trans (State.deferRow_but _ _ _) (State.emit_but _ _)
      · exact .refl _ s
    · exact ho _ _
    · exact .refl _ s

theorem State.relockFails_but (s : State) (a : Axis) (j : Slot) : State.FollowsBut noAxis ok s (s.relockFails a j) := by
  unfold State.relockFails
  split
  · split
    · exact .trans (State.modRow_but _ _ _ _ (by intro r; unfold Row.relockFailed; split <;> rfl)) (State.takeOutcome_but _ _ _ _ _)
    · exact .refl _ s
  · exact .refl _ s

theorem State.takeRelock_but (s : State) (a : Axis) (j : Slot) (b : Bool) : State.FollowsBut noAxis ok s (s.takeRelock a j b) := by
  unfold State.takeRelock
  refine .trans ?_ (State.emit_but _ _)
  split
  · exact State.emit_but _ _
  · exact State.relockFails_but _ _ _

/-! ## The pads -/

theorem State.slotForPad_ok {s : State} {q : Pad} {j : Slot} (h : s.slotForPad q = .ok j) : j = padSlot q ∧ s.jm.slots[padSlot q] = none := by
  unfold State.slotForPad at h
  split at h
  · cases h
  · rename_i hb
    cases h
    refine ⟨rfl, ?_⟩
    unfold State.slotBusy at hb
    cases hx : s.jm.slots[padSlot q] with
    | none => rfl
    | some x => rw [hx] at hb; exact absurd rfl hb

/-- An accepted hold claims a free axis (R99). -/
theorem State.holdCheck_free {s : State} {a : Axis} {d : Dir} (h : s.holdCheck a d = none) : s.jm.claims[a] = none := by
  unfold State.holdCheck at h
  split at h
  · cases h
  · assumption

theorem AxisSet.has_one {a b : Axis} (h : AxisSet.has (AxisSet.one a) b = true) : b = a := by revert a b; decide

theorem AxisSet.mem_list {m : AxisSet} {a : Axis} (h : AxisSet.has m a = true) : a ∈ AxisSet.list m := by
  unfold AxisSet.list
  exact List.mem_filter.2 ⟨(by decide : ∀ a : Axis, a ∈ axes) a, h⟩

theorem State.claimedCheck_free {s : State} {m : AxisSet} (h : s.claimedCheck m = none) (a : Axis) (ha : AxisSet.has m a = true) : s.jm.claims[a] = none := by
  unfold State.claimedCheck at h
  rw [Option.map_eq_none_iff] at h
  have := List.find?_eq_none.1 h a (AxisSet.mem_list ha)
  simpa using this

/-- An accepted run claims free axes (R114, R115). -/
theorem State.runCheck_free {s : State} {b : Bool} {n : Nat} {x : Arrangement} (h : s.runCheck b n = .ok x) (a : Axis)
    (ha : AxisSet.has (s.claimSet x) a = true) : s.jm.claims[a] = none := by
  unfold State.runCheck at h
  split at h
  · cases h
  · split at h
    · cases h
    · split at h
      · cases h
      · dsimp only at h
        split at h
        · cases h
        · rename_i hn
          cases h
          refine State.claimedCheck_free ?_ a ha
          cases hc : s.claimedCheck (s.claimSet x) with
          | none => rfl
          | some e => rw [hc] at hn; simp at hn

theorem State.padHold_but (s : State) (q : Pad) (b : Button) (a : Axis) (d : Dir) (h : ok q) : State.FollowsBut noAxis ok s (s.padHold q b a d) := by
  unfold State.padHold
  split
  · exact State.setLastPad_but _ _ _ h
  · split
    · exact State.setLastPad_but _ _ _ h
    · rename_i hc
      split
      · exact State.setLastPad_but _ _ _ h
      · rename_i hj
        obtain ⟨rfl, h2⟩ := State.slotForPad_ok hj
        refine .trans (State.takeSlot_but s q _ h h2 rfl rfl (fun b hb => ?_)) (State.place_but _ _ _ _ _ _ _ _)
        rw [AxisSet.has_one hb]; exact State.holdCheck_free hc

theorem State.padAccess_but (s : State) (q : Pad) (h : ok q) : State.FollowsBut noAxis ok s (s.padAccess q) := by
  unfold State.padAccess
  split
  · exact State.setLastPad_but _ _ _ h
  · split
    · exact State.setLastPad_but _ _ _ h
    · rename_i hc
      split
      · exact State.setLastPad_but _ _ _ h
      · rename_i hj
        obtain ⟨rfl, h2⟩ := State.slotForPad_ok hj
        unfold State.acceptRun
        dsimp only
        split
        · exact .trans (State.takeSlot_but s q _ h h2 rfl rfl (State.runCheck_free hc)) (State.startNextPhase_but _ _)
        · exact .trans (State.takeSlot_but s q _ h h2 rfl rfl (State.runCheck_free hc)) (State.emit_but _ _)

theorem State.stopJob_but (s : State) (j : Slot) : State.FollowsBut noAxis ok s (s.stopJob j) := State.haltJob_but s j _ _

theorem State.countPress_but (s : State) (q : Pad) (b : Button) (h : ok q) : State.FollowsBut noAxis ok s (s.countPress q b) := by
  unfold State.countPress
  split
  · exact State.each_but _ _ _ (fun t j _ => State.stopJob_but t j)
  · split
    · exact State.padHold_but _ _ _ _ _ h
    · exact State.padAccess_but _ _ h

theorem State.modPad_get (s : State) (p q : Pad) (f : PadState → PadState) :
    (s.modPad q f).ps[padNo p] = if p = q then f s.ps[padNo q] else s.ps[padNo p] := by
  cases p <;> cases q <;> simp [State.modPad, padNo]

theorem State.modPad_but {p : Axis → Prop} (s : State) (q : Pad) (f : PadState → PadState) (h : (f s.ps[padNo q]).pressed = s.ps[padNo q].pressed)
    (hc : ok q ∧ s.ps[padNo q].cond = .free ∧ (f s.ps[padNo q]).cond ≠ .free) : State.FollowsBut p ok s (s.modPad q f) := by
  refine .of_rest rfl rfl rfl rfl rfl rfl id ⟨fun _ => ⟨rfl, rfl, rfl⟩, .refl _, rfl, rfl, rfl, rfl, fun _ => rfl, ⟨rfl, rfl, rfl⟩, fun r => ?_, fun r => ?_, fun _ => id, rfl⟩
  · rw [State.modPad_get]; split
    · subst r; exact .inr hc
    · exact .inl rfl
  · rw [State.modPad_get]; split
    · subst r; exact h
    · rfl

/-- At ACTIVE entry a press reaches a FREE pad alone, which is FREE no more (R179). -/
theorem State.padEntry_but (s : State) (q : Pad) (h : ok q) : State.FollowsBut noAxis ok s (s.padEntry q) := by
  unfold State.padEntry
  split
  · rename_i hc hp
    exact .trans (State.modPad_but _ _ _ rfl ⟨h, hc, by simp⟩) (State.countPress_but _ _ _ h)
  · exact .refl _ s

/-! ## The end of every event -/

/-- Each piece of work raised in an event keeps to State.Follows; a press reaches the pad whose entry it is alone. -/
theorem State.runTask_but (s : State) (t : Task) (h : ∀ q, t = .padEntry q → ok q) : State.FollowsBut noAxis ok s (s.runTask t) := by
  cases t with
  | scan => exact State.scan_but s
  | moveEnd e => exact State.takeMoveEnd_but s e
  | removed e why => exact State.takeRemoved_but s e why
  | relock a j b => exact State.takeRelock_but s a j b
  | retest => exact State.retest_but s
  | retestRows j l => exact State.retestWalk_but s j l
  | phaseRows j l => exact State.walkPhase_but s j l
  | phaseCheck j => exact State.phaseCheck_but s j
  | blockedTest j => exact State.blockedTest_but s j
  | homeNext j => exact State.homeNext_but s j
  | resumeRows j l => exact State.resumeWalk_but s j l
  | resumeHoming j => exact State.resumeHoming_but s j
  | doneCheck j => exact State.doneCheck_but s j
  | padEntry q => exact State.padEntry_but s q (h q rfl)

theorem State.settleOnce_but (s : State) (t : Task) (rest : List Task) (hr : s.raised = t :: rest) (h : ∀ q, Task.padEntry q ∈ s.raised → ok q) :
    State.FollowsBut noAxis ok s (s.settleOnce t rest) := by
  have hrest : ∀ q, Task.padEntry q ∈ rest → Task.padEntry q ∈ s.raised := fun q e => by rw [hr]; exact List.mem_cons_of_mem _ e
  by_cases hw : t.waitsFor rest = true
  · unfold State.settleOnce
    rw [if_pos hw]
    exact State.FollowsBut.raised (.refl noAxis s) rest hrest
  · have e : s.settleOnce t rest = { ({ s with raised := [] }).runTask t with raised := (({ s with raised := [] }).runTask t).raised ++ rest } := if_neg hw
    rw [e]
    have h1 : State.FollowsBut noAxis ok s { s with raised := [] } := State.FollowsBut.raised (.refl noAxis s) [] (fun _ e => by cases e)
    have h2 : State.FollowsBut noAxis ok { s with raised := [] } (({ s with raised := [] } : State).runTask t) :=
      State.runTask_but _ t (fun q e => h q (by rw [hr, e]; exact List.mem_cons_self))
    refine (h1.trans h2).raised _ (fun q e => ?_)
    rcases List.mem_append.1 e with e | e
    · have := h2.rest.entries q e; cases this
    · exact hrest q e

theorem settle_but : ∀ (n : Nat) (s : State), (∀ q, Task.padEntry q ∈ s.raised → ok q) → State.FollowsBut noAxis ok s (settle n s)
  | 0, s, _ => .refl _ s
  | n + 1, s, h => by
    cases hr : s.raised with
    | nil =>
      have e : settle (n + 1) s = s := by unfold settle; rw [hr]
      exact (congrArg (State.FollowsBut noAxis ok s) e).mpr (.refl _ s)
    | cons t rest =>
      have e : settle (n + 1) s = settle n (s.settleOnce t rest) := by conv => lhs; unfold settle; rw [hr]
      rw [e]
      have k := State.settleOnce_but s t rest hr h
      exact k.trans (settle_but n _ (fun q e => h q (k.rest.entries q e)))

/-- The work an event raises, whole. -/
theorem State.settled_but (s : State) : State.FollowsBut noAxis (fun q => Task.padEntry q ∈ s.raised) s s.settled :=
  State.FollowsBut.raised (settle_but _ s (fun _ e => e)) [] (fun _ e => by cases e)

end Machine
end Sys2Proof
end

