-- ==== Sys2Proof/Laws/Event.lean ====
section
/-! SUPPORT. The end of every event: what the park-quiet timer, the page buffers and the transmit buffer take from a state, and State.Follows and
State.Settles for State.conclude. -/

namespace Sys2Proof
namespace Machine

/-! ## The last four updates -/

/-- Everything of a state but the port's buffers, the park-quiet timer, the arrival counter, the loaded marks and the raised work. -/
structure State.SameBut (u t : State) : Prop where
  ac : t.ac = u.ac
  lc : t.lc = u.lc
  da : t.da = { u.da with arrival := t.da.arrival }
  jm : t.jm = { u.jm with answers := t.jm.answers }
  answers : t.jm.answers.map (fun x => x.map Answer.unmarked) = u.jm.answers.map (fun x => x.map Answer.unmarked)
  iu : t.iu = u.iu
  validity : t.validity = u.validity
  tw : t.tw = u.tw
  sp : t.sp = { u.sp with parkQuiet := t.sp.parkQuiet }
  st : t.st = u.st
  port : t.np.errors = u.np.errors ∧ t.np.busOff = u.np.busOff ∧ t.np.busOffTimer = u.np.busOffTimer
  ps : t.ps = u.ps
  picks : t.picks = u.picks
  raised : t.raised = u.raised
  pending : t.pending = u.pending

theorem State.SameBut.refl (s : State) : s.SameBut s :=
  ⟨rfl, rfl, rfl, rfl, rfl, rfl, rfl, rfl, rfl, rfl, ⟨rfl, rfl, rfl⟩, rfl, rfl, rfl, rfl⟩

theorem State.SameBut.trans {u v t : State} (h : u.SameBut v) (k : v.SameBut t) : u.SameBut t where
  ac := k.ac.trans h.ac
  lc := k.lc.trans h.lc
  da := by rw [k.da, h.da]
  jm := by rw [k.jm, h.jm]
  answers := k.answers.trans h.answers
  iu := k.iu.trans h.iu
  validity := k.validity.trans h.validity
  tw := k.tw.trans h.tw
  sp := by rw [k.sp, h.sp]
  st := k.st.trans h.st
  port := ⟨k.port.1.trans h.port.1, k.port.2.1.trans h.port.2.1, k.port.2.2.trans h.port.2.2⟩
  ps := k.ps.trans h.ps
  picks := k.picks.trans h.picks
  raised := k.raised.trans h.raised
  pending := k.pending.trans h.pending

theorem State.arrivalUpdate_same (s : State) : s.SameBut s.arrivalUpdate :=
  ⟨rfl, rfl, rfl, rfl, rfl, rfl, rfl, rfl, rfl, rfl, ⟨rfl, rfl, rfl⟩, rfl, rfl, rfl, rfl⟩

theorem State.parkUpdate_same (s : State) : s.SameBut s.parkUpdate :=
  ⟨rfl, rfl, rfl, rfl, rfl, rfl, rfl, rfl, rfl, rfl, ⟨rfl, rfl, rfl⟩, rfl, rfl, rfl, rfl⟩

theorem State.publish_same (s : State) : s.SameBut s.publish :=
  ⟨rfl, rfl, rfl, rfl, rfl, rfl, rfl, rfl, rfl, rfl, ⟨rfl, rfl, rfl⟩, rfl, rfl, rfl, rfl⟩

theorem State.load_same (s : State) (id : CanId) (data : List Byte) (x : TxSource) : s.SameBut (s.load id data x) :=
  ⟨rfl, rfl, rfl, rfl, rfl, rfl, rfl, rfl, rfl, rfl, ⟨rfl, rfl, rfl⟩, rfl, rfl, rfl, rfl⟩

theorem State.modPage_same (s : State) (p : PageNo) (f : Page → Page) : s.SameBut (s.modPage p f) :=
  ⟨rfl, rfl, rfl, rfl, rfl, rfl, rfl, rfl, rfl, rfl, ⟨rfl, rfl, rfl⟩, rfl, rfl, rfl, rfl⟩

theorem State.setRows_same (s : State) (l : List (PageNo × Axis)) : s.SameBut { s with np := { s.np with rows := l } } :=
  ⟨rfl, rfl, rfl, rfl, rfl, rfl, rfl, rfl, rfl, rfl, ⟨rfl, rfl, rfl⟩, rfl, rfl, rfl, rfl⟩

theorem State.loadPage_same (s : State) (p : PageNo) : s.SameBut (s.loadPage p) := by
  unfold State.loadPage
  dsimp only
  split
  · exact (State.modPage_same _ _ _).trans (State.load_same _ _ _ _)
  · exact ((State.modPage_same _ _ _).trans (State.load_same _ _ _ _)).trans (State.setRows_same _ _)

theorem State.pumpPages_same (s : State) : s.SameBut s.pumpPages := by
  unfold State.pumpPages
  split
  · exact (State.load_same _ _ _ _).trans (State.setRows_same _ _)
  · split
    · exact State.loadPage_same _ _
    · exact .refl s

theorem State.answerReady_some {s : State} {r : Role} {x : Answer} (h : s.answerReady = some (r, x)) : s.jm.answers[roleNo r] = some x := by
  unfold State.answerReady at h
  obtain ⟨q, _, hq⟩ := List.exists_of_findSome?_eq_some h
  cases hx : s.jm.answers[roleNo q] with
  | none => rw [hx] at hq; cases hq
  | some y => rw [hx] at hq; cases hq; exact hx

theorem State.loadAnswer_same (s : State) (r : Role) (x : Answer) (h : s.jm.answers[roleNo r] = some x) : s.SameBut (s.loadAnswer r x) := by
  refine ⟨rfl, rfl, rfl, rfl, ?_, rfl, rfl, rfl, rfl, rfl, ⟨rfl, rfl, rfl⟩, rfl, rfl, rfl, rfl⟩
  show (s.jm.answers.set (roleNo r) (some { x with loaded := true })).map _ = _
  ext i hi : 1
  simp only [Vector.getElem_map, Vector.getElem_set]
  split
  · rename_i e
    subst e
    have h' : s.jm.answers[(roleNo r).val] = some x := h
    rw [h']; rfl
  · rfl

theorem State.pump_same (s : State) : s.SameBut s.pump := by
  unfold State.pump
  split
  · exact .refl s
  · split
    · exact State.pumpPages_same s
    · split
      · rename_i h
        exact State.loadAnswer_same s _ _ (State.answerReady_some h)
      · split
        · unfold State.loadResult
          split
          · exact State.load_same _ _ _ _
          · exact .refl s
        · exact State.pumpPages_same s

/-- What ends an event after its work. -/
theorem State.finish_same (s : State) : s.SameBut s.arrivalUpdate.parkUpdate.publish.pump :=
  ((s.arrivalUpdate_same.trans (State.parkUpdate_same _)).trans (State.publish_same _)).trans (State.pump_same _)

/-- An event's end keeps what a change of the marks of the answers keeps. -/
theorem State.SameBut.follows {ok : Pad → Prop} {u t : State} (h : u.SameBut t) (hw : u.da.WaitGood → t.da.WaitGood) : State.FollowsBut noAxis ok u t := by
  refine .of_rest h.ac h.validity h.tw h.lc (by rw [h.da]) (by rw [h.da]) hw
    ⟨fun a => by rw [h.tw]; exact ⟨rfl, rfl, rfl⟩, ?_, by rw [h.da], h.iu, h.sp, by rw [h.st],
      fun _ => by rw [h.st], h.port, fun p => .inl (by rw [h.ps]), fun p => by rw [h.ps], fun p e => by rw [← h.raised]; exact e, h.pending⟩
  rw [h.jm]
  exact .answers u.jm _ h.answers

theorem State.arrivalUpdate_wait (s : State) (h : s.da.WaitGood) : s.arrivalUpdate.da.WaitGood := by
  unfold State.arrivalUpdate
  dsimp only
  split
  · rename_i e
    have hn : s.da.wait = [] := List.isEmpty_iff.1 e
    refine ⟨h.1, h.2.1, fun x (hx : x ∈ s.da.wait) => ?_, Nat.zero_le _⟩
    rw [hn] at hx; cases hx
  · exact h

/-! ## The whole end of an event -/

/-- The arrival counter at the end of an event (R54). -/
theorem State.finish_arrival (s : State) : s.arrivalUpdate.parkUpdate.publish.pump.da = s.arrivalUpdate.da := by
  have h := State.pump_same s.arrivalUpdate.parkUpdate.publish
  have e : ∀ t : State, t.pump.da = t.da := by
    intro t
    unfold State.pump State.pumpPages State.loadPage State.loadRow State.loadAnswer State.loadResult
    repeat' split
    all_goals rfl
  rw [e]; rfl

/-- The state that ends an event keeps to State.Follows, and to what State.FollowsBut asks besides. -/
theorem State.conclude_but (s : State) : State.FollowsBut noAxis (fun q => Task.padEntry q ∈ s.raised) s s.conclude :=
  s.settled_but.trans ((State.finish_same s.settled).follows (fun h => by rw [State.finish_arrival]; exact s.settled.arrivalUpdate_wait h))

theorem State.conclude_follows (s : State) : s.Follows s.conclude := s.conclude_but.follows

/-- Every event leaves no work over. -/
theorem State.conclude_quiet (s : State) : s.conclude.Quiet := (State.finish_same s.settled).raised

theorem settle_quiet {s : State} (h : s.Quiet) : ∀ n, settle n s = s
  | 0 => rfl
  | n + 1 => by unfold settle; rw [show s.raised = [] from h]

/-- An event that raises no work leaves what its own effect makes, as State.Settles says. -/
theorem State.conclude_settles {s : State} (h : s.Quiet) : s.Settles s.conclude := by
  have e : s.settled = s := by
    unfold State.settled
    rw [settle_quiet h, ← show s.raised = [] from h]
  have k := State.finish_same s
  have hc : s.conclude = s.arrivalUpdate.parkUpdate.publish.pump := by unfold State.conclude; rw [e]
  rw [hc]
  exact ⟨k.ac, k.lc, State.finish_arrival s, by rw [k.jm], by rw [k.jm]; exact ⟨rfl, rfl, rfl, rfl⟩, by rw [k.jm], k.answers, by rw [k.jm], k.iu,
    k.validity, k.tw, k.sp, k.st, k.port, k.ps, k.picks, by unfold State.Quiet; rw [k.raised]; exact h, k.pending⟩

/-- Every meaning answers a next state, and what it is. -/
theorem State.done_eq (s : State) : s.done = .next s.conclude := rfl

end Machine
end Sys2Proof
end

