-- ==== Sys2Proof/Laws/Memory.lean ====
section
/-! SUPPORT. The store's operations: each write keeps the canonical form, and what a read gives after a write. -/

namespace Sys2Proof
namespace Machine

/-! ## The canonical form -/

theorem Memory.wfFrom_mono {lo lo' : Nat} (h : lo' ≤ lo) : ∀ {m : List Host.Cell}, Memory.wfFrom lo m = true → Memory.wfFrom lo' m = true
  | [], _ => rfl
  | (a, b) :: rest, hw => by
    simp only [Memory.wfFrom, Bool.and_eq_true, decide_eq_true_eq] at hw ⊢
    exact ⟨⟨⟨by omega, hw.1.1.2⟩, hw.1.2⟩, hw.2⟩

theorem memPut_wfFrom {a : Nat} {b : Byte} (ha : a < Config.storeBytes) :
    ∀ {m : List Host.Cell} {lo : Nat}, lo ≤ a → Memory.wfFrom lo m = true → Memory.wfFrom lo (memPut m a b) = true
  | [], lo, hlo, _ => by
    unfold memPut
    split
    · rfl
    · simp [Memory.wfFrom, *]
  | (k, v) :: rest, lo, hlo, hw => by
    simp only [Memory.wfFrom, Bool.and_eq_true, decide_eq_true_eq] at hw
    obtain ⟨⟨⟨h1, h2⟩, h3⟩, h4⟩ := hw
    unfold memPut
    split
    · split
      · simp [Memory.wfFrom, *]
      · have hk : a + 1 ≤ k := by omega
        simp [Memory.wfFrom, *]
    · split
      · subst a
        split
        · exact Memory.wfFrom_mono (by omega) h4
        · simp [Memory.wfFrom, *]
      · simp only [Memory.wfFrom, Bool.and_eq_true, decide_eq_true_eq]
        exact ⟨⟨⟨h1, h2⟩, h3⟩, memPut_wfFrom ha (by omega) h4⟩

theorem memWrite_wf {m : List Host.Cell} (a : Nat) (b : Byte) (h : Memory.wf m = true) : Memory.wf (memWrite m a b) = true := by
  unfold memWrite
  split
  · exact memPut_wfFrom ‹_› (Nat.zero_le _) h
  · exact h

theorem memWriteAll_wf : ∀ (l : List (Nat × Byte)) {m : List Host.Cell}, Memory.wf m = true → Memory.wf (memWriteAll m l) = true
  | [], _, h => h
  | (a, b) :: rest, _, h => memWriteAll_wf rest (memWrite_wf a b h)

/-! ## Reading after writing -/

theorem memRead_below {lo : Nat} : ∀ {m : List Host.Cell} {a : Nat}, Memory.wfFrom lo m = true → a < lo → memRead m a = Config.unwrittenByte
  | [], _, _, _ => rfl
  | (k, v) :: rest, a, hw, ha => by
    simp only [Memory.wfFrom, Bool.and_eq_true, decide_eq_true_eq] at hw
    have hk : k ≠ a := by omega
    simp only [memRead, if_neg hk]
    exact memRead_below hw.2 (by omega)

theorem memRead_memPut {a : Nat} {b : Byte} (x : Nat) :
    ∀ {m : List Host.Cell} {lo : Nat}, Memory.wfFrom lo m = true → memRead (memPut m a b) x = if x = a then b else memRead m x
  | [], lo, _ => by
    unfold memPut
    split
    · subst b; simp [memRead]
    · simp only [memRead]; simp [eq_comm]
  | (k, v) :: rest, lo, hw => by
    simp only [Memory.wfFrom, Bool.and_eq_true, decide_eq_true_eq] at hw
    obtain ⟨⟨⟨h1, h2⟩, h3⟩, h4⟩ := hw
    unfold memPut
    split
    · split
      · split
        · subst x b
          have hk : k ≠ a := by omega
          simp only [memRead, if_neg hk]
          exact memRead_below h4 (by omega)
        · rfl
      · simp only [memRead, eq_comm]
    · split
      · subst a
        split
        · subst b
          split
          · subst x; exact memRead_below h4 (by omega)
          · simp only [memRead]; rw [if_neg (fun h => ‹¬ _› h.symm)]
        · simp only [memRead, eq_comm]; split <;> rfl
      · have hka : ¬ k = a := fun h => ‹¬ a = k› h.symm
        simp only [memRead, memRead_memPut x h4]
        by_cases hx : k = x
        · subst hx; simp [hka]
        · simp [hx]

/-- A read after a write gives the byte written at its address, and every other byte as before. -/
theorem memRead_memWrite {m : List Host.Cell} (h : Memory.wf m = true) {a : Nat} (ha : a < Config.storeBytes) (b : Byte) (x : Nat) :
    memRead (memWrite m a b) x = if x = a then b else memRead m x := by
  simp only [memWrite, if_pos ha]
  exact memRead_memPut x h

/-- Writes outside a byte leave it alone. -/
theorem memRead_memWriteAll : ∀ (l : List (Nat × Byte)) {m : List Host.Cell} {x : Nat},
    Memory.wf m = true → (∀ c ∈ l, c.1 ≠ x) → memRead (memWriteAll m l) x = memRead m x
  | [], _, _, _, _ => rfl
  | (a, b) :: rest, m, x, h, hx => by
    have h1 : x ≠ a := fun e => hx (a, b) (by simp) e.symm
    rw [memWriteAll, memRead_memWriteAll rest (memWrite_wf a b h) (fun c hc => hx c (by simp [hc]))]
    unfold memWrite
    split
    · simp [memRead_memPut x h, h1]
    · rfl

end Machine
end Sys2Proof
end

