-- ==== Sys2Proof/WellFormed.lean ====
section
/-! DEFINITION. Well-formed commands: the values that the event of a table row can carry. -/

namespace Sys2Proof

/-- A CAN frame carries at most 8 bytes (chapter 13, introduction). -/
def fitsFrame (bs : List Byte) : Bool := decide (bs.length ≤ 8)

/-- The bytes spell none of the requests of table 2 of 13: too short, of no kind, or shorter than their kind uses (R193). -/
def spellsNoRequest (bs : List Byte) : Bool :=
  decide (bs.length < 2) ||
    (match Machine.reqKindOf (bs.getD 0 0#8) with
      | none => true
      | some k => decide (bs.length < k.length))

/-- The command is one that its row can stand for. -/
def Instr.wellFormed : Instr → Bool
  | .requestFrameOther _ bs => fitsFrame bs && spellsNoRequest bs
  | .frameOtherId _ remote bs => fitsFrame bs && (!remote || bs.isEmpty)
  | .vehicleCondition _ bs => fitsFrame bs
  | .occupancy _ bs => fitsFrame bs
  | .supplyPause mv => decide (mv < Config.pauseLowMv) || decide (Config.pauseHighMv < mv)
  | .supplyResume mv => decide (Config.resumeLowMv ≤ mv) && decide (mv ≤ Config.resumeHighMv)
  | .powerOnReset mv => decide (Config.brownOutMv ≤ mv)
  | .runArrangement _ _ _ | .holdMove _ _ _ _ | .releaseMove _ _ _ | .stopJob _ _ _ | .stopAll _ _ | .clearFaults _ _ _
  | .homeAxes _ _ _ | .trimAdjust _ _ _ _ | .enterService _ _ | .leaveService _ _ | .storeRead _ _ _
  | .storeWrite _ _ _ _ _ _ _ | .softReset _ _ | .freshnessExpiry _ | .holdExpiry _ | .currentSample _ _ | .hallEdge _ _
  | .hallTimeout _ | .currentLimitEvent _ | .offTimeEnd _ _ | .commonLegOvercurrent _ | .brakingEnd _ | .dwellExpiry _
  | .markerWriteComplete | .releaseFirstPulseEnd _ | .releaseGapEnd _ | .releaseRetryEnd _ | .solenoidHoldTimeout _
  | .relockCheckExpiry _ | .latchDebounce _ _ | .deferralTimeout _ _ | .coolingStep _ | .pauseWindowExpiry | .firstLoadEnd
  | .storeWriteComplete | .serviceTimeout | .serviceDeferredLeave | .parkEntry | .parkWriteComplete | .wakeEvent _
  | .wakingEnd | .frameSent | .pageDue _ | .txError | .busOffRejoin | .padButtonPress _ _ | .padButtonRelease _ _
  | .padStuck _ _ => true

end Sys2Proof
end

