-- ==== Sys2Proof/Tests/Slice0.lean ====
section
/-! SUPPORT. Tests on small states: ill-formed commands that WellFormed refuses, single steps with results worked out from the spec's rules, and
one witness for the hypotheses of every statement that has some (clause by clause). -/

namespace Sys2Proof
namespace Tests

set_option Elab.async false

open Sys2Proof.Machine

/-! ## Test states -/

/-- A DRIVE record: A0 to A2 on dedicated pairs, A3 to A6 on the common leg H6, soft limits 100..3000. -/
def testAxis (a : Axis) : DriveAxis where
  common := decide (3 ≤ a.val)
  sense := true
  side := if a = 6 then .both else if a = 0 ∨ a = 2 ∨ a = 4 then .left else .right
  homingDir := .negative
  leg1 := if a.val < 3 then Fin.ofNat 11 (2 * a.val) else 6
  leg2 := if a.val < 3 then Fin.ofNat 11 (2 * a.val + 1) else Fin.ofNat 11 (a.val + 4)
  attended := defaultAttended a
  automatic := defaultAutomatic a
  startRes := 100
  runRes := 60
  startDuty := 300
  rampStep := 50
  normalDuty := 800
  quietDuty := 500
  homingDuty := 400
  tolerance := 10
  offCode := 1
  defaultIlr := 50
  defaultCoast := 20
  backOff := 50
  softLo := 100
  softHi := 3000
  upright := (0, 200)
  folded := (2800, 3000)
  homeRef := 100
  ratedLife := 500

/-- A DRIVE that meets every content condition. -/
def testDrive : DriveCopy where
  axis := #v[testAxis 0, testAxis 1, testAxis 2, testAxis 3, testAxis 4, testAxis 5, testAxis 6]
  bTotal := 600
  heatLimit := 48000
  heatResume := 32000
  homingOrder := [6, 4, 5, 2, 3, 0, 1]
  lMax := Vector.replicate 11 300

/-- Arrangement 3: one move of A0 to 2000. -/
def testArrangement : Arrangement where
  number := 3
  name := []
  parkRequired := false
  rearAccess := false
  autoHome := false
  cargo := true
  quiet := false
  last := true
  moves := [{ axis := 0, phase := 0, target := 2000, quiet := false }]

/-- An ACTIVE part at rest: every axis VALID at 1000 with its latch OPEN, a standing vehicle in P with an open tailgate and empty seats. -/
def atRest : State :=
  { State.reset with
    ac := Vector.replicate 7 { Channel.reset with position := 1000 }
    lc := Vector.replicate 4 { Latch.reset with state := .opened, firstReading := false }
    validity := Vector.replicate 7 .valid
    iu := {
      vehicle := { speed := some 30, gear := .p, power := .run, rearLeft := .closed, rearRight := .closed, tailgate := .opened }
      vehicleFresh := true
      vehicleTimer := .start
      seats := Vector.replicate 5 { occupied := .no, childSeat := .no }
      occupancyFresh := true
      occupancyTimer := .start }
    sp := { Supply.reset with power := .active, waking := .stopped }
    st := { StoreCtl.reset [] with
      loaded := true
      drive := some testDrive
      rules := some []
      arrangements := some [testArrangement]
      learnedArea := some (64, 96) } }

/-- A move of a kind with its Hall timeout and duties as testDrive gives them. -/
def testMove (kind : MoveKind) : Move where
  kind := kind
  dir := .positive
  target := none
  stop := none
  travel := none
  speed := .normal
  job := none
  rank := 0
  tolerance := 10
  runDuty := 800
  rampStep := 50
  offCode := 1
  threshold := 78
  timeoutMs := 250
  duty := 300
  samples := 0
  runSamples := 0
  runSum := 0
  lowCurrent := true
  obstruction := 0
  limitEvents := 0
  edges := 0
  drivenEdge := false
  brakePos := 0
  final := 1000
  pending := none
  pendingPred := none
  endedAtStop := false
  inOffTime := false
  offTimer := .stopped
  sampleWaits := false
  pauseEnd := none

/-- The part at rest but for one axis in a motion state with a move. -/
def moving (a : Axis) (motion : Motion) (m : Move) : State :=
  { atRest with ac := atRest.ac.set a { atRest.ac[a] with motion := motion, move := some m } }

/-- A wait-list entry for a hold of an axis in positive direction. -/
def holdEntry (a : Axis) : WaitEntry where
  axis := a
  slot := 0
  rank := 0
  arrival := 1
  bypass := 0
  kind := .hold
  dir := .positive
  speed := .normal
  target := none

/-- A partner's hold job on an axis. -/
def testHold (r : Role) (a : Axis) : Job := holdJob (.partner r) 5#4 none a .positive .start

/-- A partner's scene job with one row in a state. -/
def testScene (r : Role) (v : RowState) (a : Axis) : Job :=
  { Job.fresh .scene (.partner r) 5#4 .run (AxisSet.one a) with
    scene := some {
      number := 3
      rows := [{ axis := a, phase := 0, target := 2000, speed := .normal, state := v, timer := .start, lastEnd := none, lastPos := none, onTarget := none }]
      phase := some 0
      backOffs := 0 } }

/-- A state with a job in slot 0 that claims its axes. -/
def withJob (s : State) (x : Job) : State := s.takeSlot 0 x

/-- A write of a kind in progress. -/
def testWrite (kind : WriteKind) : StoreWrite where
  kind := kind
  bytes := [(64, 1#8), (65, 2#8), (66, 3#8), (67, 4#8)]
  tag := 5#4
  timer := .start

/-- The part at rest with a write in progress. -/
def writing (kind : WriteKind) : State := { atRest with st := { atRest.st with write := some (testWrite kind) } }

/-- The part at rest in Service Mode. -/
def serviceMode : State := { atRest with st := { atRest.st with service := true, serviceTimer := .start } }

/-- The part at rest in another power state. -/
def inPower (p : PowerState) : State := { atRest with sp := { atRest.sp with power := p } }

/-- The part at rest with one latch changed. -/
def withLatch (f : Latch → Latch) : State := atRest.modLatch 0 f

/-- The state one command leaves. -/
def after (c : Instr) (s : State) : State :=
  match exec c s with
  | .next t => t
  | .fault _ => s
  | .refused _ => s

/-! ## Well-formed commands -/

theorem test_long_request_refused : (Instr.requestFrameOther 0x640#11 (List.replicate 9 0#8)).wellFormed = false := by decide
theorem test_whole_request_refused : (Instr.requestFrameOther 0x640#11 [0x05#8, 0#8]).wellFormed = false := by decide
theorem test_short_request_accepted : (Instr.requestFrameOther 0x640#11 [0x01#8, 0#8]).wellFormed = true := by decide
theorem test_long_frame_refused : (Instr.frameOtherId 0#11 false (List.replicate 9 0#8)).wellFormed = false := by decide
theorem test_remote_frame_with_bytes_refused : (Instr.frameOtherId 0#11 true [0#8]).wellFormed = false := by decide
theorem test_long_vehicle_frame_refused : (Instr.vehicleCondition 0x650#11 (List.replicate 9 0#8)).wellFormed = false := by decide
theorem test_long_occupancy_frame_refused : (Instr.occupancy 0x651#11 (List.replicate 9 0#8)).wellFormed = false := by decide
theorem test_pause_inside_band_refused : (Instr.supplyPause 9000).wellFormed = false := by decide
theorem test_resume_outside_band_refused : (Instr.supplyResume 17001).wellFormed = false := by decide
theorem test_reset_below_brown_out_refused : (Instr.powerOnReset 5999).wellFormed = false := by decide

/-! ## Reset and the test states -/

/-- The page buffers of a reset hold what the page contents of R18, R112, R143 and R186 compute to. -/
theorem test_reset_pages : ∀ p : PageNo, Page.resetContents[p] = State.reset.pageContent p := by decide +kernel
/-- The test DRIVE meets the content conditions of R47, R63, R78, R149, R160 and R162. -/
theorem test_drive_good : driveGood testDrive = true := by decide +kernel

/-! ## Single steps, worked out from the rules -/

/-- 32000 - (floor(32000 / 64) + 1) = 31499 (R159). -/
theorem test_cooling_step : (after (.coolingStep 0) atRest).tw[(0 : Axis)].heat = 31499 := by decide +kernel
/-- 32000 + floor(200 * 200 / 256) = 32156 (R158). -/
theorem test_sample_heats : (after (.currentSample 0 200) (moving 0 .running (testMove .hold))).tw[(0 : Axis)].heat = 32156 := by
  decide +kernel
/-- One ramp step above the start duty (R21). -/
theorem test_sample_ramps :
    ((after (.currentSample 0 20) (moving 0 .starting (testMove .hold))).ac[(0 : Axis)].move.map (fun m => m.duty)) = some 350 := by
  decide +kernel
/-- The third sample above the threshold in a row brakes with OBSTRUCTED (R32). -/
theorem test_obstruction :
    (after (.currentSample 0 79) (moving 0 .running { testMove .hold with obstruction := 2 })).ac[(0 : Axis)].motion = .braking := by
  decide +kernel
/-- A sample equal to the threshold is none above it (R32). -/
theorem test_no_obstruction :
    (after (.currentSample 0 78) (moving 0 .running { testMove .hold with obstruction := 2 })).ac[(0 : Axis)].motion = .running := by
  decide +kernel
/-- The sixth limit event locks the axis out (R33). -/
theorem test_sixth_limit_event :
    (after (.currentLimitEvent 0) (moving 0 .running { testMove .hold with limitEvents := 5 })).ac[(0 : Axis)].lockedOut = true := by
  decide +kernel
/-- remaining = 1021 - 1001 = 20 is no more than C = 20, so this edge is the braking point (R26). -/
theorem test_braking_point :
    (after (.hallEdge 0 5000) (moving 0 .running { testMove .hold with stop := some 1021 })).ac[(0 : Axis)].motion = .braking := by
  decide +kernel
/-- The fourth stray edge of a VALID axis (R25, R148). -/
theorem test_fourth_stray_edge :
    (after (.hallEdge 0 5000) { atRest with ac := atRest.ac.set (0 : Axis) { atRest.ac[(0 : Axis)] with stray := 3 } }).validity[(0 : Axis)]
      = .unverified := by decide +kernel
/-- The third stall in a row locks the axis out (R37). -/
theorem test_third_stall :
    (after (.hallTimeout 0) { moving 0 .running { testMove .hold with lowCurrent := false } with
      ac := atRest.ac.set (0 : Axis) { atRest.ac[(0 : Axis)] with
        motion := .running, streak := 2, hallTimer := .start, move := some { testMove .hold with lowCurrent := false } } }).ac[(0 : Axis)].lockedOut
      = true := by decide +kernel
/-- BRAKING ends in DWELL with DONE where nothing else is pending (R28, R39). -/
theorem test_braking_end : (after (.brakingEnd 0) (moving 0 .braking (testMove .hold))).ac[(0 : Axis)].lastOutcome = some .done := by
  decide +kernel
theorem test_dwell_expiry : (after (.dwellExpiry 0) (moving 0 .dwell (testMove .hold))).ac[(0 : Axis)].motion = .idle := by decide +kernel
/-- A fault on the common leg H6 (R50). -/
theorem test_leg_overcurrent : (after (.commonLegOvercurrent 6) atRest).da.legFault[(6 : Leg)] = true := by decide +kernel
/-- H0 is no common leg (R48). -/
theorem test_own_leg_overcurrent : (after (.commonLegOvercurrent 0) atRest).da.legFault[(0 : Leg)] = false := by decide +kernel

/-- An accepted hold starts its axis, which has no latch, in the same event (R55, R99). -/
theorem test_hold_starts : (after (.holdMove 0x640#11 5#4 0#8 1#8) atRest).ac[(0 : Axis)].motion = .starting := by decide +kernel
/-- A hold of a latched axis whose latch reads LOCKED begins with its release (R19, R64). -/
theorem test_hold_releases :
    (after (.holdMove 0x640#11 5#4 2#8 1#8) (withLatch (fun l => { l with state := .locked }))).ac[(2 : Axis)].motion = .releasing := by
  decide +kernel
/-- The restraint controller may only send STOP_ALL (R172): the answer goes out with NOT_PERMITTED, 0x21. -/
theorem test_not_permitted :
    ((after (.holdMove 0x644#11 5#4 0#8 1#8) atRest).np.tx.map (fun f => f.data.getD 2 0#8)) = some 0x21#8 := by decide +kernel
/-- An accepted run leaves its first move granted (R115, R118, R119). -/
theorem test_run_starts : (after (.runArrangement 0x640#11 5#4 3#8) atRest).ac[(0 : Axis)].motion = .starting := by decide +kernel
/-- Arrangement 4 is not in the store (R114): the answer goes out with UNKNOWN_ARRANGEMENT, 0x29. -/
theorem test_unknown_arrangement :
    ((after (.runArrangement 0x640#11 5#4 4#8) atRest).np.tx.map (fun f => f.data.getD 2 0#8)) = some 0x29#8 := by decide +kernel
theorem test_release_ends_hold :
    (after (.releaseMove 0x640#11 5#4 0#8) (after (.holdMove 0x640#11 5#4 0#8 1#8) atRest)).ac[(0 : Axis)].motion = .braking := by
  decide +kernel
theorem test_stop_all :
    (after (.stopAll 0x644#11 5#4) (after (.holdMove 0x640#11 5#4 0#8 1#8) atRest)).ac[(0 : Axis)].motion = .braking := by decide +kernel
/-- An axis at rest without a claim takes its trims (R156): code 5 moves both up. -/
theorem test_trim : (after (.trimAdjust 0x646#11 5#4 0#8 5#8) atRest).ac[(0 : Axis)].marginTrim = 7 := by decide +kernel
theorem test_clear_faults :
    (after (.clearFaults 0x640#11 5#4 1#8)
      { atRest with ac := atRest.ac.set (0 : Axis) { atRest.ac[(0 : Axis)] with lockedOut := true } }).ac[(0 : Axis)].lockedOut = false := by
  decide +kernel
theorem test_enter_service : (after (.enterService 0x646#11 5#4) atRest).st.service = true := by decide +kernel
/-- 3.1 km/h is no standstill (R135, R187). -/
theorem test_enter_service_moving :
    (after (.enterService 0x646#11 5#4)
      { atRest with iu := { atRest.iu with vehicle := { atRest.iu.vehicle with speed := some 31 } } }).st.service = false := by decide +kernel
theorem test_store_write :
    (memRead (after .storeWriteComplete (after (.storeWrite 0x646#11 5#4 2#16 1#8 2#8 3#8 4#8) serviceMode)).st.memory 9) = 2#8 := by
  decide +kernel
theorem test_soft_reset : (after (.softReset 0x646#11 5#4) atRest).iu.vehicleFresh = false := by decide +kernel
/-- Speed 0x0102 (table 5 of 13, R191). -/
theorem test_vehicle_frame :
    (after (.vehicleCondition 0x650#11 [1#8, 2#8, 0#8, 0#8, 0#8, 0#8]) atRest).iu.vehicle.speed = some 258 := by decide +kernel
theorem test_freshness : (after (.freshnessExpiry .occupancy) atRest).iu.occupancyFresh = false := by decide +kernel
theorem test_supply_pause : (after (.supplyPause 8999) (moving 0 .running (testMove .hold))).ac[(0 : Axis)].motion = .braking := by
  decide +kernel
theorem test_power_on_reset_pauses : (after (.powerOnReset 8999) atRest).sp.cond = .pausedWindow := by decide +kernel
/-- An empty store has no valid header (R183), so no area is valid (R184). -/
theorem test_first_load : (after .firstLoadEnd State.reset).st.drive = none := by decide +kernel
/-- The page due at reset goes out: page 0 on 0x660 (R170, R176, R182). -/
theorem test_page_sent : ((after (.pageDue 0) State.reset).np.tx.map (fun f => f.id)) = some 0x660#11 := by decide +kernel
/-- 248 + 8 is above 255 (R177). -/
theorem test_bus_off : (after .txError { after (.pageDue 0) State.reset with np := { (after (.pageDue 0) State.reset).np with errors := 248 } }).np.busOff
    = true := by decide +kernel
/-- SLIDE_FWD of pad 2L is a hold of A0 (R178), in slot 14 (R92). -/
theorem test_pad_press : ((after (.padButtonPress .left .slideFwd) atRest).jm.slots[(14 : Slot)].isSome) = true := by decide +kernel
theorem test_latch_debounce_opens : (after (.latchDebounce 0 .opened) (withLatch (fun l => { l with state := .locked }))).lc[(0 : LatchNo)].state
    = .opened := by decide +kernel
/-- A LOCKED reading at 1000, outside both windows (R71). -/
theorem test_sensor_fault : (after (.latchDebounce 0 .closed) (moving 2 .running (testMove .hold))).lc[(0 : LatchNo)].sensorFault = true := by
  decide +kernel
theorem test_wake : (after (.wakeEvent .frame) (inPower .park)).sp.power = .waking := by decide +kernel

/-- A relock check that a move ended DONE has opened fails: its row becomes ENDED with LATCH_NOT_ENGAGED (R120). -/
theorem test_relock_fails_row :
    let row (x : Option Job) : Option (Option Code) := (x.bind (fun y => y.row 2)).map Row.lastEnd
    let s := (withJob atRest { testScene .body .ended 2 with
      scene := (testScene .body .ended 2).scene.map (fun sc => sc.modRow 2 (fun r => { r with lastEnd := some .done })) })
    row (s.relockFails 2 0).jm.slots[(0 : Slot)] = some (some .latchNotEngaged) := by decide +kernel
/-- A later decisive outcome changes no move (R125): a row ENDED with STOPPED stays so. -/
theorem test_relock_fails_decided :
    let s := (withJob atRest { testScene .body .ended 2 with
      outcome := some .stopped
      scene := (testScene .body .ended 2).scene.map (fun sc => sc.modRow 2 (fun r => { r with lastEnd := some .stopped })) })
    s.relockFails 2 0 = s := by rfl

/-! ## Witnesses: states and operands that meet the hypotheses of the statements -/

/-- Every command answers a next state: the one after names. -/
theorem exec_after (c : Instr) (s : State) : exec c s = .next (after c s) := by cases c <;> rfl

/-- A partner's hold job of A0 whose move drives. -/
def holding : State := withJob (moving 0 .running { testMove .hold with job := some 0 }) (testHold .body 0)
/-- A partner's scene job whose only move of an axis stands in a row state. -/
def inScene (a : Axis) (motion : Motion) (v : RowState) (m : Move) : State :=
  withJob (moving a motion { m with kind := .scene, job := some 0, target := some 2000 }) (testScene .body v a)
/-- The body controller holds four slots. -/
def fullBody : State :=
  (((atRest.takeSlot 0 (testScene .body .waiting 1)).takeSlot 1 (testScene .body .waiting 2)).takeSlot 2 (testScene .body .waiting 3)).takeSlot 3
    (testScene .body .waiting 4)
/-- One entry on the wait list. -/
def waiting (s : State) (e : WaitEntry) : State := { s with da := { s.da with wait := [e], arrival := 1 } }
/-- A0 is HOT. -/
def hotAxis : State := { atRest with tw := atRest.tw.set (0 : Axis) { Thermal.reset with hot := true } }
/-- A grant of A0, held or not. -/
def testGrant (a : Axis) (held : Bool) : Grant where
  entry := holdEntry a
  target := none
  stop := some 3000
  travel := none
  reservation := 100
  commonLeg := (testAxis a).commonLeg
  ownLeg := if 3 ≤ a.val then (testAxis a).leg2 else (testAxis a).leg1
  secondLeg := if 3 ≤ a.val then none else some (testAxis a).leg2
  held := held
/-- A state with a grant of an axis. -/
def withGrant (s : State) (a : Axis) (held : Bool) : State := s.setGrant a (some (testGrant a held))
/-- One channel changed. -/
def withChan (s : State) (a : Axis) (f : Channel → Channel) : State := s.modChan a f
/-- A frame in the transmit buffer. -/
def sending (s : State) (source : TxSource) : State := { s with np := { s.np with tx := some { id := 0#11, data := [], source := source } } }
/-- The store write bookkeeping changed. -/
def withStore (s : State) (f : StoreCtl → StoreCtl) : State := { s with st := f s.st }
/-- The supply bookkeeping changed. -/
def withSupply (f : Supply → Supply) : State := { atRest with sp := f atRest.sp }
/-- A pad condition with a pressed button. -/
def withPad (s : State) (c : PadCond) (b : Button) : State := { s with ps := s.ps.set (0 : Fin 2) { cond := c, pressed := [(b, .start)] } }

theorem witness_step_takes_the_front :
    ({ atRest with pending := [.frameSent, .txError] } : State).pending = .frameSent :: [.txError] := by
  decide +kernel
theorem witness_idle_tick :
    State.reset.pending = [] := by
  decide +kernel
theorem witness_store_changes_only_by_writes :
    (after .storeWriteComplete (writing .service)).st.memory ≠ (writing .service).st.memory := by
  decide +kernel
theorem witness_store_changes_by_marker_write :
    (after .markerWriteComplete (writing .marker)).st.memory ≠ (writing .marker).st.memory := by
  decide +kernel
theorem witness_store_changes_by_park_write :
    (after .parkWriteComplete (writing .park)).st.memory ≠ (writing .park).st.memory := by
  decide +kernel
theorem witness_no_motion_starts_uncleared :
    atRest.ac[(0 : Axis)].motion.stoppable = false ∧ (after (.holdMove 0x640#11 5#4 0#8 1#8) atRest).ac[(0 : Axis)].motion.stoppable = true := by
  decide +kernel
theorem witness_predicates_default_side :
    State.reset.st.drive = none ∧ atRest.st.drive = some testDrive := by
  decide +kernel
theorem witness_envelope_holds_position :
    atRest.driveAxis 0 = some (testAxis 0) ∧ (testAxis 0).softLo ≤ (testAxis 0).softHi ∧ atRest.envelope 0 = some (100, 3000) := by
  decide +kernel
theorem witness_envelope_below_soft_limit :
    (withChan atRest 0 (fun c => { c with position := 99 })).envelope 0 = some (99, 3000) := by
  decide +kernel
theorem witness_scan_keeps_budget :
    atRest.st.drive = some testDrive ∧ (withGrant atRest 3 false).reservedTotal ≤ testDrive.bTotal ∧ (withGrant atRest 3 false).legSum 6 ≤ testDrive.lMax[(6 : Leg)] := by
  decide +kernel
theorem witness_terminal_removal :
    (waiting hotAxis (holdEntry 0)).da.wait = [holdEntry 0] ∧ (∀ a : Axis, (waiting hotAxis (holdEntry 0)).heldGrant a = none)
      ∧ (waiting hotAxis (holdEntry 0)).terminalTest (holdEntry 0) = some (.hot, none) := by
  decide +kernel
theorem witness_first_entry_granted :
    let s := waiting atRest (holdEntry 0)
    s.da.wait = [holdEntry 0] ∧ (∀ a : Axis, s.heldGrant a = none) ∧ s.driveAxis (holdEntry 0).axis = some (testAxis 0)
      ∧ s.terminalTest (holdEntry 0) = none ∧ s.decideEntry (holdEntry 0) = .grant none (some 3000) none ∧ s.sp.marker = false := by
  decide +kernel
theorem witness_run_accepted :
    atRest.Hears 0x640#11 .body ∧ (atRest.heard .body).gate .body .run (decide ((3#8).toNat ≤ 15)) = none
      ∧ (atRest.heard .body).runCheck false 3 = .ok testArrangement
      ∧ (atRest.heard .body).slotFor .body = .ok 0 := by
  unfold State.Hears; and_intros <;> first | rfl | decide +kernel
theorem witness_hold_accepted :
    atRest.Hears 0x640#11 .body ∧ axisArg 0#8 = some 0 ∧ dirArg 1#8 = some .positive ∧ (atRest.heard .body).gate .body .hold true = none
      ∧ atRest.activeHold .body 0 = none ∧ (atRest.heard .body).holdCheck 0 .positive = none
      ∧ (atRest.heard .body).slotFor .body = .ok 0 := by
  unfold State.Hears; and_intros <;> first | rfl | decide +kernel
theorem witness_hold_repeated :
    holding.Quiet ∧ holding.Hears 0x640#11 .body ∧ holding.activeHold .body 0 = some 0 ∧ holding.jm.slots[(0 : Slot)] = some (testHold .body 0)
      ∧ (testHold .body 0).dir = some .positive ∧ dirArg 0#8 = some .negative := by
  unfold State.Quiet State.Hears; decide +kernel
theorem witness_refused_by_gate :
    atRest.Quiet ∧ atRest.Hears 0x644#11 .restraint ∧ (atRest.heard .restraint).gate .restraint .run true = some .notPermitted
      ∧ atRest.Hears 0x640#11 .body ∧ (atRest.heard .body).gate .body .run (decide ((16#8).toNat ≤ 15)) = some .badArgument := by
  unfold State.Quiet State.Hears; decide +kernel
theorem witness_refused_run :
    (atRest.heard .body).runCheck false 4 = .error (.bare .unknownArrangement) := by
  rfl
theorem witness_refused_slot :
    (fullBody.heard .body).runCheck false 3 = .ok testArrangement
      ∧ (fullBody.heard .body).slotFor .body = .error .quota ∧ fullBody.Quiet := by
  unfold State.Quiet; and_intros <;> rfl
theorem witness_refused_hold :
    (fullBody.heard .body).holdCheck 1 .positive = some { code := .busy, failing := none, detail := some 0#16 } ∧ fullBody.activeHold .body 1 = none
      ∧ (fullBody.heard .body).gate .body .hold true = none := by
  decide +kernel
theorem witness_refused_home :
    setArg 2#8 = some 2#7 ∧ (fullBody.heard .service).gate .service .home true = none ∧ fullBody.Hears 0x646#11 .service
      ∧ (fullBody.heard .service).homeCheck 2#7 = some { code := .busy, failing := some 1, detail := some 0#16 } := by
  unfold State.Hears; decide +kernel
theorem witness_release_ends_hold :
    holding.Hears 0x640#11 .body ∧ (holding.heard .body).gate .body .release true = none ∧ holding.activeHold .body 0 = some 0
      ∧ AxisSet.has (testHold .body 0).claimed 0 = true ∧ holding.ac[(0 : Axis)].move = some { testMove .hold with job := some 0 }
      ∧ holding.ac[(0 : Axis)].motion.stoppable = true := by
  unfold State.Hears; decide +kernel
theorem witness_stop_job_stops :
    (holding.heard .body).gate .body .stopJob (decide ((5#8).toNat ≤ 15)) = none ∧ holding.taggedJobs .body 5#4 = [0]
      ∧ (testHold .body 0).state = .active ∧ atRest.Quiet ∧ atRest.taggedJobs .body 15#4 = [] := by
  unfold State.Quiet; decide +kernel
theorem witness_stop_all_stops :
    holding.Hears 0x644#11 .restraint ∧ permitted .restraint .stopAll = true ∧ (0 : Slot) ∈ holding.jm.attended ++ holding.jm.scenes ++ holding.jm.services := by
  unfold State.Hears; decide +kernel
theorem witness_clear_faults_clears :
    atRest.Quiet ∧ atRest.Hears 0x640#11 .body ∧ setArg 127#8 = some 127#7 ∧ (atRest.heard .body).gate .body .clearFaults true = none
      ∧ atRest.claimedCheck 127#7 = none := by
  unfold State.Quiet State.Hears; decide +kernel
theorem witness_home_accepted :
    atRest.Hears 0x646#11 .service ∧ setArg 1#8 = some 1#7 ∧ (atRest.heard .service).gate .service .home true = none
      ∧ (atRest.heard .service).homeCheck 1#7 = none ∧ (atRest.heard .service).slotFor .service = .ok 0 := by
  unfold State.Hears; and_intros <;> first | rfl | decide +kernel
theorem witness_trim_moves :
    atRest.Quiet ∧ atRest.Hears 0x646#11 .service ∧ axisArg 6#8 = some 6 ∧ (8#8).toNat ≤ 8 ∧ atRest.jm.claims[(6 : Axis)] = none
      ∧ holding.jm.claims[(0 : Axis)] = some 0 ∧ holding.Hears 0x646#11 .service := by
  unfold State.Quiet State.Hears; decide +kernel
theorem witness_enter_service :
    atRest.Quiet ∧ atRest.Hears 0x646#11 .service ∧ atRest.noJob = true ∧ atRest.standstill = true ∧ atRest.inPark = true ∧ serviceMode.st.service = true
      ∧ holding.st.service = false ∧ holding.noJob = false := by
  unfold State.Quiet State.Hears; decide +kernel
theorem witness_service_ends :
    serviceMode.st.service = true ∧ serviceMode.Hears 0x646#11 .service ∧ serviceMode.noJob = true ∧ serviceMode.st.write = none
      ∧ serviceMode.st.serviceTimer.running = true ∧ (withStore serviceMode (fun c => { c with leavePending := true })).st.leavePending = true
      ∧ (withStore serviceMode (fun c => { c with write := some (testWrite .service) })).st.write.isSome = true := by
  unfold State.Hears; decide +kernel
theorem witness_store_read_answers :
    atRest.Quiet ∧ atRest.Hears 0x646#11 .service ∧ (511#16).toNat ≤ 511 ∧ (512#16).toNat = 512 ∧ (513#16).toNat = 513 ∧ (515#16).toNat ≤ 515 := by
  unfold State.Quiet State.Hears; decide +kernel
theorem witness_store_write_starts :
    serviceMode.Quiet ∧ serviceMode.Hears 0x646#11 .service ∧ (511#16).toNat ≤ 511 ∧ serviceMode.noJob = true ∧ serviceMode.st.write = none
      ∧ atRest.st.service = false ∧ (withJob serviceMode (testHold .body 0)).noJob = false := by
  unfold State.Quiet State.Hears; decide +kernel
theorem witness_soft_reset_clears :
    holding.Quiet ∧ holding.Hears 0x646#11 .service ∧ holding.st.write = none ∧ holding.st.service = false := by
  unfold State.Quiet State.Hears; decide +kernel
theorem witness_other_frames :
    atRest.Quiet ∧ atRest.Hears 0x640#11 .body ∧ [1#8].length < 2 ∧ reqKindOf 0#8 = none ∧ reqKindOf 14#8 = none ∧ reqKindOf 1#8 = some .run
      ∧ [1#8, 0#8].length < ReqKind.run.length ∧ atRest.sp.power ≠ .park ∧ atRest.roleOf 0x64F#11 = none ∧ 0x64F#11 ≠ atRest.partners.vehicle
      ∧ 0x64F#11 ≠ atRest.partners.occupancy := by
  unfold State.Quiet State.Hears; decide +kernel
theorem witness_data_arrival :
    let s := moving 2 .running (testMove .hold)
    s.sp.power ≠ .park ∧ s.np.busOff = false ∧ s.roleOf 0x650#11 = none ∧ s.roleOf 0x651#11 = none ∧ 0x650#11 = s.partners.vehicle ∧ 0x651#11 = s.partners.occupancy
      ∧ 0x651#11 ≠ s.partners.vehicle
      ∧ (({ s with iu := (after (.vehicleCondition 0x650#11 [0#8, 31#8, 0#8, 0#8, 0#8, 0#8]) s).iu } : State).interlock 2).isSome = true := by
  decide +kernel
theorem witness_data_arrival_occupancy :
    let s := moving 4 .running (testMove .hold)
    (({ s with iu := (after (.occupancy 0x651#11 [0#8, 255#8, 255#8, 15#8]) s).iu } : State).interlock 4).isSome = true := by
  decide +kernel
theorem witness_freshness_expires :
    atRest.iu.vehicleTimer.running = true ∧ atRest.iu.occupancyTimer.running = true
      ∧ (({ moving 2 .running (testMove .hold) with iu := { atRest.iu with vehicleFresh := false } } : State).interlock 2).isSome = true := by
  decide +kernel
theorem witness_job_timers :
    holding.jm.slots[(0 : Slot)] = some (testHold .body 0) ∧ (testHold .body 0).holdTimer.running = true ∧ (testHold .body 0).outcome = none
      ∧ ((testScene .body .deferred 0).row 0).isSome = true ∧ (testScene .body .deferred 0).source = .partner .body
      ∧ (testScene .body .deferred 0).state = .active := by
  decide +kernel
theorem witness_sample_heats :
    (moving 0 .running (testMove .hold)).ac[(0 : Axis)].move = some (testMove .hold) ∧ (moving 0 .starting (testMove .hold)).ac[(0 : Axis)].motion = .starting
      ∧ (testMove .hold).inOffTime = false := by
  decide +kernel
theorem witness_starting_sample :
    (moving 0 .starting (testMove .hold)).Quiet ∧ min (testMove .hold).runDuty ((testMove .hold).duty + (testMove .hold).rampStep) ≠ (testMove .hold).runDuty
      ∧ min 800 (750 + (testMove .hold).rampStep) = (testMove .hold).runDuty ∧ (withGrant (moving 0 .starting (testMove .hold)) 0 false).da.grants[(0 : Axis)] = some (testGrant 0 false) := by
  unfold State.Quiet; decide +kernel
theorem witness_running_sample :
    (moving 0 .running (testMove .hold)).Quiet ∧ (testMove .hold).kind ≠ .homing ∧ (testMove .hold).threshold < min 255 79 ∧ ¬ ((testMove .hold).threshold < min 255 78) := by
  unfold State.Quiet; decide +kernel
theorem witness_limit_events :
    (moving 0 .running (testMove .hold)).Quiet ∧ ({ testMove .hold with limitEvents := 4 } : Move).limitEvents < 5
      ∧ 5 ≤ ({ testMove .hold with limitEvents := 5 } : Move).limitEvents := by
  unfold State.Quiet; decide +kernel
theorem witness_stray_edges :
    (inPower .park).sp.power = .park ∧ atRest.sp.power ≠ .park ∧ atRest.ac[(0 : Axis)].motion = .idle ∧ atRest.solenoidDriven 0 = false ∧ atRest.solenoidDriven 2 = false := by
  decide +kernel
theorem witness_counted_edges :
    let m : Move := { testMove .hold with stop := some 1021 }
    let s := moving 0 .running m
    s.Quiet ∧ s.sp.power ≠ .park ∧ s.ac[(0 : Axis)].lastDir = .positive ∧ s.ac[(0 : Axis)].position < 32767 ∧ 1001 = s.ac[(0 : Axis)].position + 1
      ∧ (s.countEdge 0 1001).sensorFaulty 0 = false ∧ remaining m.dir 1001 1021 ≤ s.ac[(0 : Axis)].coast ∧ ¬ remaining m.dir 1000 1021 ≤ s.ac[(0 : Axis)].coast := by
  unfold State.Quiet; decide +kernel
theorem witness_counted_edges_down :
    let s := withChan (moving 0 .braking (testMove .hold)) 0 (fun c => { c with lastDir := .negative, position := 1 })
    s.ac[(0 : Axis)].lastDir = .negative ∧ s.ac[(0 : Axis)].position = 0 + 1 ∧ (s.countEdge 0 0).sensorFaulty 0 = false := by
  decide +kernel
theorem witness_counted_edges_travel :
    ({ testMove .homing with travel := some 1 } : Move).travel = some 1 ∧ 1 ≤ (testMove .homing).edges + 1
      ∧ 999 < 1000 ∧ ({ testMove .hold with drivenEdge := true } : Move).drivenEdge = true := by
  decide +kernel
theorem witness_edges_at_the_ends :
    let s := withChan (moving 0 .running (testMove .hold)) 0 (fun c => { c with position := 32767 })
    s.Quiet ∧ s.sp.power ≠ .park ∧ s.ac[(0 : Axis)].move = some (testMove .hold) ∧ s.ac[(0 : Axis)].lastDir = .positive ∧ 32767 ≤ s.ac[(0 : Axis)].position
      ∧ (testMove .hold).kind ≠ .homing := by
  unfold State.Quiet; decide +kernel
theorem witness_edges_at_the_ends_homing :
    let s := { withChan (moving 0 .starting (testMove .homing)) 0 (fun c => { c with lastDir := .negative, position := 0 }) with
        validity := Vector.replicate 7 Validity.unhomed }
    s.ac[(0 : Axis)].lastDir = .negative ∧ s.ac[(0 : Axis)].position = 0 ∧ s.validity[(0 : Axis)] ≠ .valid ∧ (testMove .homing).stop = none := by
  decide +kernel
theorem witness_hall_timeouts :
    let s := withChan (moving 0 .running (testMove .hold)) 0 (fun c => { c with hallTimer := .start })
    s.ac[(0 : Axis)].move = some (testMove .hold) ∧ s.ac[(0 : Axis)].motion = .running ∧ s.ac[(0 : Axis)].hallTimer.running = true ∧ (testMove .hold).lowCurrent = true
      ∧ s.driveAxis 0 = some (testAxis 0) ∧ (testAxis 0).homeRef ≤ 32767 := by
  decide +kernel
theorem witness_leg_overcurrent :
    let s := withGrant (moving 3 .running (testMove .hold)) 3 false
    s.sp.power ≠ .park ∧ s.isCommonLeg 6 = true ∧ s.da.legFault[(6 : Leg)] = false ∧ s.grantLeg 3 = some 6 ∧ s.ac[(3 : Axis)].motion.driving = true := by
  decide +kernel
theorem witness_braking_ends :
    let m : Move := { testMove .hold with endedAtStop := true, runSamples := 20, runSum := 400 }
    (moving 0 .braking m).ac[(0 : Axis)].motion = .braking ∧ (moving 0 .braking m).ac[(0 : Axis)].move = some m ∧ (moving 0 .braking m).latchLocked 0 = false
      ∧ m.endedAtStop = true ∧ m.limitEvents = 0 ∧ m.pending.getD .done ≠ .obstructed ∧ 20 ≤ m.runSamples := by
  decide +kernel
/-- A latch that reads LOCKED at 1000, outside both windows, when its axis enters DWELL (R71). -/
theorem witness_braking_ends_locked :
    let s := (moving 2 .braking (testMove .hold)).modLatch 0 (fun l => { l with state := .locked })
    s.ac[(2 : Axis)].motion = .braking ∧ s.ac[(2 : Axis)].move = some (testMove .hold) ∧ s.latchLocked 2 = true
      ∧ (∀ l ∈ s.latch 2, l.sensorFault = false) ∧ s.validity[(2 : Axis)] = .valid ∧ s.st.drive.isSome = true ∧ s.lockWindow 2 s.ac[(2 : Axis)].position = none
      ∧ (after (.brakingEnd 2) s).validity[(2 : Axis)] = .unverified := by
  decide +kernel
theorem witness_end_reaches_scene :
    let s := inScene 0 .braking .granted { testMove .scene with pending := some .stalled }
    s.Quiet ∧ s.ac[(0 : Axis)].motion = .braking ∧ (s.ac[(0 : Axis)].move.map (fun m => (m.kind, m.job, m.pending))) = some (.scene, some 0, some .stalled)
      ∧ s.jm.slots[(0 : Slot)] = some (testScene .body .granted 0) ∧ (testScene .body .granted 0).outcome = none := by
  unfold State.Quiet; decide +kernel
theorem witness_dwell_ends :
    (moving 0 .dwell (testMove .hold)).ac[(0 : Axis)].motion = .dwell ∧ (moving 0 .dwell (testMove .hold)).Quiet
      ∧ (moving 0 .dwell (testMove .hold)).da.wait = [] ∧ ∀ b : Axis, (moving 0 .dwell (testMove .hold)).heldGrant b = none := by
  unfold State.Quiet; decide +kernel
theorem witness_cooling_steps :
    atRest.Quiet ∧ atRest.tw[(0 : Axis)].cooling.running = true := by
  unfold State.Quiet; decide +kernel
theorem witness_release_sequence :
    (withLatch (fun l => { l with step := .firstPulse })).lc[(0 : LatchNo)].step = .firstPulse ∧ (withLatch (fun l => { l with step := .gap })).lc[(0 : LatchNo)].step = .gap
      ∧ ((moving 2 .releasing (testMove .hold)).modLatch 0 (fun l => { l with step := .retryPulse })).lc[(0 : LatchNo)].step = .retryPulse
      ∧ ((moving 2 .releasing (testMove .hold)).modLatch 0 (fun l => { l with step := .retryPulse })).ac[axisOfLatch 0].motion = .releasing
      ∧ (withLatch (fun l => { l with solenoid := .hold, solenoidTimer := .start })).lc[(0 : LatchNo)].solenoidTimer.running = true := by
  decide +kernel
theorem witness_relock_decided :
    let s := { withLatch (fun l => { l with relock := .pending, relockTimer := .start }) with validity := Vector.replicate 7 Validity.unverified }
    s.Quiet ∧ s.lc[(0 : LatchNo)].relock = .pending ∧ s.lc[(0 : LatchNo)].relockJob = none ∧ s.sp.power ≠ .park ∧ s.lc[(0 : LatchNo)].state = .opened
      ∧ s.validity[axisOfLatch 0] ≠ .valid := by
  unfold State.Quiet; decide +kernel
theorem witness_relock_decided_job :
    let s := (inScene 2 .idle .ended (testMove .scene)).modLatch 0 (fun l => { l with relock := .pending, relockJob := some 0 })
    s.lc[(0 : LatchNo)].relockJob = some 0 ∧ s.jm.slots[(0 : Slot)] = some (testScene .body .ended 2) ∧ (testScene .body .ended 2).state ≠ .done := by
  decide +kernel
theorem witness_latch_opens :
    let s := (moving 2 .releasing (testMove .hold)).modLatch 0 (fun l => { l with state := .locked })
    s.Quiet ∧ s.sp.power ≠ .park ∧ s.lc[(0 : LatchNo)].sensorFault = false ∧ s.lc[(0 : LatchNo)].firstReading = false ∧ s.lc[(0 : LatchNo)].state = .locked
      ∧ s.ac[axisOfLatch 0].motion = .releasing ∧ s.ac[axisOfLatch 0].move = some (testMove .hold) := by
  unfold State.Quiet; decide +kernel
theorem witness_latch_opens_at_rest :
    let s := withLatch (fun l => { l with state := .locked })
    s.ac[axisOfLatch 0].motion = .idle ∧ s.lc[(0 : LatchNo)].solenoid = .off ∧ (moving 2 .running (testMove .hold)).ac[axisOfLatch 0].motion = .running := by
  decide +kernel
theorem witness_sensor_faults :
    let s := moving 2 .running (testMove .hold)
    s.sp.power ≠ .park ∧ s.lc[(0 : LatchNo)].sensorFault = false ∧ s.lc[(0 : LatchNo)].firstReading = false ∧ s.lc[(0 : LatchNo)].state = .opened
      ∧ s.validity[axisOfLatch 0] = .valid ∧ s.st.drive.isSome = true ∧ s.lockWindow 2 s.ac[(2 : Axis)].position = none ∧ s.ac[(2 : Axis)].motion.driving = true
      ∧ s.lc[(0 : LatchNo)].relock ≠ .pending := by
  decide +kernel
theorem witness_sensor_fault_window_edges :
    atRest.lockWindow 2 200 = some (0, 200) ∧ atRest.lockWindow 2 201 = none ∧ atRest.lockWindow 2 2799 = none ∧ atRest.lockWindow 2 2800 = some (2800, 3000) := by
  decide +kernel
theorem witness_service_write_ends :
    (writing .service).Quiet ∧ (writing .service).st.write = some (testWrite .service) ∧ (writing .service).st.resetQueued = none
      ∧ (testWrite .service).bytes = [(4 * 16, 1#8), (4 * 16 + 1, 2#8), (4 * 16 + 2, 3#8), (4 * 16 + 3, 4#8)]
      ∧ (withStore (writing .service) (fun c => { c with markerQueued := true })).st.markerQueued = true
      ∧ (withStore (writing .service) (fun c => { c with resetQueued := some 5#4 })).st.resetQueued = some 5#4 := by
  unfold State.Quiet; decide +kernel
theorem witness_marker_write_ends :
    let s := withGrant (writing .marker) 0 true
    s.Quiet ∧ s.st.write = some (testWrite .marker) ∧ s.st.resetQueued = none ∧ s.st.drive.isSome = true ∧ (∀ l : LatchNo, s.lc[l].relock ≠ .pending)
      ∧ s.heldGrant 0 = some (testGrant 0 true) ∧ s.heldGrant 1 = none := by
  unfold State.Quiet; decide +kernel
theorem witness_supply_pauses :
    5999 < 6000 ∧ 6000 ≤ 8999 ∧ 8999 < 9000 ∧ 18000 < 18001 ∧ (moving 0 .running (testMove .hold)).sp.cond = .normal
      ∧ (moving 0 .running (testMove .hold)).ac[(0 : Axis)].motion.driving = true ∧ (withSupply (fun c => { c with cond := .pausedWindow })).sp.cond ≠ .normal := by
  decide +kernel
theorem witness_supply_resumes :
    (withSupply (fun c => { c with cond := .pausedWindow })).sp.cond = .pausedWindow ∧ (withSupply (fun c => { c with cond := .pausedExpired })).sp.cond = .pausedExpired
      ∧ atRest.sp.cond = .normal ∧ 17000 < 17001 ∧ (∃ w ∈ [({ axis := 0, phase := 0, target := 2000, speed := .normal, state := .paused, timer := .start, lastEnd := none, lastPos := none, onTarget := none } : Row)], w.state = .paused)
      ∧ (testScene .body .paused 0).state = .active ∧ (testScene .body .paused 0).outcome = none ∧ (testScene .body .paused 0).cls = .scene := by
  decide +kernel
theorem witness_power_up :
    State.reset.Quiet ∧ State.reset.st.loaded = false ∧ State.reset.sp.wakingOver = false ∧ State.reset.da.wait = []
      ∧ (∀ a : Axis, State.reset.heldGrant a = none) ∧ State.reset.sp.power = .waking ∧ State.reset.sp.waking.running = true ∧ (loadStore State.reset.st).learned = none
      ∧ (loadStore State.reset.st).drive = none ∧ (writing .service).st.write = some (testWrite .service) := by
  unfold State.Quiet; decide +kernel
theorem witness_power_up_loaded :
    let s := withSupply (fun c => { c with power := .waking, waking := .start })
    s.sp.power = .waking ∧ s.sp.waking.running = true ∧ s.st.loaded = true ∧ ∀ l : LatchNo, s.lc[l].checkDue = false := by
  decide +kernel
theorem witness_park_and_wake :
    (withSupply (fun c => { c with parkQuiet := .start })).sp.parkQuiet.running = true ∧ atRest.st.write = none
      ∧ (writing .park).st.write = some (testWrite .park) ∧ (writing .park).sp.wakePending = false
      ∧ ({ writing .park with sp := { atRest.sp with power := .park, wakePending := true } } : State).sp.wakePending = true ∧ (inPower .park).st.write = none := by
  decide +kernel
theorem witness_park_keeps_what_it_wrote :
    let s := withStore atRest (fun c => { c with learnedArea := some (1969, 79) })
    s.StoreGood ∧ (∀ a : Axis, s.ac[a].InRange) ∧ (∀ a : Axis, s.tw[a].heat ≤ 65535 ∧ s.tw[a].moves ≤ 16777215) ∧ s.st.learnedArea = some (1969, 79) ∧ 79 ≤ 79
      ∧ 1969 + 79 ≤ 2048 := by
  unfold State.StoreGood Channel.InRange; decide +kernel
theorem witness_port_events_sent :
    (sending atRest (.answer .body)).Quiet ∧ (sending atRest (.answer .body)).np.busOff = false ∧ (sending holding (.result 0)).np.busOff = false
      ∧ ({ atRest with jm := { atRest.jm with doneList := [0] } } : State).jm.doneList = 0 :: [] := by
  unfold State.Quiet; decide +kernel
theorem witness_port_events_errors :
    255 < 248 + 8 ∧ ¬ 255 < 247 + 8 ∧ ({ atRest with np := { atRest.np with busOff := true } } : State).np.busOff = true := by
  decide +kernel
theorem witness_port_events_page :
    atRest.np.tx = none ∧ atRest.np.busOff = false ∧ atRest.sp.power ≠ .park ∧ atRest.jm.answers = Vector.replicate 4 none ∧ atRest.jm.doneList = []
      ∧ atRest.np.rows = [] ∧ ∀ q : PageNo, q < 0 → atRest.np.pages[q].due = false := by
  decide +kernel
theorem witness_pad_events_press :
    atRest.Quiet ∧ atRest.sp.power = .active ∧ atRest.ps[padNo .left].isPressed .slideFwd = false ∧ atRest.ps[padNo .left].cond = .free ∧ atRest.activeScenes = []
      ∧ atRest.st.service = false ∧ serviceMode.st.service = true ∧ padMove .left .slideFwd = some (0, .positive) ∧ atRest.holdCheck 0 .positive = none
      ∧ atRest.jm.slots[padSlot .left] = none ∧ (withChan atRest 0 (fun c => { c with lockedOut := true })).holdCheck 0 .positive = some (.bare .lockedOut) := by
  unfold State.Quiet; decide +kernel
theorem witness_pad_events_scene :
    (inScene 1 .running .granted (testMove .scene)).activeScenes = [0] ∧ (inPower .waking).sp.power = .waking
      ∧ atRest.runCheck false (atRest.accessNumber .left) = .error (.bare .unknownArrangement) := by
  and_intros <;> rfl
theorem witness_pad_events_release :
    (withPad atRest (.engaged .slideFwd) .slideFwd).ps[padNo .left].isPressed .slideFwd = true
      ∧ (withPad atRest (.engaged .slideFwd) .slideFwd).ps[padNo .left].cond = .engaged .slideFwd ∧ Button.slideFwd ≠ .access
      ∧ (withPad atRest .free .slideFwd).ps[padNo .left].cond ≠ .engaged .slideFwd ∧ atRest.jm.slots[padSlot .left] = none := by
  decide +kernel
/-- The marker at 1: the grant of the first entry is held for the marker write. -/
theorem witness_first_entry_held :
    let s := waiting (withSupply (fun c => { c with marker := true })) (holdEntry 0)
    s.sp.marker = true ∧ s.da.wait = [holdEntry 0] ∧ (∀ a : Axis, s.heldGrant a = none) ∧ s.driveAxis 0 = some (testAxis 0)
      ∧ s.terminalTest (holdEntry 0) = none ∧ s.decideEntry (holdEntry 0) = .grant none (some 3000) none ∧ s.st.write = none := by
  decide +kernel
/-- The pads' jobs stand in their own slots where no other slot names a pad as its source. -/
theorem padsPlaced_of {u : JobManager} (h : ∀ j : Slot, (u.slots[j].map Job.source = some (.pad .left) → j = padSlot .left)
    ∧ (u.slots[j].map Job.source = some (.pad .right) → j = padSlot .right)) : u.PadsPlaced := by
  intro j x p hx hp
  cases p
  · exact (h j).1 (by rw [hx, Option.map_some, hp])
  · exact (h j).2 (by rw [hx, Option.map_some, hp])
/-- A pad's hold job, pads in their own slots. -/
def padHolding : State := atRest.takeSlot (padSlot .left) (holdJob (.pad .left) 0#4 (some .slideFwd) 0 .positive .stopped)
theorem witness_stop_all_stops_pads :
    padHolding.jm.PadsPlaced ∧ padHolding.Quiet ∧ padHolding.Hears 0x644#11 .restraint ∧ padSlot .left ∈ padHolding.jm.attended
      ∧ (padHolding.jm.slots[padSlot .left].map (fun x => (x.source, x.state))) = some (.pad .left, .active) := by
  refine ⟨padsPlaced_of (by decide +kernel), ?_⟩; unfold State.Quiet State.Hears; decide +kernel
/-- A homing job of A0 in a stage, with what is left of its list. -/
def homingJob (list : List Axis) (stage : HomingStage) : State :=
  let x := atRest.homeJob .service 5#4 1#7
  withJob atRest { x with homing := x.homing.map (fun h => { h with list := list, stage := stage }) }
theorem witness_home_steps :
    ((homingJob [0] .idle).jm.slots[(0 : Slot)].bind (fun x => x.homing.map (fun h => (x.state, x.outcome, x.cls, h.list, h.stage))))
        = some (.active, none, .service, [0], .idle)
      ∧ (homingJob [0] .idle).entryOf 0 = none
      ∧ ((homingJob [] .idle).jm.slots[(0 : Slot)].bind (fun x => x.homing.map Homing.list)) = some []
      ∧ ((homingJob [0] .drive).jm.slots[(0 : Slot)].bind (fun x => x.homing.map (fun h => (x.scene, h.list.head?, h.stage)))) = some (none, some 0, .drive)
      ∧ ((homingJob [0] (.backOff 1)).jm.slots[(0 : Slot)].bind (fun x => x.homing.map Homing.stage)) = some (.backOff 1) := by
  and_intros <;> rfl
/-- Rows that are skipped, enter the wait list, and are deferred: 10 and 11 counts away (tolerance 10), and a target beyond the soft limit. -/
theorem witness_scene_rows :
    dist 1990 2000 ≤ atRest.tolerance 0 ∧ atRest.tolerance 0 < dist 1989 2000
      ∧ atRest.within 0 2000 = true ∧ atRest.within 0 3000 = true ∧ atRest.within 0 3001 = false
      ∧ atRest.validity[(0 : Axis)] = .valid ∧ atRest.entryOf 0 = none
      ∧ ({ atRest with validity := Vector.replicate 7 Validity.unverified } : State).validity[(0 : Axis)] ≠ .valid
      ∧ ((testScene .body .deferred 0).row 0).map Row.state = some .deferred ∧ (testScene .body .deferred 0).cls = .scene := by
  decide +kernel
/-- A phase whose one row is ENDED in DONE, one whose one row is WAITING, and one whose one row is DEFERRED while nothing moves. -/
theorem witness_scene_phases :
    ((testScene .body .deferred 0).scene.map Scene.phase) = some (some 0)
      ∧ ((testScene .body .deferred 0).scene.map (fun sc => sc.rows.map Row.state)) = some [.deferred]
      ∧ ((testScene .body .skipped 0).scene.map (fun sc => sc.rows.map Row.state)) = some [.skipped]
      ∧ ((testScene .body .waiting 0).scene.map (fun sc => sc.rows.map Row.state)) = some [.waiting]
      ∧ (∀ a : Axis, (withJob atRest (testScene .body .deferred 0)).ac[a].motion = .idle) := by
  decide +kernel
/-- The end of a move that met an obstruction, and that of its back-off. -/
def testEnd (kind : MoveKind) (code : Code) : MoveEnd where
  axis := 0
  slot := 0
  kind := kind
  code := code
  pred := none
  position := 1500
  onTarget := false
  pauseEnd := none
theorem witness_scene_takes_end :
    (withJob atRest (testScene .body .granted 0)).jm.slots[(testEnd .scene .obstructed).slot] = some (testScene .body .granted 0)
      ∧ ((testScene .body .granted 0).row (testEnd .scene .obstructed).axis).map Row.state = some .granted
      ∧ (withJob atRest (testScene .body .granted 0)).entryOf (testEnd .scene .obstructed).axis = none
      ∧ ((testScene .body .backingOff 0).row (testEnd .backOff .done).axis).map Row.state = some .backingOff := by
  and_intros <;> rfl
/-- A VALID axis inside its release window whose relock check waits. -/
theorem witness_relock_passes :
    let s := (withLatch (fun l => { l with relock := .pending, relockTimer := .start })).modChan 2 (fun c => { c with position := 200 })
    s.Quiet ∧ s.sp.power ≠ .park ∧ s.lc[(0 : LatchNo)].relock = .pending ∧ s.lc[(0 : LatchNo)].state = .opened ∧ s.validity[(2 : Axis)] = .valid
      ∧ (s.lockWindow 2 s.ac[(2 : Axis)].position).isSome = true ∧ s.lc[(0 : LatchNo)].relockJob = none := by
  unfold State.Quiet; decide +kernel
/-- The first reading after a wake, with the consistency check due: at 200, inside a window, and at 1000, outside both. -/
theorem witness_first_reading :
    let s := withLatch (fun l => { l with firstReading := true, checkDue := true })
    s.Quiet ∧ s.lc[(0 : LatchNo)].firstReading = true ∧ s.lc[(0 : LatchNo)].checkDue = true ∧ s.lc[(0 : LatchNo)].stateBefore = none
      ∧ (s.lockWindow 2 s.ac[(2 : Axis)].position).isSome = false ∧ s.lc[(0 : LatchNo)].relock ≠ .pending
      ∧ (s.lockWindow 2 200).isSome = true ∧ (withLatch (fun l => { l with stateBefore := some .locked })).lc[(0 : LatchNo)].stateBefore = some .locked := by
  unfold State.Quiet; decide +kernel
/-- A pad hold that is taken and granted at once, and an ACCESS press that runs the pad's arrangement. -/
theorem witness_pad_hold_accepted :
    atRest.jm.PadsPlaced ∧ atRest.st.drive.isSome = true ∧ atRest.tw[(0 : Axis)].hot = false ∧ atRest.da.wait = [] ∧ (∀ c : Axis, atRest.heldGrant c = none)
      ∧ (∀ l : LatchNo, axisOfLatch l = 0 → atRest.lc[l].relock ≠ .pending)
      ∧ (after (.padButtonPress .left .slideFwd) atRest).ps[padNo .left].cond = .engaged .slideFwd
      ∧ (after (.padButtonPress .left .slideFwd) atRest).jm.claims[(0 : Axis)] = some (padSlot .left) := by
  exact ⟨padsPlaced_of (by decide +kernel), by decide +kernel⟩
theorem witness_pad_access_accepted :
    let s := withStore atRest (fun c => { c with arrangements := some [{ testArrangement with number := atRest.accessNumber .left }] })
    s.runCheck false (s.accessNumber .left) = .ok { testArrangement with number := atRest.accessNumber .left } ∧ s.jm.slots[padSlot .left] = none
      ∧ (after (.padButtonPress .left .access) s).ps[padNo .left].cond = .engaged .access := by
  and_intros <;> first | rfl | decide +kernel
/-- An engaged pad whose hold is stuck: its job runs until then. -/
theorem witness_pad_stuck :
    let s := withPad padHolding (.engaged .slideFwd) .slideFwd
    s.jm.PadsPlaced ∧ s.Quiet ∧ s.sp.power ≠ .park ∧ s.ps[padNo .left].isPressed .slideFwd = true ∧ s.ps[padNo .left].cond = .engaged .slideFwd
      ∧ (s.jm.slots[padSlot .left].map (fun x => (x.kind, x.state, x.source))) = some (.hold, .active, .pad .left)
      ∧ (after (.padStuck .left .slideFwd) s).ps[padNo .left].cond = .stuck .slideFwd := by
  refine ⟨padsPlaced_of (by decide +kernel), ?_⟩; unfold State.Quiet; decide +kernel
theorem witness_pad_press_other :
    (withPad atRest .free .slideFwd).ps[padNo .left].isPressed .slideFwd = true ∧ (inPower .park).sp.power = .park
      ∧ atRest.ps[padNo .left].isPressed .slideFwd = false := by
  decide +kernel
/-- A clearance rule of A0 and A1, and A1 in its zone: the rule is in force on A0, which stands 491 counts below its guarded zone. -/
def ruled : State :=
  withStore atRest (fun c => { c with rules := some [{ axisA := 0, zoneA := (1500, 2000), axisB := 1, zoneB := (900, 1100), guard := 9 }] })
theorem witness_envelope_rule :
    ruled.envelope 0 = some (100, 1490) ∧ ruled.shareRule 1 0 = true ∧ ruled.within 0 1490 = true ∧ ruled.within 0 1491 = false
      ∧ (withGrant atRest 0 false).occupied 0 = (1000, 3000)
      ∧ ({ atRest with validity := Vector.replicate 7 Validity.unverified } : State).occupied 0 = (100, 3000) := by
  decide +kernel
/-- A scene move whose target lies one count beyond the envelope goes back to its job; a homing drive waits while A1 holds a grant. -/
theorem witness_first_entry_removed :
    let e : WaitEntry := { holdEntry 0 with kind := .scene, target := some 1491 }
    (waiting ruled e).terminalTest e = none ∧ (waiting ruled e).waitTest e = true ∧ (waiting ruled e).decideEntry e = .remove .deferred
      ∧ (withGrant ruled 1 false).waitTest { e with kind := .homing } = true ∧ (withGrant ruled 1 false).decideEntry { e with kind := .homing } = .wait
      ∧ ruled.decideEntry { e with kind := .homing } = .grant none none (some 4900)
      ∧ (withChan ruled 0 (fun c => { c with position := 1480 })).decideEntry (holdEntry 0) = .remove .limited
      ∧ ruled.decideEntry { e with kind := .backOff } = .grant (some 1490) (some 1490) none := by
  decide +kernel
/-- The checks of a kind fail in turn: R99 and R114 on a barred axis, on one that is not VALID, at the edge, and with P0 false. -/
theorem witness_refused_checks :
    let u : State := { atRest with validity := Vector.replicate 7 Validity.unverified }
    let m : State := { atRest with iu := { atRest.iu with vehicle := { atRest.iu.vehicle with speed := some 31 } } }
    u.holdCheck 0 .positive = some (.bare .unverified) ∧ (withChan atRest 0 (fun c => { c with lockedOut := true })).holdCheck 0 .positive = some (.bare .lockedOut)
      ∧ (withChan atRest 0 (fun c => { c with position := 2990 })).holdCheck 0 .positive = some { code := .atLimit, failing := none, detail := some 2990#16 }
      ∧ (withChan atRest 0 (fun c => { c with position := 2989 })).holdCheck 0 .positive = none
      ∧ u.runCheck false 3 = .error { code := .unverified, failing := some 0, detail := none } ∧ atRest.arrangement 3 = some testArrangement
      ∧ m.homeCheck 1#7 = some { code := .notAllowed, failing := none, detail := some 0#16 }
      ∧ (withStore atRest (fun c => { c with rules := none })).runCheck false 3 = .error (.bare .storeInvalid) := by
  and_intros <;> first | rfl | decide +kernel
/-- A hold whose entry still waits, alone on the list. -/
theorem witness_release_waiting :
    let s := waiting (withJob atRest (testHold .body 0)) (holdEntry 0)
    s.Quiet ∧ s.Hears 0x640#11 .body ∧ s.activeHold .body 0 = some 0 ∧ s.da.wait = [holdEntry 0] ∧ (∀ b : Axis, s.heldGrant b = none)
      ∧ (∀ b : Axis, s.ac[b].motion = .idle) ∧ (∀ l : LatchNo, s.lc[l].relock ≠ .pending) ∧ (testHold .body 0).outcome = none
      ∧ (testHold .body 0).waitsPause = false ∧ atRest.activeHold .body 0 = none := by
  unfold State.Quiet State.Hears; decide +kernel
/-- An edge in IDLE under a hold that ends at 220, 20 counts above its window, and one that leaves the window of a LOCKED latch. -/
theorem witness_counted_edges_hold :
    let s := (withChan (moving 2 .idle (testMove .hold)) 2 (fun c => { c with position := 219 })).modLatch 0
      (fun l => { l with solenoid := .hold, window := some (0, 200) })
    let u := (withChan (moving 2 .running (testMove .hold)) 2 (fun c => { c with position := 200 })).modLatch 0 (fun l => { l with state := .locked })
    s.Quiet ∧ s.solenoidDriven 2 = true ∧ s.ac[(2 : Axis)].lastDir = .positive ∧ axisOfLatch 0 = 2 ∧ s.lc[(0 : LatchNo)].window = some (0, 200)
      ∧ (s.countEdge 2 220).sensorFaulty 2 = false ∧ (after (.hallEdge 2 2000) s).lc[(0 : LatchNo)].solenoid = .off
      ∧ u.lc[(0 : LatchNo)].sensorFault = false ∧ u.validity[(2 : Axis)] = .valid ∧ u.lockWindow 2 201 = none
      ∧ (after (.hallEdge 2 2000) u).ac[(2 : Axis)].lockedOut = true := by
  unfold State.Quiet; decide +kernel
/-- A homing drive that counts on at 0 in RELEASING and in DWELL, and an axis in IDLE at 0 with its solenoid driven. -/
theorem witness_edges_at_the_ends_states :
    let c (v : Motion) (k : MoveKind) : State := withChan (moving 2 v (testMove k)) 2 (fun c => { c with lastDir := .negative, position := 0 })
    (∀ v ∈ [Motion.releasing, .dwell], (c v .homing).ac[(2 : Axis)].motion ≠ .idle ∧ ((c v .homing).countEdge 2 0).sensorFaulty 2 = false
      ∧ (after (.hallEdge 2 2000) (c v .homing)).validity[(2 : Axis)] = .valid)
      ∧ ((c .idle .hold).modLatch 0 (fun l => { l with solenoid := .hold })).solenoidDriven 2 = true
      ∧ (after (.hallEdge 2 2000) ((c .idle .hold).modLatch 0 (fun l => { l with solenoid := .hold }))).validity[(2 : Axis)] = .unhomed := by
  decide +kernel
/-- A LOCKED reading with no check pending, at 200 inside a window. -/
theorem witness_locked_reading :
    let s := (withLatch (fun l => l)).modChan 2 (fun c => { c with position := 200 })
    s.Quiet ∧ s.sp.power ≠ .park ∧ s.lc[(0 : LatchNo)].sensorFault = false ∧ s.lc[(0 : LatchNo)].firstReading = false
      ∧ s.lc[(0 : LatchNo)].relock ≠ .pending ∧ s.lc[(0 : LatchNo)].state = .opened ∧ (s.lockWindow (axisOfLatch 0) s.ac[axisOfLatch 0].position).isSome = true
      ∧ (withLatch (fun l => { l with state := .locked })).lc[(0 : LatchNo)].state = .locked := by
  unfold State.Quiet; decide +kernel
/-- What a resume finds: a PAUSED move 1000 counts from its target, one 10 counts from it, and paused homings. -/
theorem witness_resume_takes :
    ((testScene .body .paused 0).row 0).map (fun w => (w.state, w.target)) = some (.paused, 2000) ∧ (withJob atRest (testScene .body .paused 0)).entryOf 0 = none
      ∧ atRest.tolerance 0 < dist atRest.ac[(0 : Axis)].position 2000 ∧ dist 1990 2000 ≤ atRest.tolerance 0
      ∧ ((homingJob [0] .pausedDrive).jm.slots[(0 : Slot)].bind (fun x => x.homing.map (fun h => (x.state, x.outcome, h.list, h.stage))))
        = some (.active, none, [0], .pausedDrive)
      ∧ ((homingJob [0] (.pausedBackOff 150)).jm.slots[(0 : Slot)].bind (fun x => x.homing.map Homing.stage)) = some (.pausedBackOff 150)
      ∧ (homingJob [0] (.pausedBackOff 150)).entryOf 0 = none := by
  and_intros <;> first | rfl | decide +kernel
/-- The end of WAKING with a button held on a FREE pad. -/
theorem witness_power_up_held_button :
    let s := withPad (withSupply (fun c => { c with power := .waking, waking := .start })) .free .slideFwd
    s.sp.power = .waking ∧ s.sp.waking.running = true ∧ s.st.loaded = true ∧ s.Quiet ∧ s.da.wait = [] ∧ (∀ a : Axis, s.heldGrant a = none)
      ∧ s.ps[padNo .left].pressed = [(.slideFwd, .start)] ∧ s.ps[padNo .right].pressed = []
      ∧ (after .wakingEnd s).ps[padNo .left].cond = .engaged .slideFwd := by
  unfold State.Quiet; decide +kernel
/-- Frames in PARK and in bus-off, and data frames of 5 and 3 bytes. -/
theorem witness_frames_unheard :
    (inPower .park).sp.power = .park ∧ ({ atRest with np := { atRest.np with busOff := true } } : State).np.busOff = true ∧ atRest.sp.power ≠ .park
      ∧ [0#8, 0#8, 0#8, 0#8, 0#8].length < 6 ∧ [0#8, 0#8, 0#8].length < 4 ∧ (after (.stopAll 0x640#11 5#4) (inPower .park)).sp.power = .waking := by
  decide +kernel
/-- An answer that waits behind a page: NO_JOB, 0x28, on 0x641 by Table 3; a row that waits; and page 4 due. -/
theorem witness_port_events_next :
    let a : Answer := { kind := 3#8, tag := 5#4, code := .noJob, failing := none, detail := 0#16, read := none, overrun := false, loaded := false, replaced := false }
    let s := (sending atRest (.page 0)).setAnswer .body (some a)
    let u := sending { atRest with np := { atRest.np with rows := [(4, 1)] } } (.row 4 0)
    let v := sending (atRest.modPage 4 (fun p => { p with due := true })) (.page 0)
    s.Quiet ∧ s.sp.power ≠ .park ∧ s.np.busOff = false ∧ s.jm.answers[roleNo .body] = some a ∧ u.jm.answers = Vector.replicate 4 none ∧ u.jm.doneList = []
      ∧ (after .frameSent s).np.tx.map (fun f => (f.id, f.data)) = some (0x641#11, [3#8, 5#8, 0x28#8, 0xFF#8, 0xFF#8, 0#8, 0#8, 0#8])
      ∧ (after .frameSent u).np.tx.map (fun f => (f.id, f.source)) = some (0x664#11, .row 4 1)
      ∧ v.np.pages[(4 : PageNo)].due = true ∧ v.np.rows = [] := by
  unfold State.Quiet; decide +kernel
theorem witness_step_keeps_store : State.reset.StoreGood ∧ ∃ t, step State.reset = .next t := ⟨by unfold State.StoreGood; decide +kernel, _, rfl⟩
theorem witness_step_keeps_channels : State.reset.ChannelsGood ∧ ∃ t, step State.reset = .next t :=
  ⟨by unfold State.ChannelsGood Channel.InRange; decide +kernel, _, rfl⟩

end Tests
end Sys2Proof
end

section
/-! The Cabin Map (01): membership in the fixed lists, what each test of R9, R12, R13, R15 and R16 says, and FLAT_FLOOR's obligation. -/

namespace Sys2Proof
namespace Machine

/-! ## The fixed lists, axis sets and latches -/

@[simp] theorem mem_axes (a : Axis) : a ∈ axes := by revert a; decide
@[simp] theorem mem_latches (l : LatchNo) : l ∈ latches := by revert l; decide
@[simp] theorem mem_legNos (l : Leg) : l ∈ legNos := by revert l; decide
@[simp] theorem mem_seatNos (n : SeatNo) : n ∈ seatNos := by revert n; decide

@[simp] theorem AxisSet.mem_list_iff {m : AxisSet} {a : Axis} : a ∈ AxisSet.list m ↔ AxisSet.has m a = true := by
  simp [AxisSet.list]

@[simp] theorem latchOf_axisOfLatch (l : LatchNo) : latchOf (axisOfLatch l) = some l := by revert l; decide
@[simp] theorem isLatched_axisOfLatch (l : LatchNo) : isLatched (axisOfLatch l) = true := by revert l; decide

/-- A latch's lock window holds no count exactly when the count lies outside both windows of its axis, read from a valid DRIVE (R63). -/
theorem State.lockWindow_isNone_iff (s : State) (l : LatchNo) (p : Nat) :
    (s.st.drive.isSome = true ∧ (s.lockWindow (axisOfLatch l) p).isNone = true) ↔ ∃ d, s.driveAxis (axisOfLatch l) = some d
      ∧ ¬ (d.upright.1 ≤ p ∧ p ≤ d.upright.2) ∧ ¬ (d.folded.1 ≤ p ∧ p ≤ d.folded.2) := by
  unfold State.lockWindow State.driveAxis
  cases s.st.drive with
  | none => simp
  | some c =>
    simp only [isLatched_axisOfLatch, Option.map_some, Option.isSome_some, if_true, true_and, Option.some.injEq, exists_eq_left']
    split
    next upright => exact iff_of_false Bool.false_ne_true fun outside => outside.1 upright
    next upright =>
      split
      next folded => exact iff_of_false Bool.false_ne_true fun outside => outside.2 folded
      next folded => exact iff_of_true rfl ⟨upright, folded⟩

/-! ## MOTION and the moving axis (R9, R13) -/

/-- What is not at rest is RELEASING, STARTING, RUNNING or BRAKING. -/
theorem Motion.not_atRest_iff (m : Motion) : (!m.atRest) = true ↔ m ∈ [.releasing, .starting, .running, .braking] := by
  cases m <;> decide

theorem State.motionFlag_iff (s : State) :
    s.motionFlag = true ↔ ∃ a : Axis, s.ac[a].motion ∈ [.releasing, .starting, .running, .braking] := by
  simp only [State.motionFlag, List.any_eq_true, mem_axes, true_and, Motion.not_atRest_iff]

theorem State.axisMoving_iff (s : State) (a : Axis) :
    s.axisMoving a = true ↔ s.jm.claims[a].isSome = true ∨ s.ac[a].motion ∈ [.releasing, .starting, .running, .braking] := by
  rw [State.axisMoving, Bool.or_eq_true, Motion.not_atRest_iff]

/-! ## Condition lists and the steps of R13 -/

theorem State.listMatches_iff (s : State) (l : List Term) :
    s.listMatches l = true ↔ l ≠ [] ∧ ∀ t ∈ l, t.lo ≤ s.ac[t.axis].position ∧ s.ac[t.axis].position ≤ t.hi := by
  simp [State.listMatches, State.termHolds]

theorem State.any_notValid_iff (s : State) (m : AxisSet) :
    (AxisSet.list m).any (fun a => s.validity[a] != .valid) = true ↔ ∃ a : Axis, AxisSet.has m a = true ∧ s.validity[a] ≠ .valid := by
  simp only [List.any_eq_true, AxisSet.mem_list_iff, bne_iff_ne]

theorem State.any_axisMoving_iff (s : State) (m : AxisSet) :
    (AxisSet.list m).any s.axisMoving = true ↔ ∃ a : Axis, AxisSet.has m a = true
      ∧ (s.jm.claims[a].isSome = true ∨ s.ac[a].motion ∈ [.releasing, .starting, .running, .braking]) := by
  simp only [List.any_eq_true, AxisSet.mem_list_iff, State.axisMoving_iff]

theorem State.latchedOrNone_iff (s : State) (a : Axis) :
    s.latchedOrNone a = true ↔ ∀ l : LatchNo, axisOfLatch l = a → s.lc[l].state = .locked := by
  unfold State.latchedOrNone State.latch
  cases hl : latchOf a with
  | none =>
    have without : ∀ l : LatchNo, axisOfLatch l ≠ a := by
      rintro l rfl
      simp at hl
    simp [without]
  | some k =>
    have only : ∀ l : LatchNo, axisOfLatch l = a ↔ l = k := fun l =>
      ⟨fun h => by simpa [← h] using hl, fun h => h ▸ axisOfLatch_of hl⟩
    simp [only]

theorem State.all_latchedOrNone_iff (s : State) (m : AxisSet) :
    (AxisSet.list m).all s.latchedOrNone = true ↔ ∀ l : LatchNo, AxisSet.has m (axisOfLatch l) = true → s.lc[l].state = .locked := by
  simp only [List.all_eq_true, AxisSet.mem_list_iff, State.latchedOrNone_iff]
  exact ⟨fun h l hl => h _ hl l rfl, fun h _ ha l e => h l (e ▸ ha)⟩

/-! ## The use state of a seat (R13) -/

theorem seatNo_front_iff (n : SeatNo) : n = 0 ∨ n = 1 ↔ n.val < 2 := by revert n; decide

/-- S0 and S1 are not defined, whatever the store holds (R10). -/
theorem SeatsCopy.def_eq_none_of_lt (c : SeatsCopy) {n : SeatNo} (h : n.val < 2) : c.def n = none := by
  rcases (seatNo_front_iff n).2 h with rfl | rfl <;> rfl

theorem State.seatUse_front (s : State) {n : SeatNo} (h : n.val < 2) : s.seatUse n = .notManaged := by
  rw [State.seatUse, if_pos ((seatNo_front_iff n).2 h)]

theorem State.seatUse_seats_invalid (s : State) {n : SeatNo} (h : 2 ≤ n.val) (hs : s.st.seats = none) : s.seatUse n = .unknown := by
  have rear : ¬ (n = 0 ∨ n = 1) := by rw [seatNo_front_iff]; omega
  simp only [State.seatUse, if_neg rear, hs]

theorem State.seatUse_undefined (s : State) {n : SeatNo} {c : SeatsCopy} (hs : s.st.seats = some c) (hd : c.def n = none) :
    s.seatUse n = .notManaged := by
  simp only [State.seatUse, hs, hd, ite_self]

/-- The use state of a defined seat is the first step of R13 from UNKNOWN on whose test holds. -/
theorem State.seatUse_defined (s : State) {n : SeatNo} {c : SeatsCopy} {d : SeatDef} (hs : s.st.seats = some c) (hd : c.def n = some d) :
    s.seatUse n =
      if (AxisSet.list d.axes).any (fun a => s.validity[a] != .valid) then .unknown
      else if (AxisSet.list d.axes).any s.axisMoving then .moving
      else if s.listMatches d.usable && (AxisSet.list d.axes).all s.latchedOrNone then .usable
      else if s.listMatches d.stowed then .stowed
      else if s.listMatches d.folded then .folded
      else .between := by
  have rear : ¬ (n = 0 ∨ n = 1) := by
    intro front
    rw [c.def_eq_none_of_lt ((seatNo_front_iff n).1 front)] at hd
    cases hd
  simp only [State.seatUse, if_neg rear, hs, hd]

/-- In the order of R13 each state says that its own test holds and every test before it fails. -/
theorem SeatUse.first_of_order {u : SeatUse} {lost moves usable stowed folded : Prop} [Decidable lost] [Decidable moves] [Decidable usable]
    [Decidable stowed] [Decidable folded]
    (h : u = if lost then .unknown else if moves then .moving else if usable then .usable else if stowed then .stowed
      else if folded then .folded else .between) :
    (u = .unknown ↔ lost) ∧ (u = .moving ↔ ¬ lost ∧ moves) ∧ (u = .usable ↔ ¬ lost ∧ ¬ moves ∧ usable)
      ∧ (u = .stowed ↔ ¬ lost ∧ ¬ moves ∧ ¬ usable ∧ stowed) ∧ (u = .folded ↔ ¬ lost ∧ ¬ moves ∧ ¬ usable ∧ ¬ stowed ∧ folded)
      ∧ (u = .between ↔ ¬ lost ∧ ¬ moves ∧ ¬ usable ∧ ¬ stowed ∧ ¬ folded) := by
  subst h
  by_cases hlost : lost
  · simp [hlost]
  by_cases hmoves : moves
  · simp [hlost, hmoves]
  by_cases husable : usable
  · simp [hlost, hmoves, husable]
  by_cases hstowed : stowed
  · simp [hlost, hmoves, husable, hstowed]
  by_cases hfolded : folded <;> simp [hlost, hmoves, husable, hstowed, hfolded]

/-! ## The cabin flags and FAULT_PRESENT -/

theorem State.flatFloor_iff (s : State) :
    s.flatFloor = true ↔ ∃ c, s.st.seats = some c ∧ c.flatFloor ≠ 0#7
      ∧ ∀ n : SeatNo, c.flatFloor.getLsbD n.val = true → s.seatUse n = .folded ∨ s.seatUse n = .stowed := by
  have member (b p q : Bool) : (!b || p || q) = true ↔ (b = true → p = true ∨ q = true) := by cases b <;> simp
  unfold State.flatFloor
  cases s.st.seats with
  | none => simp
  | some c =>
    simp only [Bool.and_eq_true, bne_iff_ne, List.all_eq_true, mem_seatNos, true_imp_iff, member, beq_iff_eq, Option.some.injEq, exists_eq_left']

theorem State.allLatchesLocked_iff (s : State) :
    s.allLatchesLocked = true ↔ ∀ l : LatchNo, s.lc[l].state = .locked ∨ (s.lc[l].state = .opened ∧ s.validity[axisOfLatch l] = .valid
      ∧ ∃ d, s.driveAxis (axisOfLatch l) = some d
        ∧ ¬ (d.upright.1 ≤ s.ac[axisOfLatch l].position ∧ s.ac[axisOfLatch l].position ≤ d.upright.2)
        ∧ ¬ (d.folded.1 ≤ s.ac[axisOfLatch l].position ∧ s.ac[axisOfLatch l].position ≤ d.folded.2)) := by
  simp only [State.allLatchesLocked, List.all_eq_true, mem_latches, true_imp_iff, Bool.or_eq_true, Bool.and_eq_true, beq_iff_eq, and_assoc,
    State.lockWindow_isNone_iff]

theorem State.faultPresent_iff (s : State) :
    s.faultPresent = true ↔
      (∃ a : Axis, s.ac[a].stall = true ∨ s.ac[a].obstruction = true ∨ s.ac[a].overcurrent = true ∨ s.ac[a].lockedOut = true)
        ∨ ∃ l : Leg, s.da.legFault[l] = true := by
  simp only [State.faultPresent, Bool.or_eq_true, List.any_eq_true, mem_axes, mem_legNos, true_and, or_assoc]

end Machine

open Machine

/-- Settles O10: each flag by what its tests say, the use state by the order of R13. -/
theorem flatFloor : Obligations.FlatFloor := by
  intro s
  refine ⟨s.flatFloor_iff, s.allLatchesLocked_iff, s.faultPresent_iff, s.motionFlag_iff, fun n => ?_⟩
  refine ⟨s.seatUse_front, s.seatUse_seats_invalid, fun _ => s.seatUse_undefined, fun c d hs hd => ?_⟩
  have order := SeatUse.first_of_order (s.seatUse_defined hs hd)
  simp only [Bool.and_eq_true, s.any_notValid_iff, s.any_axisMoving_iff, s.listMatches_iff, s.all_latchedOrNone_iff] at order
  exact order

end Sys2Proof
end

section
/-! The Envelope Unit (05): occupied intervals by the rows of R79, the narrowing and the whole envelope as a test on counts, and R84's obligation. -/

namespace Sys2Proof
namespace Machine

/-! ## Occupied intervals (R79) -/

theorem State.softRange_of_drive {s : State} {y : Axis} {d : DriveAxis} (hd : s.driveAxis y = some d) :
    s.softRange y = (d.softLo, d.softHi) := by
  rw [State.softRange, hd]

/-- The first row of R79, first half: the validity comes before the grant. -/
theorem State.occupied_of_notValid {s : State} {y : Axis} (hv : s.validity[y] ≠ .valid) : s.occupied y = s.softRange y := by
  rw [State.occupied, if_pos (bne_iff_ne.2 hv)]

/-- The first row of R79, second half: a homing drive, whatever the validity. -/
theorem State.occupied_of_homing {s : State} {y : Axis} {g : Grant} (hg : s.da.grants[y] = some g) (hk : g.entry.kind = .homing) :
    s.occupied y = s.softRange y := by
  simp only [State.occupied, hg, if_pos hk, ite_self]

/-- The second row of R79. -/
theorem State.occupied_of_grant {s : State} {y : Axis} {g : Grant} {z : Nat} (hv : s.validity[y] = .valid) (hg : s.da.grants[y] = some g)
    (hk : g.entry.kind ≠ .homing) (hz : g.stop = some z) : s.occupied y = hull s.ac[y].position z := by
  simp only [State.occupied, hv, bne_self_eq_false, Bool.false_eq_true, if_false, hg, if_neg hk, hz]

/-- The last row of R79. -/
theorem State.occupied_of_noGrant {s : State} {y : Axis} (hv : s.validity[y] = .valid) (hg : s.da.grants[y] = none) :
    s.occupied y = (s.ac[y].position, s.ac[y].position) := by
  simp only [State.occupied, hv, bne_self_eq_false, Bool.false_eq_true, if_false, hg]

/-! ## The start interval and one narrowing, as tests on a count (R81, R83) -/

/-- An axis at p may, as far as the guarded zone z goes, stand at q: on its own side of the zone, or toward the nearer edge from within it, the lower
edge at equal distances (R83). -/
def Admits (p : Nat) (z : Nat × Nat) (q : Nat) : Prop :=
  if p < z.1 then q < z.1
  else if z.2 < p then z.2 < q
  else if p - z.1 ≤ z.2 - p then q ≤ p
  else p ≤ q

/-- No zone keeps an axis from where it stands (R84). -/
theorem admits_self (p : Nat) (z : Nat × Nat) : Admits p z p := by
  unfold Admits
  split
  next below => exact below
  next =>
    split
    next above => exact above
    next => split <;> exact Nat.le_refl p

theorem mem_startInterval_iff {p lo hi : Nat} (q : Nat) (order : lo ≤ hi) :
    ((startInterval p lo hi).1 ≤ q ∧ q ≤ (startInterval p lo hi).2) ↔ (min p lo ≤ q ∧ q ≤ max p hi) := by
  unfold startInterval
  split
  next => omega
  next =>
    split
    next => omega
    next => omega

/-- A narrowing takes from an interval just the counts its zone does not admit (R83). -/
theorem mem_narrow_iff (p : Nat) (z e : Nat × Nat) (q : Nat) :
    ((narrow p z e).1 ≤ q ∧ q ≤ (narrow p z e).2) ↔ (e.1 ≤ q ∧ q ≤ e.2) ∧ Admits p z q := by
  unfold narrow Admits
  split
  next => omega
  next =>
    split
    next => omega
    next => split <;> omega

/-! ## The rules of the table (R76, R82, R85) -/

theorem meets_iff (x y : Nat × Nat) : meets x y = true ↔ x.1 ≤ y.2 ∧ y.1 ≤ x.2 := by
  simp only [meets, Bool.and_eq_true, decide_eq_true_eq]

/-- A rule lets x, standing at p, stand at q: it does not name x, is not in force, or its guarded x-zone admits q (R82). -/
def State.RuleAdmits (s : State) (x : Axis) (p q : Nat) (r : Clearance) : Prop :=
  ∀ zx y zy, ruleFor x r = some (zx, y, zy) → meets (s.occupied y) (guarded zy r.guard) = true → Admits p (guarded zx r.guard) q

theorem State.mem_applyRule_iff (s : State) (x : Axis) (p : Nat) (e : Nat × Nat) (r : Clearance) (q : Nat) :
    ((s.applyRule x p e r).1 ≤ q ∧ q ≤ (s.applyRule x p e r).2) ↔ (e.1 ≤ q ∧ q ≤ e.2) ∧ s.RuleAdmits x p q r := by
  unfold State.applyRule State.RuleAdmits
  cases ruleFor x r with
  | none => simp
  | some named =>
    obtain ⟨zx, y, zy⟩ := named
    by_cases inForce : meets (s.occupied y) (guarded zy r.guard) = true
    · simp [inForce, mem_narrow_iff]
    · simp [inForce]

/-- The rules are taken one after the other, and none depends on what those before it did (R84). -/
theorem State.mem_foldl_applyRule_iff (s : State) (x : Axis) (p q : Nat) (rules : List Clearance) (e : Nat × Nat) :
    ((rules.foldl (s.applyRule x p) e).1 ≤ q ∧ q ≤ (rules.foldl (s.applyRule x p) e).2) ↔
      (e.1 ≤ q ∧ q ≤ e.2) ∧ ∀ r ∈ rules, s.RuleAdmits x p q r := by
  induction rules generalizing e with
  | nil => simp
  | cons r rest ih => rw [List.foldl_cons, ih, s.mem_applyRule_iff, List.forall_mem_cons, and_assoc]

/-- The two ways a rule can name an axis: as its axis A, else as its axis B (R76). -/
theorem State.ruleAdmits_iff (s : State) (x : Axis) (p q : Nat) (r : Clearance) :
    s.RuleAdmits x p q r ↔
      (r.axisA = x → meets (s.occupied r.axisB) (guarded r.zoneB r.guard) = true → Admits p (guarded r.zoneA r.guard) q)
        ∧ (r.axisA ≠ x → r.axisB = x → meets (s.occupied r.axisA) (guarded r.zoneA r.guard) = true → Admits p (guarded r.zoneB r.guard) q) := by
  unfold State.RuleAdmits ruleFor
  by_cases isA : r.axisA = x
  · simp [isA]
  · by_cases isB : r.axisB = x <;> simp [isA, isB]

theorem State.shareRule_iff (s : State) (x y : Axis) :
    s.shareRule x y = true ↔ ∃ r ∈ s.ruleTable, (r.axisA = x ∧ r.axisB = y) ∨ (r.axisA = y ∧ r.axisB = x) := by
  simp only [State.shareRule, List.any_eq_true, Bool.or_eq_true, Bool.and_eq_true, beq_iff_eq]

/-! ## The whole envelope (R81 to R86) -/

theorem State.envelope_eq_none_iff (s : State) (x : Axis) : s.envelope x = none ↔ s.validity[x] ≠ .valid ∨ s.driveAxis x = none := by
  unfold State.envelope
  cases s.driveAxis x with
  | none => simp
  | some d => by_cases hv : s.validity[x] = .valid <;> simp [hv]

/-- An available envelope is the start interval narrowed by every rule of the table (R81, R82). -/
theorem State.eq_of_envelope {s : State} {x : Axis} {d : DriveAxis} {e : Nat × Nat} (hd : s.driveAxis x = some d) (he : s.envelope x = some e) :
    e = s.ruleTable.foldl (s.applyRule x s.ac[x].position) (startInterval s.ac[x].position d.softLo d.softHi) := by
  simp only [State.envelope, hd] at he
  split at he
  next => cases he
  next => exact (Option.some.inj he).symm

theorem State.within_iff (s : State) (x : Axis) (t : Nat) : s.within x t = true ↔ ∃ e, s.envelope x = some e ∧ e.1 ≤ t ∧ t ≤ e.2 := by
  unfold State.within
  cases s.envelope x <;> simp

theorem State.mem_envelope_iff {s : State} {x : Axis} {d : DriveAxis} {e : Nat × Nat} (q : Nat) (hd : s.driveAxis x = some d)
    (order : d.softLo ≤ d.softHi) (he : s.envelope x = some e) :
    (e.1 ≤ q ∧ q ≤ e.2) ↔ (min s.ac[x].position d.softLo ≤ q ∧ q ≤ max s.ac[x].position d.softHi)
      ∧ ∀ r ∈ s.ruleTable, s.RuleAdmits x s.ac[x].position q r := by
  rw [State.eq_of_envelope hd he, s.mem_foldl_applyRule_iff, mem_startInterval_iff q order]

/-- R84: the start interval reaches the position, and no rule keeps an axis from where it stands. -/
theorem State.position_mem_envelope {s : State} {x : Axis} {d : DriveAxis} {e : Nat × Nat} (hd : s.driveAxis x = some d)
    (order : d.softLo ≤ d.softHi) (he : s.envelope x = some e) : e.1 ≤ s.ac[x].position ∧ s.ac[x].position ≤ e.2 :=
  (State.mem_envelope_iff _ hd order he).2 ⟨⟨Nat.min_le_left _ _, Nat.le_max_left _ _⟩, fun _ _ _ _ _ _ _ => admits_self _ _⟩

end Machine

open Machine

/-- Settles O12: a count lies in the envelope when the start interval holds it and every rule in force admits it, as both do of the position. -/
theorem envelopeHoldsPosition : Obligations.EnvelopeHoldsPosition := by
  refine ⟨fun _ _ _ _ => State.position_mem_envelope, fun s y => ⟨?notValid, ?homing, ?granted, ?ungranted⟩, State.envelope_eq_none_iff,
    State.within_iff, State.shareRule_iff, fun s x d e q hd order he => ?member⟩
  case notValid => exact fun d hd hv => (State.occupied_of_notValid hv).trans (State.softRange_of_drive hd)
  case homing => exact fun d g hd hg hk => (State.occupied_of_homing hg hk).trans (State.softRange_of_drive hd)
  case granted => exact fun g z => State.occupied_of_grant
  case ungranted => exact State.occupied_of_noGrant
  case member =>
    have member := State.mem_envelope_iff q hd order he
    simp only [s.ruleAdmits_iff, meets_iff] at member
    exact member

end Sys2Proof
end

section
/-! The predicates (08): the seats that carry an axis, the sides of an axis, what each of P0 to P4 asks (R135 to R137), and their obligation. -/

namespace Sys2Proof
namespace Machine

/-! ## The managed seats S2 to S6 and the seats of an axis (R11, R136) -/

/-- The seat whose definition and whose Occupancy stand at an index of the two vectors of five: S2 at 0, S6 at 4. -/
def managedSeat (k : Fin 5) : SeatNo := ⟨k.val + 2, by omega⟩

/-- A managed seat counts for an axis: its definition names the axis, or SEATS is invalid (R136). -/
def State.Carries (s : State) (a : Axis) (k : Fin 5) : Prop :=
  s.st.seats = none ∨ ∃ c d, s.st.seats = some c ∧ c.seat[k] = some d ∧ AxisSet.has d.axes a = true

@[simp] theorem SeatsCopy.def_managedSeat (c : SeatsCopy) (k : Fin 5) : c.def (managedSeat k) = c.seat[k] := by
  match k with
  | 0 | 1 | 2 | 3 | 4 => rfl

@[simp] theorem State.occupant_managedSeat (s : State) (k : Fin 5) : s.occupant (managedSeat k) = some s.iu.seats[k] := by
  match k with
  | 0 | 1 | 2 | 3 | 4 => rfl

theorem exists_eq_managedSeat {n : SeatNo} (h : 2 ≤ n.val) : ∃ k, n = managedSeat k :=
  ⟨⟨n.val - 2, by omega⟩, Fin.ext (by simp only [managedSeat]; omega)⟩

theorem mem_seats_default_iff (n : SeatNo) : n ∈ ([2, 3, 4, 5, 6] : List SeatNo) ↔ ∃ k, n = managedSeat k := by
  revert n; decide

/-- Only a managed seat has a definition (R10). -/
theorem SeatsCopy.exists_of_def {c : SeatsCopy} {n : SeatNo} {d : SeatDef} (hd : c.def n = some d) : ∃ k, n = managedSeat k ∧ c.seat[k] = some d := by
  by_cases front : n.val < 2
  · rw [c.def_eq_none_of_lt front] at hd
    cases hd
  · obtain ⟨k, rfl⟩ := exists_eq_managedSeat (Nat.le_of_not_lt front)
    exact ⟨k, rfl, (c.def_managedSeat k).symm.trans hd⟩

theorem State.mem_seatsOf_of_invalid {s : State} {a : Axis} {n : SeatNo} (hs : s.st.seats = none) : n ∈ s.seatsOf a ↔ ∃ k, n = managedSeat k := by
  simp only [State.seatsOf, hs, mem_seats_default_iff]

theorem State.mem_seatsOf_of_seats {s : State} {a : Axis} {n : SeatNo} {c : SeatsCopy} (hs : s.st.seats = some c) :
    n ∈ s.seatsOf a ↔ ∃ d, c.def n = some d ∧ AxisSet.has d.axes a = true := by
  simp only [State.seatsOf, hs, List.mem_filter, mem_seatNos, true_and]
  cases c.def n <;> simp

theorem State.mem_seatsOf_iff (s : State) (a : Axis) (n : SeatNo) : n ∈ s.seatsOf a ↔ ∃ k, n = managedSeat k ∧ s.Carries a k := by
  cases hs : s.st.seats with
  | none => simp only [State.mem_seatsOf_of_invalid hs, State.Carries, hs, true_or, and_true]
  | some c =>
    rw [State.mem_seatsOf_of_seats hs]
    constructor
    · rintro ⟨d, hd, ha⟩
      obtain ⟨k, rfl, hk⟩ := SeatsCopy.exists_of_def hd
      exact ⟨k, rfl, .inr ⟨c, d, hs, hk, ha⟩⟩
    · rintro ⟨k, rfl, invalid | ⟨c', d, hs', hk, ha⟩⟩
      · rw [hs] at invalid
        cases invalid
      · obtain rfl : c = c' := Option.some.inj (hs.symm.trans hs')
        exact ⟨d, (c.def_managedSeat k).trans hk, ha⟩

/-- A test on the seats of an axis is one on each managed seat that counts for it. -/
theorem State.all_seatsOf_iff (s : State) (a : Axis) (test : SeatNo → Bool) :
    (s.seatsOf a).all test = true ↔ ∀ k, s.Carries a k → test (managedSeat k) = true := by
  rw [List.all_eq_true]
  constructor
  · exact fun h k hk => h _ ((s.mem_seatsOf_iff a _).2 ⟨k, rfl, hk⟩)
  · intro h n hn
    obtain ⟨k, rfl, hk⟩ := (s.mem_seatsOf_iff a n).1 hn
    exact h k hk

/-! ## The side of an axis (R137) -/

theorem AxisSide.ne_right_iff (x : AxisSide) : x ≠ .right ↔ x = .left ∨ x = .both := by cases x <;> decide
theorem AxisSide.ne_left_iff (x : AxisSide) : x ≠ .left ↔ x = .right ∨ x = .both := by cases x <;> decide

theorem State.side_six (s : State) : s.side 6 = .both := if_pos rfl

theorem State.side_default {s : State} {a : Axis} (hd : s.st.drive = none) (ha : a ≠ 6) :
    s.side a = if a = 0 ∨ a = 2 ∨ a = 4 then .left else .right := by
  simp only [State.side, State.driveAxis, hd, if_neg ha, Option.map_none]

theorem State.side_of_drive {s : State} {a : Axis} {d : DriveCopy} (hd : s.st.drive = some d) (ha : a ≠ 6) : s.side a = d.axis[a].side := by
  simp only [State.side, State.driveAxis, hd, if_neg ha, Option.map_some]

/-! ## What each predicate asks (R135 to R137) -/

theorem State.standstill_iff (s : State) : s.standstill = true ↔ s.iu.vehicleFresh = true ∧ ∃ v, s.iu.vehicle.speed = some v ∧ v ≤ 30 := by
  rw [State.standstill, Bool.and_eq_true]
  cases s.iu.vehicle.speed with
  | none => simp
  | some v =>
    simp only [decide_eq_true_eq, Option.some.injEq, exists_eq_left']
    rfl

theorem State.inPark_iff (s : State) : s.inPark = true ↔ s.iu.vehicleFresh = true ∧ s.iu.vehicle.gear = .p := by
  simp only [State.inPark, Bool.and_eq_true, beq_iff_eq]

theorem State.seatsEmpty_iff (s : State) (a : Axis) :
    s.seatsEmpty a = true ↔ s.iu.occupancyFresh = true ∧ ∀ k, s.Carries a k → s.iu.seats[k].occupied = .no := by
  simp only [State.seatsEmpty, Bool.and_eq_true, s.all_seatsOf_iff, s.occupant_managedSeat, beq_iff_eq]

theorem State.noChildSeat_iff (s : State) (a : Axis) :
    s.noChildSeat a = true ↔ s.iu.occupancyFresh = true ∧ ∀ k, s.Carries a k → s.iu.seats[k].childSeat = .no := by
  simp only [State.noChildSeat, Bool.and_eq_true, s.all_seatsOf_iff, s.occupant_managedSeat, beq_iff_eq]

theorem State.rearAccess_iff (s : State) (a : Axis) :
    s.rearAccess a = true ↔ s.iu.vehicleFresh = true ∧ (s.iu.vehicle.tailgate = .opened
      ∨ (s.iu.vehicle.rearLeft = .opened ∧ (s.side a = .left ∨ s.side a = .both))
      ∨ (s.iu.vehicle.rearRight = .opened ∧ (s.side a = .right ∨ s.side a = .both))) := by
  simp only [State.rearAccess, Bool.and_eq_true, Bool.or_eq_true, beq_iff_eq, bne_iff_ne, AxisSide.ne_right_iff, AxisSide.ne_left_iff, or_assoc]

end Machine

open Machine

/-- Settles O11: each predicate by what it asks of the held contents, the seats of an axis as the managed seats that count for it. -/
theorem predicatesOfVehicle : Obligations.PredicatesOfVehicle := by
  intro s a
  exact ⟨s.standstill_iff, s.inPark_iff, s.seatsEmpty_iff a, s.noChildSeat_iff a, s.rearAccess_iff a, s.side_six, State.side_default,
    fun _ => State.side_of_drive⟩

end Sys2Proof
end

section
/-! Heat of a sample (10, 10.1): what a sample adds to H, what the rest of the sample and of its event leave of the heat records, and R158's obligation. -/

namespace Sys2Proof
namespace Machine

/-! ## What a sample makes of the heat records (R158, R160) -/

theorem State.addHeat_get_same (s : State) (a : Axis) (i : Nat) :
    (s.addHeat a i).tw[a] = { s.tw[a] with
      heat := min 65535 (s.tw[a].heat + i * i / 256)
      hot := s.hotAfter (min 65535 (s.tw[a].heat + i * i / 256)) s.tw[a].hot } := by
  rw [State.addHeat, State.modHeat_get, if_pos rfl]

theorem State.addHeat_get_of_ne (s : State) {a b : Axis} (i : Nat) (hb : b ≠ a) : (s.addHeat a i).tw[b] = s.tw[b] := by
  rw [State.addHeat, State.modHeat_get, if_neg hb]

@[simp] theorem State.addHeat_st (s : State) (a : Axis) (i : Nat) : (s.addHeat a i).st = s.st := rfl

/-- The two levels are those of DRIVE alone (R160). -/
theorem State.hotAfter_congr {s t : State} (h : t.st.drive = s.st.drive) (heat : Nat) (hot : Bool) : t.hotAfter heat hot = s.hotAfter heat hot := by
  have limit : t.heatLimit = s.heatLimit := by rw [State.heatLimit, h, State.heatLimit]
  have resume : t.heatResume = s.heatResume := by rw [State.heatResume, h, State.heatResume]
  rw [State.hotAfter, limit, resume, State.hotAfter]

/-! ## A sample apart from its heat (R21, R23, R32) -/

section
variable {ok : Pad → Prop}

theorem State.modChan_rest (s : State) (a : Axis) (f : Channel → Channel) : State.RestFollows ok s (s.modChan a f) :=
  .of rfl (.refl _) rfl rfl rfl rfl rfl rfl rfl

theorem State.modMove_rest (s : State) (a : Axis) (f : Move → Move) : State.RestFollows ok s (s.modMove a f) :=
  (s.modMove_but a f).rest

theorem State.enterRunning_rest (s : State) (a : Axis) : State.RestFollows ok s (s.enterRunning a) := by
  unfold State.enterRunning
  have entry := s.modChan_rest (ok := ok) a (fun c => { c with motion := .running })
  have reservation (u : State) (g : Option Grant) : State.RestFollows ok u (u.setGrant a g) :=
    (u.setGrant_but (p := fun b => b = a) a g (.inl rfl)).rest
  exact (entry.trans (reservation _ _)).trans (State.emit_but (p := noAxis) _ _).rest

theorem State.RestFollows.ite {c : Prop} [Decidable c] {u v w : State} (hv : State.RestFollows ok u v) (hw : State.RestFollows ok u w) :
    State.RestFollows ok u (if c then v else w) := by
  split
  next => exact hv
  next => exact hw

theorem State.startingSample_rest (s : State) (a : Axis) (m : Move) : State.RestFollows ok s (s.startingSample a m) := by
  have ramp := s.modMove_rest (ok := ok) a (fun x => { x with duty := min m.runDuty (m.duty + m.rampStep) })
  have blanking := State.RestFollows.ite (c := m.samples = Config.blankingSamples)
    (ramp.trans (State.modChan_rest _ a (fun c => { c with hallTimer := .start }))) ramp
  exact .ite (blanking.trans (State.enterRunning_rest _ a)) blanking

theorem State.runningSample_rest (s : State) (a : Axis) (m : Move) (i : Nat) : State.RestFollows ok s (s.runningSample a m i) := by
  have counted := s.modMove_rest (ok := ok) a (fun x =>
    { x with
      runSamples := m.runSamples + 1
      runSum := m.runSum + i
      obstruction := if m.kind ≠ .homing ∧ m.threshold < i then m.obstruction + 1 else 0 })
  have flagged := counted.trans (State.modChan_rest _ a (fun c => { c with obstruction := true }))
  exact .ite (flagged.trans (State.enterBraking_but _ a .obstructed none).rest) counted

/-- A sample changes the heat records by its heat alone. -/
theorem State.takeSample_rest (s : State) (a : Axis) (tenths : Nat) :
    State.RestFollows ok (s.addHeat a (min 255 tenths)) (s.takeSample a tenths) := by
  unfold State.takeSample
  dsimp only
  have counted := (s.addHeat a (min 255 tenths)).modMove_rest (ok := ok) a
    (fun m => { m with samples := m.samples + 1, lowCurrent := m.lowCurrent && decide (min 255 tenths < Config.lowCurrentLimit) })
  split
  next => exact counted
  next m _ =>
    split
    next => exact counted.trans (State.startingSample_rest _ a m)
    next => exact counted.trans (State.runningSample_rest _ a m _)
    next => exact counted

end

/-! ## The command (R23) -/

theorem Motion.driving_of {v : Motion} (h : v = .starting ∨ v = .running) : v.driving = true := by
  rcases h with rfl | rfl <;> rfl

/-- In STARTING or RUNNING outside an off time a sample that falls due is taken. -/
theorem State.sampleDue_eq_takeSample {s : State} {a : Axis} {m : Move} (tenths : Nat) (hm : s.ac[a].move = some m)
    (driving : s.ac[a].motion.driving = true) (on : m.inOffTime = false) : s.sampleDue a tenths = s.takeSample a tenths := by
  simp only [State.sampleDue, hm, driving, on, Bool.not_true, Bool.false_eq_true, if_false]

theorem exec_currentSample (s : State) (a : Axis) (tenths : Nat) :
    exec (.currentSample a tenths) s = .next (s.sampleDue a tenths).conclude := rfl

/-- The whole event of a sample that is taken leaves the heat records as its heat made them. -/
theorem State.conclude_takeSample_rest (s : State) (a : Axis) (tenths : Nat) :
    State.RestFollows (fun q => Task.padEntry q ∈ (s.takeSample a tenths).raised) (s.addHeat a (min 255 tenths)) (s.takeSample a tenths).conclude :=
  (s.takeSample_rest a tenths).trans (State.conclude_but _).rest

end Machine

open Machine

/-- Settles O34: a sample adds its heat before all else, and neither the rest of the sample nor the work of its event changes H, HOT or ESTIMATED. -/
theorem sampleHeats : Obligations.SampleHeats := by
  intro s a i m hm driving on
  have rest := s.conclude_takeSample_rest a i
  have drive : (s.takeSample a i).conclude.st.drive = s.st.drive := by rw [rest.st, State.addHeat_st]
  obtain ⟨heat, hot, estimated⟩ := rest.heat a
  rw [State.addHeat_get_same] at heat hot estimated
  refine ⟨_, ?taken, heat, ?hot, estimated, fun b hb => ?others⟩
  case taken => rw [exec_currentSample, State.sampleDue_eq_takeSample i hm (Motion.driving_of driving) on]
  case hot =>
    rw [heat, hot]
    exact (State.hotAfter_congr drive _ _).symm
  case others =>
    obtain ⟨heat, hot, _⟩ := rest.heat b
    rw [State.addHeat_get_of_ne s _ hb] at heat hot
    exact ⟨heat, hot⟩

end Sys2Proof
end

section
/-! Commands as effects: what a command does before the end of its event, by the kind of its frame and of its request; the first statements about
the machine as a whole. -/

namespace Sys2Proof
namespace Machine

/-! ## A command's own effect -/

/-- What a command does before the work it raises and the end of its event. -/
def State.effect (s : State) (c : Instr) : State :=
  match c with
  | .runArrangement id tag number => s.frameIn id (frameBytes .run tag [number]) (fun r t => t.reqRun r tag number)
  | .holdMove id tag axis dir => s.frameIn id (frameBytes .hold tag [axis, dir]) (fun r t => t.reqHold r tag axis dir)
  | .releaseMove id tag axis => s.frameIn id (frameBytes .release tag [axis]) (fun r t => t.reqRelease r tag axis)
  | .stopJob id tag target => s.frameIn id (frameBytes .stopJob tag [target]) (fun r t => t.reqStopJob r tag target)
  | .stopAll id tag => s.frameIn id (frameBytes .stopAll tag []) (fun r t => t.reqStopAll r tag)
  | .clearFaults id tag set => s.frameIn id (frameBytes .clearFaults tag [set]) (fun r t => t.reqClearFaults r tag set)
  | .homeAxes id tag set => s.frameIn id (frameBytes .home tag [set]) (fun r t => t.reqHome r tag set)
  | .trimAdjust id tag axis code => s.frameIn id (frameBytes .trim tag [axis, code]) (fun r t => t.reqTrim r tag axis code)
  | .enterService id tag => s.frameIn id (frameBytes .enterService tag []) (fun r t => t.reqEnterService r tag)
  | .leaveService id tag => s.frameIn id (frameBytes .leaveService tag []) (fun r t => t.reqLeaveService r tag)
  | .storeRead id tag chunk => s.frameIn id (frameBytes .storeRead tag (chunkArg chunk)) (fun r t => t.reqStoreRead r tag chunk)
  | .storeWrite id tag chunk b0 b1 b2 b3 =>
    s.frameIn id (frameBytes .storeWrite tag (chunkArg chunk ++ [b0, b1, b2, b3])) (fun r t => t.reqStoreWrite r tag chunk [b0, b1, b2, b3])
  | .softReset id tag => s.frameIn id (frameBytes .softReset tag []) (fun r t => t.reqSoftReset r tag)
  | .requestFrameOther id bs => s.anyFrame id bs
  | .frameOtherId id remote bs => s.otherFrame id remote bs
  | .vehicleCondition id bs => s.anyFrame id bs
  | .occupancy id bs => s.anyFrame id bs
  | .freshnessExpiry k => s.turnStale k
  | .holdExpiry j => s.holdLost j
  | .currentSample a i => s.sampleDue a i
  | .hallEdge a gap => s.hallEdge a gap
  | .hallTimeout a => s.hallTimeout a
  | .currentLimitEvent a => s.limitEvent a
  | .offTimeEnd a i => s.offTimeOver a i
  | .commonLegOvercurrent l => s.legOvercurrent l
  | .brakingEnd a => s.brakingOver a
  | .dwellExpiry a => s.dwellOver a
  | .markerWriteComplete => s.markerWritten
  | .releaseFirstPulseEnd l => s.firstPulseOver l
  | .releaseGapEnd l => s.gapOver l
  | .releaseRetryEnd l => s.retryOver l
  | .solenoidHoldTimeout l => s.holdOver l
  | .relockCheckExpiry l => s.decideRelock (axisOfLatch l) false
  | .latchDebounce l v => s.latchReading l v
  | .deferralTimeout j a => s.deferralOver j a
  | .coolingStep a => s.coolStep a
  | .supplyPause mv => s.supplyLow mv
  | .supplyResume mv => s.supplyBack mv
  | .pauseWindowExpiry => s.windowOver
  | .powerOnReset mv => s.powerOn mv
  | .firstLoadEnd => s.firstLoad
  | .storeWriteComplete => s.serviceWritten
  | .serviceTimeout => s.serviceTimedOut
  | .serviceDeferredLeave => s.deferredLeave
  | .parkEntry => s.parkNow
  | .parkWriteComplete => s.parkWritten
  | .wakeEvent _ => s.wake
  | .wakingEnd => s.wakingDone
  | .frameSent => s.frameSent
  | .pageDue p => s.pageFallsDue p
  | .txError => s.transmitError
  | .busOffRejoin => s.rejoin
  | .padButtonPress p b => s.padPress p b
  | .padButtonRelease p b => s.padRelease p b
  | .padStuck p b => s.padSticks p b

/-- Every command answers the end of the event that its own effect begins. -/
theorem exec_eq (c : Instr) (s : State) : exec c s = .next (s.effect c).conclude := by cases c <;> rfl

/-- A command answers one state. -/
theorem eq_of_exec {c : Instr} {s t : State} (h : exec c s = .next t) : t = (s.effect c).conclude := by
  rw [exec_eq] at h
  exact (Host.Outcome.next.inj h).symm

/-! ## Reception -/

/-- What a data frame can come to (R171). -/
theorem State.frameIn_cases {P : State → Prop} (s : State) (id : CanId) (bs : List Byte) (request : Role → State → State)
    (wake : s.sp.power = .park → P s.wake) (same : P s) (taken : ∀ r, s.Hears id r → P (request r (s.heard r)))
    (vehicle : P (s.vehicleArrival bs)) (occupancy : P (s.occupancyArrival bs)) : P (s.frameIn id bs request) := by
  unfold State.frameIn
  split
  next park => exact wake park
  next awake =>
    split
    next => exact same
    next on =>
      split
      next r role => exact taken r ⟨awake, by simpa using on, role⟩
      next =>
        split
        next => exact vehicle
        next =>
          split
          next => exact occupancy
          next => exact same

/-- A request that reaches its role is taken in the state that hears it (R171, R189). -/
theorem State.frameIn_of_hears {s : State} {id : CanId} {r : Role} (h : s.Hears id r) (bs : List Byte) (request : Role → State → State) :
    s.frameIn id bs request = request r (s.heard r) := by
  obtain ⟨awake, on, role⟩ := h
  simp only [State.frameIn, awake, on, role, if_false, Bool.false_eq_true, State.heard]

/-- One request, as the kind and the arguments of its frame give it. -/
inductive State.Handles (s : State) (r : Role) : State → Prop
  | run (tag : BitVec 4) (n : Byte) : s.Handles r (s.reqRun r tag n)
  | hold (tag : BitVec 4) (a d : Byte) : s.Handles r (s.reqHold r tag a d)
  | release (tag : BitVec 4) (a : Byte) : s.Handles r (s.reqRelease r tag a)
  | stopJob (tag : BitVec 4) (b : Byte) : s.Handles r (s.reqStopJob r tag b)
  | stopAll (tag : BitVec 4) : s.Handles r (s.reqStopAll r tag)
  | clearFaults (tag : BitVec 4) (m : Byte) : s.Handles r (s.reqClearFaults r tag m)
  | home (tag : BitVec 4) (m : Byte) : s.Handles r (s.reqHome r tag m)
  | trim (tag : BitVec 4) (a c : Byte) : s.Handles r (s.reqTrim r tag a c)
  | enterService (tag : BitVec 4) : s.Handles r (s.reqEnterService r tag)
  | leaveService (tag : BitVec 4) : s.Handles r (s.reqLeaveService r tag)
  | storeRead (tag : BitVec 4) (n : BitVec 16) : s.Handles r (s.reqStoreRead r tag n)
  | storeWrite (tag : BitVec 4) (n : BitVec 16) (l : List Byte) : s.Handles r (s.reqStoreWrite r tag n l)
  | softReset (tag : BitVec 4) : s.Handles r (s.reqSoftReset r tag)
  | refused (k : Byte) (tag : BitVec 4) : s.Handles r (s.answerByte r k tag (.bare .badArgument))
  | ignored : s.Handles r s

/-- A request frame by its bytes is one of the requests, a refusal under its kind byte, or nothing (R193). -/
theorem State.request_handles (s : State) (r : Role) (bs : List Byte) : s.Handles r (s.request r bs) := by
  unfold State.request
  split
  next => exact .ignored
  next =>
    dsimp only
    split
    next => exact .refused _ _
    next k _ =>
      split
      next => exact .refused _ _
      next => cases k <;> constructor

/-- What a frame of any identifier and content can come to (R171, R193). -/
theorem State.anyFrame_cases {P : State → Prop} (s : State) (id : CanId) (bs : List Byte) (wake : s.sp.power = .park → P s.wake) (same : P s)
    (handled : ∀ r u, s.Hears id r → (s.heard r).Handles r u → P u) (vehicle : P (s.vehicleArrival bs)) (occupancy : P (s.occupancyArrival bs)) :
    P (s.anyFrame id bs) :=
  s.frameIn_cases id bs _ wake same (fun r hr => handled r _ hr ((s.heard r).request_handles r bs)) vehicle occupancy

/-- The state a frame command leaves: woken, the same, or what the frame's request or content makes of it. -/
inductive State.Receives (s : State) : State → Prop
  | wake : s.sp.power = .park → s.Receives s.wake
  | same : s.Receives s
  | handled (id : CanId) (r : Role) (u : State) : s.Hears id r → (s.heard r).Handles r u → s.Receives u
  | vehicle (bs : List Byte) : s.Receives (s.vehicleArrival bs)
  | occupancy (bs : List Byte) : s.Receives (s.occupancyArrival bs)

theorem State.frameIn_receives (s : State) (id : CanId) (bs : List Byte) (request : Role → State → State)
    (h : ∀ (r : Role) (t : State), t.Handles r (request r t)) : s.Receives (s.frameIn id bs request) :=
  s.frameIn_cases id bs request .wake .same (fun r hr => .handled id r _ hr (h r _)) (.vehicle bs) (.occupancy bs)

/-- The wake of a part that is not in PARK is nothing (R167). -/
theorem State.wake_awake {s : State} (h : s.sp.power ≠ .park) : s.wake = s := if_pos h

theorem State.otherFrame_receives (s : State) (id : CanId) (remote : Bool) (bs : List Byte) : s.Receives (s.otherFrame id remote bs) := by
  unfold State.otherFrame
  split
  next =>
    by_cases park : s.sp.power = .park
    case pos => exact .wake park
    case neg => exact (State.wake_awake park).symm ▸ .same
  next => exact s.frameIn_receives id bs _ (fun r t => t.request_handles r bs)

/-! ## The heard state -/

/-- Hearing a request changes the Store Controller alone (R189). -/
theorem State.heard_eq (s : State) (r : Role) : s.heard r = { s with st := (s.heard r).st } := by
  unfold State.heard State.serviceActivity; repeat' split
  all_goals rfl

@[simp] theorem State.heard_ac (s : State) (r : Role) : (s.heard r).ac = s.ac := by rw [s.heard_eq]
@[simp] theorem State.heard_lc (s : State) (r : Role) : (s.heard r).lc = s.lc := by rw [s.heard_eq]
@[simp] theorem State.heard_da (s : State) (r : Role) : (s.heard r).da = s.da := by rw [s.heard_eq]
@[simp] theorem State.heard_jm (s : State) (r : Role) : (s.heard r).jm = s.jm := by rw [s.heard_eq]
@[simp] theorem State.heard_iu (s : State) (r : Role) : (s.heard r).iu = s.iu := by rw [s.heard_eq]
@[simp] theorem State.heard_validity (s : State) (r : Role) : (s.heard r).validity = s.validity := by rw [s.heard_eq]
@[simp] theorem State.heard_tw (s : State) (r : Role) : (s.heard r).tw = s.tw := by rw [s.heard_eq]
@[simp] theorem State.heard_sp (s : State) (r : Role) : (s.heard r).sp = s.sp := by rw [s.heard_eq]
@[simp] theorem State.heard_np (s : State) (r : Role) : (s.heard r).np = s.np := by rw [s.heard_eq]
@[simp] theorem State.heard_ps (s : State) (r : Role) : (s.heard r).ps = s.ps := by rw [s.heard_eq]
@[simp] theorem State.heard_raised (s : State) (r : Role) : (s.heard r).raised = s.raised := by rw [s.heard_eq]
@[simp] theorem State.heard_pending (s : State) (r : Role) : (s.heard r).pending = s.pending := by rw [s.heard_eq]

/-- Of the Store Controller it changes the service timer and the leave that the timer puts off. -/
theorem State.heard_st (s : State) (r : Role) :
    (s.heard r).st = { s.st with serviceTimer := (s.heard r).st.serviceTimer, leavePending := (s.heard r).st.leavePending } := by
  unfold State.heard State.serviceActivity; repeat' split
  all_goals rfl

end Machine

open Machine

/-- Settles O1: the step takes the front of the queue by its definition. -/
theorem stepTakesTheFront : Obligations.StepTakesTheFront := by
  intro s c rest front
  unfold step
  rw [front]

end Sys2Proof
end

section
/-! The idle tick, the values after reset, and what every event publishes (00, 4.1; 11, 11.3). -/

namespace Sys2Proof
namespace Machine

/-! ## The idle tick (log 1) -/

/-- An element drawn from a list, before the list without it, is the list in another order. -/
theorem getElem_eraseIdx_perm {α : Type} {l : List α} {i : Nat} (inside : i < l.length) : (l[i] :: l.eraseIdx i).Perm l := by
  have parts : l.take i ++ l[i] :: l.drop (i + 1) = l := by rw [List.getElem_cons_drop, List.take_append_drop]
  rw [List.eraseIdx_eq_take_drop_succ]
  exact List.perm_middle.symm.trans (.of_eq parts)

/-- Free draws put a list in another order and change nothing else of it (log 6). -/
theorem freeOrder_perm {α : Type} : ∀ (n : Nat) (l : List α) (k : Nat), (freeOrder n l k).1.Perm l
  | 0, _, _ => .refl _
  | _ + 1, [], _ => .refl _
  | _ + 1, [_], _ => .refl _
  | n + 1, x :: y :: rest, k => by
    have inside : Config.openChoice k % (rest.length + 2) < (x :: y :: rest).length := Nat.mod_lt _ (Nat.succ_pos _)
    have more := freeOrder_perm n ((x :: y :: rest).eraseIdx (Config.openChoice k % (rest.length + 2))) (k + 1)
    have drawn : (x :: y :: rest).getD (Config.openChoice k % (rest.length + 2)) x = (x :: y :: rest)[Config.openChoice k % (rest.length + 2)] := by
      rw [List.getD_eq_getElem?_getD, List.getElem?_eq_getElem inside, Option.getD_some]
    show ((x :: y :: rest).getD _ x :: _).Perm _
    rw [drawn]
    exact (more.cons _).trans (getElem_eraseIdx_perm inside)

theorem State.shuffled_perm {α : Type} (s : State) (l : List α) : (s.shuffled l).1.Perm l := freeOrder_perm _ l _

/-- What is shuffled is what was there (log 6). -/
@[simp] theorem State.mem_shuffled {α : Type} (s : State) (l : List α) (x : α) : x ∈ (s.shuffled l).1 ↔ x ∈ l := (s.shuffled_perm l).mem_iff

/-- A frame that stands in the transmit buffer, or a bus-off, keeps everything from being loaded (R174, R177). -/
theorem State.pump_of_full {s : State} (h : s.np.tx.isSome = true ∨ s.np.busOff = true) : s.pump = s := by
  unfold State.pump
  rw [if_pos (by simpa using h)]

theorem State.pump_da (s : State) : s.pump.da = s.da := by
  unfold State.pump State.pumpPages State.loadPage State.loadRow State.loadAnswer State.loadResult
  repeat' split
  all_goals rfl

/-- One millisecond on a channel is one on each of its timers. -/
theorem State.advance_ac (s : State) (a : Axis) : s.advance.ac[a] = s.ac[a].tick := Vector.getElem_map ..

end Machine

open Machine

/-- Settles O3: the tick loads what is ready, advances the timers, and queues the due events in a drawn order. -/
theorem idleTick : Obligations.IdleTick := by
  intro s empty
  have step_eq : step s = .next s.tick := by unfold step; rw [empty]
  have same := s.pump_same
  have queue : s.pump.pending = [] := same.pending.trans empty
  refine ⟨s.tick, step_eq, ?queued, rfl, State.pump_of_full, fun a => ?channel, s.pump_da, same.validity, ?store, same.raised⟩
  case queued =>
    show (s.pump.pending ++ (s.pump.advance.shuffled _).1).Perm _
    rw [queue]
    exact s.pump.advance.shuffled_perm _
  case channel =>
    show s.pump.advance.ac[a] = _
    rw [State.advance_ac, same.ac]
    rfl
  case store =>
    show s.pump.st.memory = _
    rw [same.st]

/-! ## After reset -/

/-- Settles O4: the values stand in the definition of the reset state, block by block. -/
theorem resetValues : Obligations.ResetValues := by
  refine ⟨?channels, ?latches, ?legs, rfl, rfl, ?slots, rfl, ?answers, ?pads, rfl, rfl, rfl, rfl, rfl, rfl, ?pages, ?buttons,
    rfl, rfl, rfl, rfl, rfl, rfl⟩
  case channels => decide
  case latches => decide
  case legs => decide
  case slots => decide
  case answers => rintro (_ | _) <;> rfl
  case pads => rintro (_ | _) <;> rfl
  case pages =>
    intro p
    have get : State.reset.np.pages[p] = Page.reset Page.resetContents[p] := Vector.getElem_map ..
    rw [get]
    exact ⟨rfl, rfl, rfl⟩
  case buttons => rintro (_ | _) <;> exact ⟨rfl, rfl⟩

/-- Settles O5: nothing is written, granted, waiting or claimed after reset, and every channel holds its reset values. -/
theorem resetIsGood : Obligations.ResetIsGood := by
  have slot : ∀ j : Slot, State.reset.jm.slots[j] = none := by decide
  have none_in {q : Job → Prop} (j : Slot) : j ∈ ([] : List Slot) ↔ ∃ x, State.reset.jm.slots[j] = some x ∧ q x := by
    rw [slot j]
    exact ⟨fun h => (by cases h), fun ⟨_, h, _⟩ => (by cases h)⟩
  refine ⟨rfl, ?channels, rfl, ?wait, ?budget, ?jobs⟩
  case channels =>
    intro a
    have get : State.reset.ac[a] = Channel.reset := Vector.getElem_replicate ..
    rw [get]
    unfold Channel.InRange
    decide
  case wait => exact ⟨List.nodup_nil, .nil, fun _ h => (by cases h), Nat.zero_le _⟩
  case budget => exact fun _ h => by cases h
  case jobs =>
    refine ⟨⟨List.nodup_nil, none_in⟩, fun a j => ?_, ⟨List.nodup_nil, none_in⟩, ⟨List.nodup_nil, none_in⟩, ⟨List.nodup_nil, none_in⟩,
      fun j x p hx => ?_⟩
    · have claim : State.reset.jm.claims[a] = none := Vector.getElem_replicate ..
      rw [claim, slot j]
      exact ⟨fun h => (by cases h), fun ⟨_, h, _⟩ => (by cases h)⟩
    · rw [slot j] at hx
      cases hx

end Sys2Proof
end

section
/-! The pages and the transmit buffer at the end of every event (11, 11.3): publication, and what the loading of a frame leaves waiting. -/

namespace Sys2Proof
namespace Machine

/-! ## Page contents -/

/-- The pages show nothing of the port's buffers, the answers, the park-quiet timer or the arrival counter. -/
theorem State.SameBut.pageContent {u t : State} (h : u.SameBut t) (p : PageNo) : t.pageContent p = u.pageContent p := by
  have e : t = { u with
      da := { u.da with arrival := t.da.arrival }
      jm := { u.jm with answers := t.jm.answers }
      sp := { u.sp with parkQuiet := t.sp.parkQuiet }
      np := t.np } := by
    obtain ⟨ac, lc, da, jm, iu, validity, tw, sp, st, np, ps, picks, raised, pending⟩ := t
    obtain ⟨rfl, rfl, hda, hjm, _, rfl, rfl, rfl, hsp, rfl, _, rfl, rfl, rfl, rfl⟩ := h
    dsimp only at hda hjm hsp ⊢
    rw [← hda, ← hjm, ← hsp]
  rw [e]
  rfl

theorem State.publish_page (s : State) (p : PageNo) : s.publish.np.pages[p] = s.np.pages[p].write (s.pageContent p) := Vector.getElem_ofFn ..

/-- A page that is written holds the content (R17). -/
theorem Page.write_buffer (p : Page) (content : List Byte) : (p.write content).buffer = content := by
  unfold Page.write
  split
  next held => exact held
  next => rfl

theorem State.publish_buffer (s : State) (p : PageNo) : s.publish.np.pages[p].buffer = s.publish.pageContent p := by
  rw [State.publish_page, Page.write_buffer, s.publish_same.pageContent]

theorem State.modPage_get (s : State) (p q : PageNo) (f : Page → Page) :
    (s.modPage p f).np.pages[q] = if q = p then f s.np.pages[p] else s.np.pages[q] :=
  Machine.setSlot_get ..

/-! ## The next frame (R174, R176, R194) -/

theorem State.loadPage_tx (s : State) (p : PageNo) : (s.loadPage p).np.tx.isSome = true := by
  unfold State.loadPage
  dsimp only
  split <;> rfl

theorem State.loadPage_pages (s : State) (p : PageNo) : (s.loadPage p).np.pages = (s.modPage p Page.sent).np.pages := by
  unfold State.loadPage
  dsimp only
  split <;> rfl

/-- Loading from the third group marks at most one page as sent. -/
theorem State.pumpPages_buffer (s : State) (p : PageNo) : s.pumpPages.np.pages[p].buffer = s.np.pages[p].buffer := by
  unfold State.pumpPages
  split
  next => rfl
  next =>
    split
    next q _ =>
      rw [State.loadPage_pages, State.modPage_get]
      split
      next e => subst e; rfl
      next => rfl
    next => rfl

theorem State.loadResult_pages (s : State) (j : Slot) (x : Job) : (s.loadResult j x).np.pages = s.np.pages := by
  unfold State.loadResult
  split <;> rfl

/-- The loading of a frame keeps every page's content. -/
theorem State.pump_buffer (s : State) (p : PageNo) : s.pump.np.pages[p].buffer = s.np.pages[p].buffer := by
  unfold State.pump
  split
  next => rfl
  next =>
    split
    next => exact s.pumpPages_buffer p
    next =>
      split
      next => rfl
      next =>
        split
        next => simp only [State.loadResult_pages]
        next => exact s.pumpPages_buffer p

/-- What is ready in the third group is loaded: no row and no page that is ready waits at an empty buffer. -/
theorem State.pumpPages_of_empty {s : State} (h : s.pumpPages.np.tx = none) :
    s.pumpPages = s ∧ s.np.rows = [] ∧ ∀ p : PageNo, s.pageReady p = false := by
  unfold State.pumpPages at h ⊢
  split at h
  next => cases h
  next rows =>
    split at h
    next p _ =>
      have loaded := s.loadPage_tx p
      rw [h] at loaded
      cases loaded
    next nothing =>
      refine ⟨rfl, rows, fun p => ?_⟩
      have all := List.find?_eq_none.1 nothing p ((by decide : ∀ p : PageNo, p ∈ pageNos) p)
      simpa using all

theorem State.answerReady_none {s : State} (h : s.answerReady = none) (r : Role) : s.jm.answers[roleNo r] = none := by
  unfold State.answerReady at h
  have all := List.findSome?_eq_none_iff.1 h r (by cases r <;> decide)
  simpa using all

/-- With the buffer empty and the bus usable after the loading, nothing was ready (R174, R176). -/
theorem State.pump_of_empty {s : State} (h : s.pump.np.tx = none) (on : s.pump.np.busOff = false) :
    s.pump = s ∧ (s.sp.power = .park → s.np.rows = [] ∧ ∀ p : PageNo, s.pageReady p = false)
      ∧ (s.sp.power ≠ .park → (∀ r : Role, s.jm.answers[roleNo r] = none)
        ∧ ((∃ j x q, s.resultReady = some (j, x) ∧ x.source = .pad q)
          ∨ (s.resultReady = none ∧ s.np.rows = [] ∧ ∀ p : PageNo, s.pageReady p = false))) := by
  have bus : s.np.busOff = false := s.pump_same.port.2.1.symm.trans on
  by_cases full : s.np.tx.isSome = true
  case pos =>
    rw [State.pump_of_full (.inl full)] at h
    rw [h] at full
    cases full
  case neg =>
    have usable : (s.np.tx.isSome || s.np.busOff) = false := by rw [bus, Bool.or_false]; simpa using full
    unfold State.pump at h ⊢
    rw [usable, if_neg Bool.false_ne_true] at h ⊢
    split at h
    next park =>
      obtain ⟨same, waiting⟩ := State.pumpPages_of_empty h
      exact ⟨by rw [if_pos park, same], fun _ => waiting, fun awake => absurd park awake⟩
    next awake =>
      rw [if_neg awake]
      split at h
      next => cases h
      next none_waits =>
        split at h
        next j x ready =>
          unfold State.loadResult at h
          split at h
          next => cases h
          next q source =>
            refine ⟨?_, fun park => absurd park awake, fun _ => ⟨State.answerReady_none none_waits, .inl ⟨j, x, q, ready, source⟩⟩⟩
            simp only [State.loadResult, source]
        next idle =>
          obtain ⟨same, waiting⟩ := State.pumpPages_of_empty h
          exact ⟨same, fun park => absurd park awake, fun _ => ⟨State.answerReady_none none_waits, .inr ⟨idle, waiting⟩⟩⟩

end Machine

open Machine

/-- Settles O59: the page buffers are written last but for the loading of a frame, which keeps their contents and takes whatever is ready. -/
theorem everyEventPublishes : Obligations.EveryEventPublishes := by
  refine ⟨fun c s t ht => ?event, fun s p => ⟨fun held => ?same, fun changed => ?new⟩⟩
  case event =>
    rw [eq_of_exec ht]
    let v : State := (s.effect c).settled.arrivalUpdate.parkUpdate.publish
    show (∀ p : PageNo, v.pump.np.pages[p].buffer = v.pump.pageContent p) ∧ (v.pump.np.tx = none → v.pump.np.busOff = false → _)
    refine ⟨fun p => ?_, fun empty on => ?_⟩
    · rw [State.pump_buffer, State.publish_buffer, v.pump_same.pageContent]
    · obtain ⟨same, park, awake⟩ := State.pump_of_empty empty on
      show (v.pump.sp.power ≠ .park → _) ∧ (v.pump.sp.power = .park → v.pump.np.rows = [] ∧ _)
      rw [show (s.effect c).conclude = v.pump from rfl, same]
      refine ⟨fun h => ?_, fun h => ?_⟩
      · obtain ⟨answers, results⟩ := awake h
        refine ⟨answers, fun j rest x r head slot source => ?_, fun none_done => ?_⟩
        · have ready : v.resultReady = some (j, x) := by simp only [State.resultReady, head, slot, Option.map_some]
          rcases results with ⟨k, y, q, hy, pad⟩ | ⟨no, _⟩
          · rw [ready] at hy
            cases hy
            rw [source] at pad
            cases pad
          · rw [ready] at no
            cases no
        · rcases results with ⟨k, y, q, hy, _⟩ | ⟨_, rows, pages⟩
          · simp only [State.resultReady, none_done, reduceCtorEq] at hy
          · refine ⟨rows, fun p => ?_⟩
            have ready := pages p
            simp only [State.pageReady, Bool.and_eq_false_iff, Bool.or_eq_false_iff, bne_eq_false_iff_eq] at ready
            exact ready.resolve_right (fun k => h k.1)
      · obtain ⟨rows, pages⟩ := park h
        refine ⟨rows, fun p due => ?_⟩
        have ready := pages p
        simp only [State.pageReady, due, Bool.true_and, Bool.or_eq_false_iff] at ready
        exact ready.2
  case same => rw [State.publish_page, Page.write, if_pos held]
  case new =>
    rw [State.publish_page, Page.write, if_neg changed]

end Sys2Proof
end

section
/-! What a command's own effect keeps: the channels' ranges, the Job Manager's records, the wait list, the reservations, the store, and rest. -/

namespace Sys2Proof
namespace Machine

/-! ## The relation -/

/-- No axis but those of p comes from rest to RELEASING, STARTING or RUNNING. -/
def State.Rests (p : Axis → Prop) (u t : State) : Prop :=
  ∀ a : Axis, ¬ p a → u.ac[a].motion.stoppable = false → t.ac[a].motion.stoppable = false

/-- What an effect keeps whatever DRIVE becomes; w is what the order of the wait list asks for besides, p the axes that may start. -/
structure State.Keeps (w : Prop) (p : Axis → Prop) (u t : State) : Prop where
  range : u.ChannelsGood → t.ChannelsGood
  jobs : u.jm.Good → t.jm.Good
  wait : w → u.da.WaitGood → t.da.WaitGood
  budget : t.st.drive = u.st.drive → u.BudgetGood → t.BudgetGood
  rests : State.Rests p u t
  pending : t.pending = u.pending

/-- State.Keeps where DRIVE and the store's bytes stay as well. -/
structure State.Sound (w : Prop) (p : Axis → Prop) (u t : State) : Prop where
  keeps : State.Keeps w p u t
  drive : t.st.drive = u.st.drive
  memory : t.st.memory = u.st.memory

section
variable {w : Prop} {p : Axis → Prop} {ok : Pad → Prop}

theorem State.Rests.of_ac {u t : State} (h : t.ac = u.ac) : State.Rests p u t := fun a _ k => by rw [h]; exact k

theorem State.Rests.trans {u v t : State} (h : State.Rests p u v) (k : State.Rests p v t) : State.Rests p u t :=
  fun a ha e => k a ha (h a ha e)

theorem State.Rests.each {α : Type} (f : State → α → State) : ∀ (l : List α) (s : State), (∀ (t : State) (x : α), State.Rests p t (f t x)) →
    State.Rests p s (s.each l f)
  | [], _, _ => .of_ac rfl
  | x :: l, s, h => (h s x).trans (State.Rests.each f l (f s x) h)

/-- Two effects, of which the first leaves DRIVE as it is. -/
theorem State.Sound.then_keeps {u v t : State} (h : State.Sound w p u v) (k : State.Keeps w p v t) : State.Keeps w p u t where
  range e := k.range (h.keeps.range e)
  jobs e := k.jobs (h.keeps.jobs e)
  wait hw e := k.wait hw (h.keeps.wait hw e)
  budget hd e := k.budget (hd.trans h.drive.symm) (h.keeps.budget h.drive e)
  rests := h.keeps.rests.trans k.rests
  pending := k.pending.trans h.keeps.pending

/-- Two effects, of which the second leaves DRIVE as it is. -/
theorem State.Keeps.then_sound {u v t : State} (h : State.Keeps w p u v) (k : State.Sound w p v t) : State.Keeps w p u t where
  range e := k.keeps.range (h.range e)
  jobs e := k.keeps.jobs (h.jobs e)
  wait hw e := k.keeps.wait hw (h.wait hw e)
  budget hd e := k.keeps.budget k.drive (h.budget (k.drive.symm.trans hd) e)
  rests := h.rests.trans k.keeps.rests
  pending := k.keeps.pending.trans h.pending

theorem State.Sound.trans {u v t : State} (h : State.Sound w p u v) (k : State.Sound w p v t) : State.Sound w p u t :=
  ⟨h.then_keeps k.keeps, k.drive.trans h.drive, k.memory.trans h.memory⟩

/-- The budget hangs on DRIVE, the grant table and the motion states alone. -/
theorem State.BudgetGood.congr {u t : State} (hd : t.st.drive = u.st.drive) (hg : t.da.grants = u.da.grants)
    (idle : ∀ a : Axis, u.ac[a].motion = .idle → t.ac[a].motion = .idle)
    (early : ∀ a : Axis, t.ac[a].motion = .releasing ∨ t.ac[a].motion = .starting → u.ac[a].motion = .releasing ∨ u.ac[a].motion = .starting)
    (h : u.BudgetGood) : t.BudgetGood := by
  intro d e
  obtain ⟨order, total, legs, spare⟩ := h d (hd.symm.trans e)
  refine ⟨order, ?_, fun l => ?_, fun a g hgr => ?_⟩
  · rw [State.reservedTotal, hg]; exact total
  · rw [State.legSum, hg]; exact legs l
  · rw [hg] at hgr
    obtain ⟨held, reserve⟩ := spare a g hgr
    exact ⟨fun k => idle a (held k), fun k => reserve (k.imp_right (early a))⟩

/-- An effect on the channels that leaves each one's motion state, or takes it on from RELEASING, from STARTING or from DWELL. -/
theorem State.Sound.of_ac {u t : State} (range : ∀ a : Axis, u.ac[a].InRange → t.ac[a].InRange)
    (idle : ∀ a : Axis, u.ac[a].motion = .idle → t.ac[a].motion = .idle)
    (early : ∀ a : Axis, t.ac[a].motion = .releasing ∨ t.ac[a].motion = .starting → u.ac[a].motion = .releasing ∨ u.ac[a].motion = .starting)
    (rests : State.Rests p u t) (jm : u.jm.Good → t.jm.Good) (wait : t.da.wait = u.da.wait) (arrival : t.da.arrival = u.da.arrival)
    (grants : t.da.grants = u.da.grants) (drive : t.st.drive = u.st.drive) (memory : t.st.memory = u.st.memory) (pending : t.pending = u.pending) :
    State.Sound w p u t :=
  ⟨⟨fun h a => range a (h a), jm, fun _ h => by unfold Arbiter.WaitGood; rw [wait, arrival]; exact h,
    fun _ h => h.congr drive grants idle early, rests, pending⟩, drive, memory⟩

/-- An effect that leaves the channels, the Job Manager's records, the Drive Arbiter's tables and DRIVE. -/
theorem State.Sound.of_jm {u t : State} (ac : t.ac = u.ac) (jm : u.jm.Good → t.jm.Good) (da : t.da = u.da) (drive : t.st.drive = u.st.drive)
    (memory : t.st.memory = u.st.memory) (pending : t.pending = u.pending) : State.Sound w p u t :=
  .of_ac (fun a h => by rw [ac]; exact h) (fun a h => by rw [ac]; exact h) (fun a h => by rw [ac] at h; exact h) (.of_ac ac) jm (by rw [da]) (by rw [da])
    (by rw [da]) drive memory pending

/-- An effect on the other components alone. -/
theorem State.Sound.of_rest {u t : State} (ac : t.ac = u.ac) (jm : t.jm = u.jm) (da : t.da = u.da) (drive : t.st.drive = u.st.drive)
    (memory : t.st.memory = u.st.memory) (pending : t.pending = u.pending) : State.Sound w p u t :=
  .of_jm ac (fun h => by rw [jm]; exact h) da drive memory pending

theorem State.Sound.refl (s : State) : State.Sound w p s s := .of_rest rfl rfl rfl rfl rfl rfl

theorem State.Sound.each {α : Type} (f : State → α → State) : ∀ (l : List α) (s : State), (∀ (t : State) (x : α), State.Sound w p t (f t x)) →
    State.Sound w p s (s.each l f)
  | [], s, _ => .refl s
  | x :: l, s, h => (h s x).trans (State.Sound.each f l (f s x) h)

/-- A change of one channel. -/
theorem State.modChan_sound (s : State) (a : Axis) (f : Channel → Channel) (range : s.ac[a].InRange → (f s.ac[a]).InRange)
    (idle : s.ac[a].motion = .idle → (f s.ac[a]).motion = .idle)
    (early : (f s.ac[a]).motion = .releasing ∨ (f s.ac[a]).motion = .starting → s.ac[a].motion = .releasing ∨ s.ac[a].motion = .starting)
    (rests : s.ac[a].motion.stoppable = false → (f s.ac[a]).motion.stoppable = false) : State.Sound w p s (s.modChan a f) := by
  have at_axis {q : Channel → Channel → Prop} (same : ∀ c, q c c) (changed : q s.ac[a] (f s.ac[a])) (b : Axis) : q s.ac[b] (s.modChan a f).ac[b] := by
    rw [State.modChan_get]
    split
    next e => subst e; exact changed
    next => exact same _
  exact .of_ac (at_axis (q := fun c d => c.InRange → d.InRange) (fun _ => id) range)
    (at_axis (q := fun c d => c.motion = .idle → d.motion = .idle) (fun _ => id) idle)
    (at_axis (q := fun c d => d.motion = .releasing ∨ d.motion = .starting → c.motion = .releasing ∨ c.motion = .starting) (fun _ => id) early)
    (fun b _ => at_axis (q := fun c d => c.motion.stoppable = false → d.motion.stoppable = false) (fun _ => id) rests b)
    (fun h => h) rfl rfl rfl rfl rfl rfl

/-- A change of one channel that keeps its motion state. -/
theorem State.modChan_same (s : State) (a : Axis) (f : Channel → Channel) (range : s.ac[a].InRange → (f s.ac[a]).InRange)
    (motion : (f s.ac[a]).motion = s.ac[a].motion) : State.Sound w p s (s.modChan a f) :=
  s.modChan_sound a f range motion.trans (motion ▸ id) (motion ▸ id)

theorem State.modMove_sound (s : State) (a : Axis) (f : Move → Move) : State.Sound w p s (s.modMove a f) := s.modChan_same a _ id rfl

theorem State.modLatch_sound (s : State) (l : LatchNo) (f : Latch → Latch) : State.Sound w p s (s.modLatch l f) := .of_rest rfl rfl rfl rfl rfl rfl

theorem State.modHeat_sound (s : State) (a : Axis) (f : Thermal → Thermal) : State.Sound w p s (s.modHeat a f) := .of_rest rfl rfl rfl rfl rfl rfl

theorem State.emit_sound (s : State) (l : List Task) : State.Sound w p s (s.emit l) := .of_rest rfl rfl rfl rfl rfl rfl

theorem State.setValidity_sound (s : State) (a : Axis) (v : Validity) : State.Sound w p s (s.setValidity a v) := .of_rest rfl rfl rfl rfl rfl rfl

theorem State.demote_sound (s : State) (a : Axis) (v : Validity) : State.Sound w p s (s.demote a v) := .of_rest rfl rfl rfl rfl rfl rfl

theorem State.shuffled_sound {α : Type} (s : State) (l : List α) : State.Sound w p s (s.shuffled l).2 := .of_rest rfl rfl rfl rfl rfl rfl

theorem State.modPad_sound (s : State) (q : Pad) (f : PadState → PadState) : State.Sound w p s (s.modPad q f) := .of_rest rfl rfl rfl rfl rfl rfl

/-- What the work of an event can do is kept by an effect that starts nothing. -/
theorem State.FollowsBut.sound {u t : State} (h : State.FollowsBut noAxis ok u t) (rests : State.Rests p u t) : State.Sound w p u t := by
  have drive : t.st.drive = u.st.drive := by rw [h.rest.st]
  refine ⟨⟨fun k a => (h.loose a).range (k a), h.rest.jm.good, fun _ => h.wait, fun _ k d hd => ?budget, rests, h.rest.pending⟩, drive, by rw [h.rest.st]⟩
  have hu : u.st.drive = some d := drive.symm.trans hd
  obtain ⟨order, total, legs, spare⟩ := k d hu
  have within := h.within (fun _ e => e) d hu
  exact ⟨order, within.total total, fun l => within.legs l (legs l), fun a => h.spare a id d hu (order a) (spare a)⟩

/-- An effect on one axis that raises no reservation and starts nothing. -/
theorem State.FollowsBut.sound_at {u t : State} {a : Axis} (h : State.FollowsBut (fun b => b = a) ok u t) (only : State.OnlyAt a u t)
    (spare : ∀ d, u.Spare d a → t.Spare d a) (rests : u.ac[a].motion.stoppable = false → t.ac[a].motion.stoppable = false) :
    State.Sound w p u t := by
  have drive : t.st.drive = u.st.drive := by rw [h.rest.st]
  refine ⟨⟨fun k b => (h.loose b).range (k b), h.rest.jm.good, fun _ => h.wait, fun _ k d hd => ?budget, fun b _ => ?rests, h.rest.pending⟩, drive,
    by rw [h.rest.st]⟩
  case budget =>
    have hu : u.st.drive = some d := drive.symm.trans hd
    obtain ⟨order, total, legs, spareAll⟩ := k d hu
    refine ⟨order, Nat.le_trans only.sums.1 total, fun l => Nat.le_trans (only.sums.2 l) (legs l), fun b => ?_⟩
    by_cases e : b = a
    · exact e ▸ spare d (spareAll a)
    · exact h.spare b e d hu (order b) (spareAll b)
  case rests =>
    by_cases e : b = a
    · exact e ▸ rests
    · rw [only.ac b e]; exact id

/-! ## Stops and ends of moves -/

theorem Motion.not_stoppable_of {m : Motion} (h : m = .braking ∨ m = .dwell) : m.stoppable = false := by rcases h with rfl | rfl <;> rfl

theorem State.enterBraking_sound (s : State) (a : Axis) (code : Code) (pred : Option Nat) (h : s.ac[a].motion.stoppable = true) :
    State.Sound w p s (s.enterBraking a code pred) := by
  have braking := s.enterBraking_motion a code pred
  have only := s.enterBraking_only a code pred
  refine (State.FollowsBut.stopped (ok := fun _ => True) (s.enterBraking_but a code pred) only h (.inl braking)).sound (fun b _ => ?_)
  by_cases e : b = a
  · subst e; rw [braking]; exact fun _ => rfl
  · rw [only.ac b e]; exact id

theorem State.freeLeg_sound (s : State) (l : Option Leg) : State.Sound w p s (s.freeLeg l) :=
  (s.freeLeg_but (ok := fun _ => True) l).sound (.of_ac (s.freeLeg_ac l))

/-- The end of a move: the grant goes, and the channel is in DWELL (R39, R53). -/
theorem State.enterDwell_grant (s : State) (a : Axis) : (s.enterDwell a).da.grants[a] = none := by
  unfold State.enterDwell
  split
  next => rw [State.emit_da, State.setGrant_get, if_pos rfl]
  next m _ =>
    dsimp only
    generalize hu : (State.setGrant _ a none).freeLeg _ = u
    have gone : u.da.grants[a] = none := by rw [← hu, State.freeLeg_grants, State.setGrant_get, if_pos rfl]
    have later : Grant.Lowered u.da.grants[a] ((u.openRelock a m.job).sensorTest a).da.grants[a] :=
      ((u.openRelock_only a m.job).trans (State.sensorTest_only _ a)).own
    rw [gone] at later
    rcases later with h | h | h <;> exact h

theorem State.enterDwell_sound (s : State) (a : Axis) : State.Sound w p s (s.enterDwell a) := by
  refine (s.enterDwell_but (ok := fun _ => True) a).sound_at (s.enterDwell_only a) (fun d _ g hg => ?_) (fun _ => ?_)
  · rw [State.enterDwell_grant] at hg
    cases hg
  · rw [State.enterDwell_motion]; rfl

theorem State.stopAxis_rests (s : State) (a : Axis) (code : Code) (pred : Option Nat) : State.Rests p s (s.stopAxis a code pred) := by
  intro b _ h
  by_cases e : b = a
  · exact e ▸ s.stopAxis_stops a code pred
  · rw [(s.stopAxis_only a code pred).ac b e]; exact h

theorem State.stopAxis_sound (s : State) (a : Axis) (code : Code) (pred : Option Nat) : State.Sound w p s (s.stopAxis a code pred) :=
  (s.stopAxis_but (ok := fun _ => True) a code pred).sound (s.stopAxis_rests a code pred)

theorem State.sensorTest_sound (s : State) (a : Axis) : State.Sound w p s (s.sensorTest a) := by
  unfold State.sensorTest
  split
  next => exact .refl s
  next l _ =>
    split
    next =>
      have fault : State.Sound w p s
          (((s.modLatch l (fun x => { x with state := .unknown, sensorFault := true, firstReading := false })).modChan a
            (fun c => { c with lockedOut := true })).demote a .unverified) :=
        ((s.modLatch_sound l _).trans (State.modChan_same _ a _ id rfl)).trans (State.demote_sound _ a _)
      dsimp only
      split
      next driving => exact fault.trans (State.enterBraking_sound _ a _ _ (Motion.stoppable_of_driving driving))
      next => exact fault
    next => exact .refl s

theorem State.dropSolenoid_sound (s : State) (a : Axis) : State.Sound w p s (s.dropSolenoid a) := by
  unfold State.dropSolenoid
  split
  next => exact s.modLatch_sound _ _
  next => exact .refl s

theorem State.decideRelock_sound (s : State) (a : Axis) (passed : Bool) : State.Sound w p s (s.decideRelock a passed) := by
  unfold State.decideRelock
  split
  next => exact .refl s
  next l _ =>
    split
    next =>
      dsimp only
      have checked (b : Bool) (u : State) : State.Sound w p u (if b then u else u.modChan a (fun c => { c with lastOutcome := some .latchNotEngaged })) := by
        split
        next => exact .refl u
        next => exact u.modChan_same a _ id rfl
      split
      next => exact ((s.modLatch_sound l _).trans (checked passed _)).trans (State.emit_sound _ _)
      next => exact (s.modLatch_sound l _).trans (checked passed _)
    next => exact .refl s

/-! ## Stops of jobs, and decisive outcomes -/

theorem State.each_ac {α : Type} (f : State → α → State) (h : ∀ (t : State) (x : α), (f t x).ac = t.ac) : ∀ (l : List α) (s : State),
    (s.each l f).ac = s.ac
  | [], _ => rfl
  | x :: l, s => (State.each_ac f h l (f s x)).trans (h s x)

theorem State.withdraw_ac (s : State) (a : Axis) : (s.withdraw a).ac = s.ac := State.freeLeg_ac _ _

/-- The removal of waiting entries and held grants touches no channel. -/
theorem State.dropWork_ac (s : State) (f : WaitEntry → Bool) : (s.dropWork f).ac = s.ac := by
  unfold State.dropWork
  split
  next => rfl
  next =>
    dsimp only
    rw [State.emit_ac, State.each_ac, State.setWait_ac]
    intro t a
    split
    next =>
      split
      next => exact t.withdraw_ac a
      next => rfl
    next => rfl

theorem State.eachStop_rests (s : State) (l : List Axis) (c : Code) : State.Rests p s (s.each l (fun t a => t.stopAxis a c none)) :=
  .each _ l s (fun t a => t.stopAxis_rests a c none)

theorem State.abortScene_rests (s : State) (j : Slot) : State.Rests p s (s.abortScene j) := by
  unfold State.abortScene
  split
  next => exact .of_ac rfl
  next x _ =>
    have dropped : State.Rests p s (((s.modScene j (fun sc => { sc with rows := sc.rows.map Row.abort })).overHoming j).dropWork
        (fun e => e.slot == j && !e.obstructed)) := .of_ac (State.dropWork_ac _ _)
    dsimp only
    have stopped := fun l => dropped.trans (State.eachStop_rests _ l .stopped)
    split
    next =>
      split
      next => exact (stopped _).trans (.of_ac rfl)
      next => exact stopped _
    next => exact (stopped _).trans (.of_ac rfl)

theorem State.takeOutcome_rests (s : State) (j : Slot) (c : Code) (f : Option Axis) (n : Option Nat) : State.Rests p s (s.takeOutcome j c f n) := by
  unfold State.takeOutcome
  split
  next => exact .of_ac rfl
  next =>
    split
    next => exact .of_ac rfl
    next =>
      dsimp only
      have decided : State.Rests p s (s.modJob j (fun y => { y with outcome := some c, failing := f, aux := n })) := .of_ac rfl
      split
      next =>
        split
        next => exact decided.trans (State.abortScene_rests _ j)
        next => exact .of_ac (State.dropWork_ac _ _)
        next => exact decided
      next => exact decided

theorem State.haltJob_rests (s : State) (j : Slot) (c : Code) (o : Option Code) : State.Rests p s (s.haltJob j c o) := by
  unfold State.haltJob
  split
  next => exact .of_ac rfl
  next x _ =>
    split
    next => exact .of_ac rfl
    next =>
      have dropped : State.Rests p s (((s.modJob j (fun y =>
        { y with
          state := .ending
          finished := true
          holdTimer := y.holdTimer.hold
          outcome := y.outcome.or o
          scene := y.scene.map (s.stopScene j) })).overHoming j).dropWork (fun e => e.slot == j)) := .of_ac (State.dropWork_ac _ _)
      exact dropped.trans (State.eachStop_rests _ _ c)

theorem State.takeOutcome_sound (s : State) (j : Slot) (c : Code) (f : Option Axis) (n : Option Nat) : State.Sound w p s (s.takeOutcome j c f n) :=
  (s.takeOutcome_but (ok := fun _ => True) j c f n).sound (s.takeOutcome_rests j c f n)

theorem State.haltJob_sound (s : State) (j : Slot) (c : Code) (o : Option Code) : State.Sound w p s (s.haltJob j c o) :=
  (s.haltJob_but (ok := fun _ => True) j c o).sound (s.haltJob_rests j c o)

theorem State.stopJobs_sound (s : State) (l : List Slot) : State.Sound w p s (s.each l State.stopJob) := .each _ l s (fun t j => t.haltJob_sound j _ _)

/-! ## Answers and accepted requests -/

/-- The pending-refusal slots are no part of the records that agree. -/
theorem JobManager.Good.of_records {u t : JobManager} (h : u.Good) (slots : t.slots = u.slots) (attended : t.attended = u.attended)
    (scenes : t.scenes = u.scenes) (services : t.services = u.services) (doneList : t.doneList = u.doneList) (claims : t.claims = u.claims) : t.Good := by
  obtain ⟨hd, hc, ha, hs, hv, hp⟩ := h
  rw [← slots] at hd hc ha hs hv hp
  exact ⟨doneList ▸ hd, claims ▸ hc, attended ▸ ha, scenes ▸ hs, services ▸ hv, hp⟩

theorem State.setAnswer_sound (s : State) (r : Role) (x : Option Answer) : State.Sound w p s (s.setAnswer r x) :=
  .of_jm rfl (fun h => h.of_records rfl rfl rfl rfl rfl rfl) rfl rfl rfl rfl

theorem State.setLastPad_sound (s : State) (q : Pad) (x : Option Code) : State.Sound w p s (s.setLastPad q x) :=
  .of_jm rfl (fun h => h.of_records rfl rfl rfl rfl rfl rfl) rfl rfl rfl rfl

theorem State.putAnswer_sound (s : State) (r : Role) (x : Answer) : State.Sound w p s (s.putAnswer r x) := by
  unfold State.putAnswer
  split <;> exact s.setAnswer_sound r _

theorem State.answer_sound (s : State) (r : Role) (k : ReqKind) (tag : BitVec 4) (x : Refused) : State.Sound w p s (s.answer r k tag x) :=
  s.putAnswer_sound r _

theorem State.refuse_sound (s : State) (r : Role) (k : ReqKind) (tag : BitVec 4) (c : Code) : State.Sound w p s (s.refuse r k tag c) :=
  s.answer_sound r k tag _

/-- The lowest FREE slot of the partners (R92). -/
theorem State.freeSlot_some {s : State} {j : Slot} (h : s.freeSlot = some j) :
    j.val < 14 ∧ s.jm.slots[j] = none ∧ ∀ k : Slot, k < j → s.jm.slots[k] ≠ none := by
  unfold State.freeSlot at h
  obtain ⟨free, before, after, parts, busy⟩ := List.find?_eq_some_iff_append.1 h
  have member : j ∈ partnerSlots := by rw [parts]; simp
  have below : ∀ j : Slot, j ∈ partnerSlots → j.val < 14 := by decide
  have lower : ∀ (j k : Slot), j ∈ partnerSlots → k < j → k ∈ partnerSlots := by decide
  have sorted : partnerSlots.Pairwise (· < ·) := by decide
  refine ⟨below j member, by simpa [State.slotBusy] using free, fun k hk none => ?_⟩
  have hk' : k ∈ before ++ j :: after := parts ▸ lower j k member hk
  rw [parts] at sorted
  have after_lt : ∀ x ∈ after, j < x := (List.pairwise_cons.1 (List.pairwise_append.1 sorted).2.1).1
  rcases List.mem_append.1 hk' with e | e
  · have := busy k e
    simp [State.slotBusy, none] at this
  · rcases List.mem_cons.1 e with e | e
    · exact absurd e (Fin.ne_of_lt hk)
    · exact absurd (after_lt k e) (Fin.lt_asymm hk)

theorem State.slotFor_ok {s : State} {r : Role} {j : Slot} (h : s.slotFor r = .ok j) :
    j.val < 14 ∧ s.jm.slots[j] = none ∧ ∀ k : Slot, k < j → s.jm.slots[k] ≠ none := by
  unfold State.slotFor at h
  split at h
  next => cases h
  next free =>
    split at h
    next => cases h
    next => cases h; exact State.freeSlot_some free

/-- A partner's new job takes its slot. -/
theorem State.takeSlot_sound (s : State) {r q : Role} {j : Slot} (hj : s.slotFor r = .ok j) (x : Job) (active : x.state = .active)
    (source : x.source = .partner q) (free : ∀ a : Axis, AxisSet.has x.claimed a = true → s.jm.claims[a] = none) :
    State.Sound w p s (s.takeSlot j x) := by
  obtain ⟨below, empty, _⟩ := State.slotFor_ok hj
  refine .of_jm rfl (fun h => h.take j x empty active (fun pad => ?_) free) rfl rfl rfl rfl
  rw [source]
  exact ⟨fun e => (by cases e), fun e => by have := padSlot_ge pad; rw [← e] at this; omega⟩

theorem State.place_ac (s : State) (j : Slot) (a : Axis) (rank : Nat) (k : MoveKind) (dir : Dir) (v : Speed) (t : Option Nat) :
    (s.place j a rank k dir v t).ac = s.ac := by
  unfold State.place
  dsimp only
  split <;> rfl

theorem State.place_sound (s : State) (j : Slot) (a : Axis) (rank : Nat) (k : MoveKind) (dir : Dir) (v : Speed) (t : Option Nat) :
    State.Sound w p s (s.place j a rank k dir v t) :=
  (s.place_but (ok := fun _ => True) j a rank k dir v t).sound (.of_ac (s.place_ac ..))

theorem State.startNextPhase_ac (s : State) (j : Slot) : (s.startNextPhase j).ac = s.ac := by
  unfold State.startNextPhase
  repeat' split
  all_goals rfl

theorem State.startNextPhase_sound (s : State) (j : Slot) : State.Sound w p s (s.startNextPhase j) :=
  (s.startNextPhase_but (ok := fun _ => True) j).sound (.of_ac (s.startNextPhase_ac j))

theorem State.acceptHold_sound (s : State) {r q : Role} {j : Slot} (hj : s.slotFor r = .ok j) (tag : BitVec 4) (b : Option Button) (a : Axis) (dir : Dir)
    (timer : Timer) (free : s.jm.claims[a] = none) : State.Sound w p s (s.acceptHold j (.partner q) tag b a dir timer) :=
  (s.takeSlot_sound hj _ rfl rfl (fun c h => by
    have e : c = a := AxisSet.has_one h
    rw [e]; exact free)).trans (State.place_sound _ ..)

theorem State.acceptRun_sound (s : State) {r q : Role} {j : Slot} (hj : s.slotFor r = .ok j) (tag : BitVec 4) (b : Option Button) (x : Arrangement)
    (free : ∀ a : Axis, AxisSet.has (s.claimSet x) a = true → s.jm.claims[a] = none) : State.Sound w p s (s.acceptRun j (.partner q) tag b x) := by
  unfold State.acceptRun
  have taken := s.takeSlot_sound (w := w) (p := p) hj (s.runJob (.partner q) tag b x) rfl rfl free
  dsimp only
  split
  next => exact taken.trans (State.startNextPhase_sound _ j)
  next => exact taken.trans (State.emit_sound _ _)

theorem State.homeCheck_free {s : State} {m : AxisSet} (h : s.homeCheck m = none) (a : Axis) (ha : AxisSet.has m a = true) : s.jm.claims[a] = none := by
  simp only [State.homeCheck, Option.or_eq_none_iff] at h
  exact State.claimedCheck_free h.1.2 a ha

end

end Machine
end Sys2Proof
end

section
/-! State.Sound for the effect of every command, part by part: the requests, the timers of the jobs, the channels, the latches, the supply. -/

namespace Sys2Proof
namespace Machine

section
variable {w : Prop} {p : Axis → Prop}

/-! ## Requests -/

theorem State.reqRun_sound (s : State) (r : Role) (tag : BitVec 4) (n : Byte) : State.Sound w p s (s.reqRun r tag n) := by
  unfold State.reqRun
  split
  next => exact s.refuse_sound ..
  next =>
    split
    next => exact s.answer_sound ..
    next checked =>
      split
      next => exact s.refuse_sound ..
      next slot => exact s.acceptRun_sound slot tag none _ (State.runCheck_free checked)

theorem State.repeatHold_sound (s : State) (r : Role) (tag : BitVec 4) (j : Slot) (dir : Dir) : State.Sound w p s (s.repeatHold r tag j dir) := by
  unfold State.repeatHold
  split
  next =>
    split
    next => exact .of_jm rfl (fun h => h.job j _ (fun _ _ => ⟨Iff.rfl, rfl, rfl, rfl⟩)) rfl rfl rfl rfl
    next => exact s.answer_sound ..
  next => exact .refl s

theorem State.newHold_sound (s : State) (r : Role) (tag : BitVec 4) (a : Axis) (dir : Dir) : State.Sound w p s (s.newHold r tag a dir) := by
  unfold State.newHold
  split
  next => exact s.answer_sound ..
  next checked =>
    split
    next => exact s.refuse_sound ..
    next slot => exact s.acceptHold_sound slot tag none a dir .start (State.holdCheck_free checked)

theorem State.reqHold_sound (s : State) (r : Role) (tag : BitVec 4) (a d : Byte) : State.Sound w p s (s.reqHold r tag a d) := by
  unfold State.reqHold
  split
  next =>
    split
    next => exact s.refuse_sound ..
    next =>
      split
      next => exact s.repeatHold_sound ..
      next => exact s.newHold_sound ..
  next => exact s.refuse_sound ..

theorem State.reqRelease_sound (s : State) (r : Role) (tag : BitVec 4) (a : Byte) : State.Sound w p s (s.reqRelease r tag a) := by
  unfold State.reqRelease
  split
  next => exact s.refuse_sound ..
  next =>
    split
    next => exact s.refuse_sound ..
    next =>
      split
      next => exact s.haltJob_sound ..
      next => exact s.refuse_sound ..

theorem State.reqStopJob_sound (s : State) (r : Role) (tag : BitVec 4) (b : Byte) : State.Sound w p s (s.reqStopJob r tag b) := by
  unfold State.reqStopJob
  split
  next => exact s.refuse_sound ..
  next =>
    split
    next => exact s.refuse_sound ..
    next => exact (s.stopJobs_sound _).trans (State.answer_sound ..)

theorem State.reqStopAll_sound (s : State) (r : Role) (tag : BitVec 4) : State.Sound w p s (s.reqStopAll r tag) := by
  unfold State.reqStopAll
  split
  next => exact s.refuse_sound ..
  next => exact (s.stopJobs_sound _).trans (State.refuse_sound ..)

theorem Channel.InRange.clearFaults {c : Channel} (h : c.InRange) : c.clearFaults.InRange := by
  obtain ⟨position, stray, low, high, coast, margin, timeout, _⟩ := h
  exact ⟨position, stray, low, high, coast, margin, timeout, Nat.zero_le _⟩

theorem State.clearAxis_sound (s : State) (a : Axis) : State.Sound w p s (s.clearAxis a) := by
  have flags : State.Sound w p s (s.modChan a Channel.clearFaults) := s.modChan_same a _ .clearFaults rfl
  have latch : State.Sound w p s (match latchOf a with
      | some l => (s.modChan a Channel.clearFaults).modLatch l Latch.clearFault
      | none => s.modChan a Channel.clearFaults) := by
    split
    next => exact flags.trans (State.modLatch_sound ..)
    next => exact flags
  unfold State.clearAxis
  dsimp only
  split
  next =>
    split
    next => exact latch.trans (.of_ac (fun _ h => h) (fun _ h => h) (fun _ h => h) (.of_ac rfl) (fun h => h) rfl rfl rfl rfl rfl rfl)
    next => exact latch
  next => exact latch

theorem State.reqClearFaults_sound (s : State) (r : Role) (tag : BitVec 4) (m : Byte) : State.Sound w p s (s.reqClearFaults r tag m) := by
  unfold State.reqClearFaults
  split
  next => exact s.refuse_sound ..
  next =>
    split
    next => exact s.refuse_sound ..
    next =>
      split
      next => exact s.answer_sound ..
      next => exact (State.Sound.each _ _ s (fun t a => t.clearAxis_sound a)).trans (State.answer_sound ..)

theorem State.reqHome_sound (s : State) (r : Role) (tag : BitVec 4) (m : Byte) : State.Sound w p s (s.reqHome r tag m) := by
  unfold State.reqHome
  split
  next => exact s.refuse_sound ..
  next =>
    split
    next => exact s.refuse_sound ..
    next =>
      split
      next => exact s.answer_sound ..
      next checked =>
        split
        next => exact s.refuse_sound ..
        next slot => exact (s.takeSlot_sound slot (s.homeJob r tag _) rfl rfl (State.homeCheck_free checked)).trans (State.emit_sound ..)

/-- Every code of TRIM_ADJUST moves the trims within 0..15 and nothing else (R156). -/
theorem Channel.trim_eq (c : Channel) (code : Nat) : c.trim code = { c with
    marginTrim := if code ∈ [1, 5, 7] then trimUp c.marginTrim else if code ∈ [2, 6, 8] then trimDown c.marginTrim else c.marginTrim
    timeoutTrim := if code ∈ [3, 5, 8] then trimUp c.timeoutTrim else if code ∈ [4, 6, 7] then trimDown c.timeoutTrim else c.timeoutTrim } := by
  match code with
  | 0 | 1 | 2 | 3 | 4 | 5 | 6 | 7 | 8 => rfl
  | n + 9 =>
    have away (l : List Nat) (h : ∀ k ∈ l, k ≤ 8) : n + 9 ∉ l := fun m => absurd (h _ m) (by omega)
    rw [if_neg (away _ (by decide)), if_neg (away _ (by decide)), if_neg (away _ (by decide)), if_neg (away _ (by decide))]
    rfl

theorem Channel.InRange.trim {c : Channel} (h : c.InRange) (code : Nat) : (c.trim code).InRange := by
  obtain ⟨position, stray, low, high, coast, margin, timeout, streak⟩ := h
  have moved (up down : List Nat) (n : Nat) (hn : n ≤ 15) :
      (if code ∈ up then trimUp n else if code ∈ down then trimDown n else n) ≤ 15 := by
    unfold trimUp trimDown
    split
    next => omega
    next => split <;> omega
  rw [Channel.trim_eq]
  exact ⟨position, stray, low, high, coast, moved _ _ _ margin, moved _ _ _ timeout, streak⟩

theorem State.reqTrim_sound (s : State) (r : Role) (tag : BitVec 4) (a c : Byte) : State.Sound w p s (s.reqTrim r tag a c) := by
  unfold State.reqTrim
  split
  next => exact s.refuse_sound ..
  next b _ =>
    split
    next => exact s.refuse_sound ..
    next =>
      split
      next => exact s.answer_sound ..
      next =>
        have motion : (s.ac[b].trim c.toNat).motion = s.ac[b].motion := by rw [Channel.trim_eq]
        exact (s.modChan_same b _ (fun h => h.trim _) motion).trans (State.answer_sound ..)

theorem State.reqEnterService_sound (s : State) (r : Role) (tag : BitVec 4) : State.Sound w p s (s.reqEnterService r tag) := by
  have entered : State.Sound w p s { s with st := { s.st with service := true, serviceTimer := .start, leavePending := false } } :=
    .of_rest rfl rfl rfl rfl rfl rfl
  unfold State.reqEnterService
  dsimp only
  split
  next => exact s.refuse_sound ..
  next =>
    split
    next => exact entered.trans (State.refuse_sound ..)
    next =>
      split
      next => exact s.refuse_sound ..
      next =>
        split
        next => exact s.answer_sound ..
        next => exact entered.trans (State.refuse_sound ..)

theorem State.reqStoreRead_sound (s : State) (r : Role) (tag : BitVec 4) (n : BitVec 16) : State.Sound w p s (s.reqStoreRead r tag n) := by
  unfold State.reqStoreRead
  split
  next => exact s.refuse_sound ..
  next => exact s.putAnswer_sound r _

theorem State.reqStoreWrite_sound (s : State) (r : Role) (tag : BitVec 4) (n : BitVec 16) (l : List Byte) :
    State.Sound w p s (s.reqStoreWrite r tag n l) := by
  unfold State.reqStoreWrite
  split
  next => exact s.refuse_sound ..
  next =>
    split
    next => exact s.refuse_sound ..
    next =>
      split
      next => exact s.refuse_sound ..
      next => exact .of_rest rfl rfl rfl rfl rfl rfl

/-! ## The jobs' timers -/

theorem State.holdLost_sound (s : State) (j : Slot) : State.Sound w p s (s.holdLost j) := by
  unfold State.holdLost
  split
  next =>
    split
    next => exact s.haltJob_sound ..
    next => exact .refl s
  next => exact .refl s

theorem State.deferralOver_sound (s : State) (j : Slot) (a : Axis) : State.Sound w p s (s.deferralOver j a) := by
  unfold State.deferralOver
  split
  next => exact .refl s
  next =>
    split
    next =>
      split
      next => exact s.takeOutcome_sound ..
      next => exact .refl s
    next => exact .refl s

/-! ## Samples and limits -/

theorem State.addHeat_sound (s : State) (a : Axis) (i : Nat) : State.Sound w p s (s.addHeat a i) :=
  .of_rest rfl rfl rfl rfl rfl rfl

/-- RUNNING entry lowers the reservation to its running value (R52). -/
theorem State.enterRunning_sound (s : State) (a : Axis) (starting : s.ac[a].motion = .starting) : State.Sound w p s (s.enterRunning a) := by
  let run : Nat := match s.driveAxis a with | some d => d.runRes | none => 0
  let u : State := (s.modChan a (fun c => { c with motion := .running })).setGrant a (s.da.grants[a].map (fun g => { g with reservation := run }))
  have chan : ∀ b : Axis, u.ac[b] = if b = a then { s.ac[a] with motion := .running } else s.ac[b] := fun b => State.modChan_get s a b (fun c => { c with motion := .running })
  have grant : ∀ b : Axis, u.da.grants[b] = if b = a then s.da.grants[a].map (fun g => { g with reservation := run }) else s.da.grants[b] :=
    fun b => State.setGrant_get ..
  refine State.Sound.trans (v := u) ⟨⟨fun h b => ?_, id, fun _ h => h, fun _ h d hd => ?_, fun b _ h => ?_, rfl⟩, rfl, rfl⟩ (State.emit_sound _ _)
  · rw [chan]; split
    next => exact h a
    next => exact h b
  · obtain ⟨order, total, legs, spare⟩ := h d hd
    have value : run = d.axis[a].runRes := by
      have drive : s.driveAxis a = some d.axis[a] := by
        rw [State.driveAxis, show s.st.drive = some d from hd]; rfl
      dsimp only [run]; rw [drive]
    have lower : ∀ g, s.da.grants[a] = some g → run ≤ g.reservation := fun g hg => by
      rw [value]
      exact (spare a g hg).2 (.inr (.inr starting))
    have sums (b : Axis) (f : Grant → Nat) (hf : ∀ g : Grant, run ≤ g.reservation → f { g with reservation := run } ≤ f g) :
        (match u.da.grants[b] with | some g => f g | none => 0) ≤ (match s.da.grants[b] with | some g => f g | none => 0) := by
      rw [grant]
      by_cases e : b = a
      · subst e
        rw [if_pos rfl]
        cases hg : s.da.grants[b] with
        | none => exact Nat.le_refl _
        | some g => exact hf g (lower g hg)
      · exact Nat.le_of_eq (by rw [if_neg e])
    refine ⟨order, Nat.le_trans (sum_le_of _ _ _ (fun b _ => sums b (fun g => g.reservation) (fun _ h => h))) total,
      fun l => Nat.le_trans (sum_le_of _ _ _ (fun b _ => sums b (fun g => if g.commonLeg = some l then g.reservation else 0) (fun g h => ?_))) (legs l),
      fun b g hg => ?_⟩
    · dsimp only
      split
      next => exact h
      next => exact Nat.le_refl _
    · by_cases e : b = a
      · subst e
        rw [grant, if_pos rfl] at hg
        obtain ⟨g', hg', rfl⟩ := Option.map_eq_some_iff.1 hg
        have held : g'.held ≠ true := fun held => by
          have idle := (spare b g' hg').1 held
          rw [starting] at idle
          cases idle
        rw [chan, if_pos rfl]
        exact ⟨fun k => absurd k held, fun _ => Nat.le_of_eq value.symm⟩
      · rw [grant, if_neg e] at hg
        rw [chan, if_neg e]
        exact spare b g hg
  · rw [chan]; split
    next e => subst e; rw [starting] at h; cases h
    next => exact h

theorem State.startingSample_sound (s : State) (a : Axis) (m : Move) (starting : s.ac[a].motion = .starting) :
    State.Sound w p s (s.startingSample a m) := by
  have kept (f : Channel → Channel) (u : State) (h : u.ac[a].motion = .starting) (k : ∀ c, (f c).motion = c.motion) :
      (u.modChan a f).ac[a].motion = .starting := by rw [State.modChan_get, if_pos rfl, k, h]
  unfold State.startingSample
  dsimp only
  have ramp := s.modMove_sound (w := w) (p := p) a (fun x => { x with duty := min m.runDuty (m.duty + m.rampStep) })
  have ramping : (s.modMove a (fun x => { x with duty := min m.runDuty (m.duty + m.rampStep) })).ac[a].motion = .starting :=
    kept _ s starting (fun _ => rfl)
  have blanking : State.Sound w p s (if m.samples = Config.blankingSamples
      then (s.modMove a (fun x => { x with duty := min m.runDuty (m.duty + m.rampStep) })).modChan a (fun c => { c with hallTimer := .start })
      else s.modMove a (fun x => { x with duty := min m.runDuty (m.duty + m.rampStep) })) := by
    split
    next => exact ramp.trans (State.modChan_same _ a _ id rfl)
    next => exact ramp
  split
  next =>
    refine blanking.trans (State.enterRunning_sound _ a ?_)
    split
    next => exact kept _ _ ramping (fun _ => rfl)
    next => exact ramping
  next => exact blanking

theorem State.runningSample_sound (s : State) (a : Axis) (m : Move) (i : Nat) (running : s.ac[a].motion = .running) :
    State.Sound w p s (s.runningSample a m i) := by
  unfold State.runningSample
  dsimp only
  generalize (if m.kind ≠ .homing ∧ m.threshold < i then m.obstruction + 1 else 0) = run
  split
  next =>
    refine ((s.modMove_sound a _).trans (State.modChan_same _ a _ id rfl)).trans (State.enterBraking_sound _ a _ _ ?_)
    simp only [State.modMove, State.modChan_get, if_true, running]
    rfl
  next => exact s.modMove_sound a _

theorem State.takeSample_sound (s : State) (a : Axis) (i : Nat) : State.Sound w p s (s.takeSample a i) := by
  unfold State.takeSample
  dsimp only
  have counted := (s.addHeat_sound (w := w) (p := p) a (min 255 i)).trans (State.modMove_sound _ a
    (fun m => { m with samples := m.samples + 1, lowCurrent := m.lowCurrent && decide (min 255 i < Config.lowCurrentLimit) }))
  split
  next => exact counted
  next =>
    split
    next starting => exact counted.trans (State.startingSample_sound _ a _ starting)
    next running => exact counted.trans (State.runningSample_sound _ a _ _ running)
    next => exact counted

theorem State.sampleDue_sound (s : State) (a : Axis) (i : Nat) : State.Sound w p s (s.sampleDue a i) := by
  unfold State.sampleDue
  split
  next => exact .refl s
  next =>
    split
    next => exact .refl s
    next =>
      split
      next => exact s.modMove_sound a _
      next => exact s.takeSample_sound a i

theorem Motion.driving_of_not {m : Motion} {b : Bool} (h : ¬ (!m.driving || b) = true) : m.driving = true := by
  cases hm : m.driving
  case true => rfl
  case false => rw [hm] at h; exact absurd rfl h

theorem State.limitEvent_sound (s : State) (a : Axis) : State.Sound w p s (s.limitEvent a) := by
  unfold State.limitEvent
  split
  next => exact .refl s
  next m _ =>
    split
    next => exact .refl s
    next on =>
      have counted := (s.modChan_same (w := w) (p := p) a (fun c => { c with limitSeen := true }) id rfl).trans
        (State.modMove_sound _ a (fun x => { x with limitEvents := m.limitEvents + 1 }))
      dsimp only
      split
      next => exact counted.trans (State.modMove_sound _ a _)
      next =>
        refine (counted.trans (State.modChan_same _ a _ id rfl)).trans (State.enterBraking_sound _ a _ _ ?_)
        simp only [State.modMove, State.modChan_get, if_true]
        exact Motion.stoppable_of_driving (Motion.driving_of_not on)

theorem State.offTimeOver_sound (s : State) (a : Axis) (i : Nat) : State.Sound w p s (s.offTimeOver a i) := by
  unfold State.offTimeOver
  split
  next => exact .refl s
  next =>
    split
    next => exact .refl s
    next =>
      dsimp only
      split
      next => exact (s.modMove_sound a _).trans (State.takeSample_sound _ a i)
      next => exact s.modMove_sound a _

theorem State.legOvercurrent_sound (s : State) (l : Leg) : State.Sound w p s (s.legOvercurrent l) := by
  unfold State.legOvercurrent
  split
  next => exact .refl s
  next =>
    have fault : State.Sound w p s { s with da := { s.da with legFault := s.da.legFault.set l true } } :=
      .of_ac (fun _ h => h) (fun _ h => h) (fun _ h => h) (.of_ac rfl) (fun h => h) rfl rfl rfl rfl rfl rfl
    exact (fault.trans (State.shuffled_sound _ _)).trans (.each _ _ _ (fun t a => t.stopAxis_sound a _ _))

/-! ## Edges -/

theorem Channel.InRange.at_position {c : Channel} (h : c.InRange) {d : Channel} {n : Nat} (hn : n ≤ 32767) (hd : d = { c with
    position := n, hallTimer := d.hallTimer, restTimer := d.restTimer, move := d.move }) : d.InRange := by
  obtain ⟨_, stray, low, high, coast, margin, timeout, streak⟩ := h
  rw [hd]
  exact ⟨hn, stray, low, high, coast, margin, timeout, streak⟩

theorem State.strayEdge_sound (s : State) (a : Axis) : State.Sound w p s (s.strayEdge a) := by
  have counted : State.Sound w p s (s.modChan a (fun c => { c with stray := min 255 (c.stray + 1) })) :=
    s.modChan_same a _ (fun ⟨position, _, rest⟩ => ⟨position, Nat.min_le_left _ _, rest⟩) rfl
  unfold State.strayEdge
  dsimp only
  split
  next => exact counted.trans (State.demote_sound ..)
  next => exact counted

theorem State.saturate_sound (s : State) (a : Axis) : State.Sound w p s (s.saturate a) := by
  have lost := s.setValidity_sound (w := w) (p := p) a .unhomed
  unfold State.saturate
  dsimp only
  split
  next => exact ((lost.trans (State.dropSolenoid_sound _ a)).trans (State.modMove_sound _ a _)).trans (State.enterDwell_sound _ a)
  next motion => exact lost.trans (State.enterBraking_sound _ a _ _ (by rw [motion]; rfl))
  next motion => exact lost.trans (State.enterBraking_sound _ a _ _ (by rw [motion]; rfl))
  next => exact (lost.trans (State.modMove_sound _ a _)).trans (State.modChan_same _ a _ id rfl)
  next => exact ((lost.trans (State.modMove_sound _ a _)).trans (State.modChan_same _ a _ id rfl)).trans (State.emit_sound ..)
  next => exact ((lost.trans (State.modMove_sound _ a _)).trans (State.modChan_same _ a _ id rfl)).trans (State.emit_sound ..)

theorem State.edgeCause_sound (s : State) (a : Axis) (c : EdgeCause) : State.Sound w p s (s.edgeCause a c) := by
  unfold State.edgeCause
  split
  next => exact s.sensorTest_sound a
  next =>
    split
    next driving =>
      refine (s.modMove_sound a _).trans (State.enterBraking_sound _ a _ _ ?_)
      simp only [State.modMove, State.modChan_get, if_true]
      exact Motion.stoppable_of_driving driving
    next => exact .refl s
  next =>
    split
    next driving => exact s.enterBraking_sound a _ _ (Motion.stoppable_of_driving driving)
    next => exact .refl s
  next =>
    split
    next driving => exact (s.enterBraking_sound a _ _ (Motion.stoppable_of_driving driving)).trans (State.setValidity_sound ..)
    next => exact .refl s

theorem State.holdClears_sound (s : State) (a : Axis) : State.Sound w p s (s.holdClears a) := by
  unfold State.holdClears
  dsimp only
  split
  next => exact .refl s
  next =>
    split
    next =>
      split
      next => exact .refl s
      next =>
        split
        next => exact s.modLatch_sound _ _
        next => exact .refl s
    next => exact .refl s

theorem State.countEdge_sound (s : State) (a : Axis) {n : Nat} (hn : s.ac[a].InRange → n ≤ 32767) : State.Sound w p s (s.countEdge a n) :=
  (s.modChan_same a _ (fun h => h.at_position (hn h) rfl) rfl).trans (State.holdClears_sound _ a)

theorem State.moveEdge_sound (s : State) (a : Axis) {n : Nat} (gap : Nat) (hn : s.ac[a].InRange → n ≤ 32767) :
    State.Sound w p s (s.moveEdge a n gap) :=
  ((s.countEdge_sound a hn).trans (State.shuffled_sound _ _)).trans (.each _ _ _ (fun t c => t.edgeCause_sound a c))

/-- A stepped position lies in its range (R24). -/
theorem Channel.stepped_le {c : Channel} {n : Nat} (h : c.stepped = some n) (range : c.InRange) : n ≤ 32767 := by
  have bound := range.1
  have top : Config.maxPosition = 32767 := rfl
  unfold Channel.stepped at h
  split at h
  next =>
    split at h
    next => cases h; omega
    next => cases h
  next =>
    split at h
    next => cases h
    next => cases h; omega

theorem State.hallEdge_sound (s : State) (a : Axis) (gap : Nat) : State.Sound w p s (s.hallEdge a gap) := by
  unfold State.hallEdge
  split
  next => exact .refl s
  next =>
    split
    next => exact s.strayEdge_sound a
    next =>
      split
      next moved => exact s.moveEdge_sound a gap (Channel.stepped_le moved)
      next =>
        split
        next => exact s.moveEdge_sound a gap (fun h => h.1)
        next => exact s.saturate_sound a

theorem Channel.InRange.stalled {c : Channel} (h : c.InRange) : c.stalled.InRange := by
  obtain ⟨position, stray, low, high, coast, margin, timeout, _⟩ := h
  exact ⟨position, stray, low, high, coast, margin, timeout, Nat.min_le_left _ _⟩

/-- A homing stop gives a position in its range (R150; log 5). -/
theorem State.homePosition_le (s : State) (a : Axis) (h : s.ac[a].position ≤ 32767) : s.homePosition a ≤ 32767 := by
  unfold State.homePosition Config.maxPosition
  split
  next => split <;> omega
  next => exact h

theorem State.enterBraking_position (s : State) (a : Axis) (code : Code) (pred : Option Nat) (b : Axis) :
    (s.enterBraking a code pred).ac[b].position = s.ac[b].position :=
  ((s.enterBraking_but (ok := fun _ => True) a code pred).loose b).position

theorem State.hallTimeout_sound (s : State) (a : Axis) : State.Sound w p s (s.hallTimeout a) := by
  unfold State.hallTimeout
  split
  next => exact .refl s
  next m _ =>
    split
    next => exact .refl s
    next on =>
      have moving : s.ac[a].motion.stoppable = true := Motion.stoppable_of_driving (Motion.driving_of_not on)
      split
      next =>
        refine (s.modChan_same a _ id rfl).trans (State.enterBraking_sound _ a _ _ ?_)
        rw [State.modChan_get, if_pos rfl]; exact moving
      next =>
        split
        next =>
          have braked := s.enterBraking_sound (w := w) (p := p) a .done none moving
          refine (braked.trans (State.modChan_same _ a _ (fun h => h.at_position (s.homePosition_le a ?_) rfl) rfl)).trans (State.sensorTest_sound _ a)
          rw [← s.enterBraking_position a .done none a]
          exact h.1
        next =>
          refine (s.modChan_same a _ .stalled rfl).trans (State.enterBraking_sound _ a _ _ ?_)
          rw [State.modChan_get, if_pos rfl]; exact moving

end

end Machine
end Sys2Proof
end

section
/-! State.Sound for the ends of moves, the latches, the data frames, the supply, the port and the pads. -/

namespace Sys2Proof
namespace Machine

section
variable {w : Prop} {p : Axis → Prop}

/-! ## The ends of BRAKING and DWELL, cooling -/

theorem State.brakingOver_sound (s : State) (a : Axis) : State.Sound w p s (s.brakingOver a) := by
  unfold State.brakingOver
  split
  next => exact s.enterDwell_sound a
  next => exact .refl s

theorem State.dwellOver_sound (s : State) (a : Axis) : State.Sound w p s (s.dwellOver a) := by
  unfold State.dwellOver
  split
  next dwell =>
    refine (s.modChan_sound a _ id (fun h => ?_) (fun h => ?_) (fun _ => rfl)).trans (State.emit_sound _ _)
    · exact absurd (dwell.symm.trans h) (by decide)
    · rcases h with h | h <;> cases h
  next => exact .refl s

theorem State.coolStep_sound (s : State) (a : Axis) : State.Sound w p s (s.coolStep a) := by
  unfold State.coolStep
  split
  next => exact .of_rest rfl rfl rfl rfl rfl rfl
  next => exact .refl s

/-! ## Latches -/

theorem State.firstPulseOver_sound (s : State) (l : LatchNo) : State.Sound w p s (s.firstPulseOver l) := by
  unfold State.firstPulseOver
  split
  next => exact s.modLatch_sound l _
  next => exact .refl s

theorem State.gapOver_sound (s : State) (l : LatchNo) : State.Sound w p s (s.gapOver l) := by
  unfold State.gapOver
  split
  next => exact s.modLatch_sound l _
  next => exact .refl s

theorem State.retryOver_sound (s : State) (l : LatchNo) : State.Sound w p s (s.retryOver l) := by
  unfold State.retryOver
  split
  next =>
    dsimp only
    split
    next => exact ((s.modLatch_sound l _).trans (State.modMove_sound _ _ _)).trans (State.enterDwell_sound _ _)
    next => exact s.modLatch_sound l _
  next => exact .refl s

theorem State.holdOver_sound (s : State) (l : LatchNo) : State.Sound w p s (s.holdOver l) := by
  unfold State.holdOver
  split
  next => exact s.modLatch_sound l _
  next => exact .refl s

theorem State.consistency_sound (s : State) (a : Axis) (r : LatchState) : State.Sound w p s (s.consistency a r) := by
  unfold State.consistency
  split
  next => exact .refl s
  next =>
    dsimp only
    split
    next => exact .refl s
    next => exact s.demote_sound a _

theorem State.checkLatch_sound (s : State) (l : LatchNo) (r : LatchState) : State.Sound w p s (s.checkLatch l r) :=
  (s.modLatch_sound l _).trans (State.consistency_sound _ _ r)

theorem State.relockPass_sound (s : State) (l : LatchNo) : State.Sound w p s (s.relockPass l) := by
  unfold State.relockPass
  split
  next => exact s.decideRelock_sound _ _
  next => exact .refl s

/-- A release lets its channel drive, from RELEASING on (R20). -/
theorem State.releaseDone_sound (s : State) (l : LatchNo) (releasing : s.ac[axisOfLatch l].motion = .releasing) :
    State.Sound w p s (s.releaseDone l) := by
  unfold State.releaseDone State.enterStarting
  refine ((s.modLatch_sound l _).trans (State.modChan_sound _ _ _ id (fun h => ?_) (fun _ => .inl releasing) (fun h => ?_))).trans (State.modHeat_sound _ _ _)
  · rw [State.modLatch_ac, releasing] at h; cases h
  · rw [State.modLatch_ac, releasing] at h; cases h

theorem State.firstReading_sound (s : State) (l : LatchNo) (r : LatchState) : State.Sound w p s (s.firstReading l r) := by
  have read := s.modLatch_sound (w := w) (p := p) l (fun x => { x with state := r, firstReading := false, stateBefore := none })
  unfold State.firstReading
  dsimp only
  split
  next b _ =>
    have released (c : Prop) [Decidable c] (u : State) : State.Sound w p u (if c then u.manualRelease l else u) := by
      split
      next => exact u.demote_sound _ _
      next => exact .refl u
    have tested (c : Prop) [Decidable c] (u : State) : State.Sound w p u (if c then u.sensorTest (axisOfLatch l) else u) := by
      split
      next => exact u.sensorTest_sound _
      next => exact .refl u
    exact ((read.trans (released _ _)).trans (tested _ _)).trans (State.relockPass_sound _ l)
  next =>
    have checked (c : Prop) [Decidable c] (u : State) : State.Sound w p u (if c then u.checkLatch l r else u) := by
      split
      next => exact u.checkLatch_sound l r
      next => exact .refl u
    exact ((read.trans (checked _ _)).trans (State.sensorTest_sound _ _)).trans (State.relockPass_sound _ l)

theorem State.latchChange_sound (s : State) (l : LatchNo) (r : LatchState) : State.Sound w p s (s.latchChange l r) := by
  have read := s.modLatch_sound (w := w) (p := p) l (fun x => { x with state := r })
  unfold State.latchChange
  dsimp only
  split
  next =>
    split
    next releasing => exact read.trans (State.releaseDone_sound _ l releasing)
    next =>
      split
      next => exact read.trans (State.demote_sound _ _ _)
      next => exact read
  next => exact (read.trans (State.sensorTest_sound _ _)).trans (State.relockPass_sound _ l)

theorem State.latchReading_sound (s : State) (l : LatchNo) (v : SwitchLevel) : State.Sound w p s (s.latchReading l v) := by
  unfold State.latchReading
  split
  next => exact .refl s
  next =>
    split
    next => exact s.firstReading_sound l _
    next =>
      split
      next => exact .refl s
      next => exact s.latchChange_sound l _

/-! ## Wake and data frames -/

theorem State.enterWaking_sound (s : State) : State.Sound w p s s.enterWaking := .of_rest rfl rfl rfl rfl rfl rfl

theorem State.wake_sound (s : State) : State.Sound w p s s.wake := by
  unfold State.wake
  split
  next => exact .refl s
  next =>
    split
    next => exact .of_rest rfl rfl rfl rfl rfl rfl
    next => exact s.enterWaking_sound

theorem State.scanOnChange_sound (s : State) (b : List (List Bool)) : State.Sound w p s (s.scanOnChange b) := by
  unfold State.scanOnChange
  split
  next => exact .refl s
  next => exact s.emit_sound _

theorem State.interlockStop_sound (s : State) (a : Axis) : State.Sound w p s (s.interlockStop a) := by
  unfold State.interlockStop
  split
  next => exact s.stopAxis_sound a _ _
  next => exact .refl s

theorem State.reevaluate_sound (s : State) (b : List (List Bool)) : State.Sound w p s (s.reevaluate b) :=
  ((s.scanOnChange_sound b).trans (State.shuffled_sound _ _)).trans (.each _ _ _ (fun t a => t.interlockStop_sound a))

/-- New data held, and what follows from it. -/
theorem State.setData_sound (s : State) (x : Interlock) (b : List (List Bool)) : State.Sound w p s ({ s with iu := x }.reevaluate b) :=
  State.Sound.trans (v := { s with iu := x }) (.of_rest rfl rfl rfl rfl rfl rfl) (State.reevaluate_sound _ b)

theorem State.vehicleArrival_sound (s : State) (bs : List Byte) : State.Sound w p s (s.vehicleArrival bs) := by
  unfold State.vehicleArrival
  split
  next => exact .refl s
  next => exact s.setData_sound _ _

theorem State.occupancyArrival_sound (s : State) (bs : List Byte) : State.Sound w p s (s.occupancyArrival bs) := by
  unfold State.occupancyArrival
  split
  next => exact .refl s
  next => exact s.setData_sound _ _

theorem State.turnStale_sound (s : State) (k : DataKind) : State.Sound w p s (s.turnStale k) := by
  cases k with
  | vehicleCondition =>
    dsimp only [State.turnStale]
    split
    next => exact s.setData_sound _ _
    next => exact .refl s
  | occupancy =>
    dsimp only [State.turnStale]
    split
    next => exact s.setData_sound _ _
    next => exact .refl s

/-! ## The supply -/

/-- A property that every turn of a walk keeps. -/
theorem State.each_keeps {α : Type} {q : State → Prop} (f : State → α → State) (h : ∀ (t : State) (x : α), q t → q (f t x)) : ∀ (l : List α) (s : State),
    q s → q (s.each l f)
  | [], _, k => k
  | x :: l, s, k => State.each_keeps f h l (f s x) (h s x k)

theorem State.heldGrant_eq (s : State) (a : Axis) : s.heldGrant a = s.da.grants[a].filter (fun g => g.held) := by
  unfold State.heldGrant
  cases s.da.grants[a] with
  | none => rfl
  | some g => cases h : g.held <;> simp [h, Option.filter]

/-- No operation on one axis holds a grant that was none. -/
theorem State.OnlyAt.no_held {a : Axis} {u t : State} (h : State.OnlyAt a u t) (none_held : ∀ b : Axis, u.heldGrant b = none) (b : Axis) :
    t.heldGrant b = none := by
  have before := none_held b
  rw [State.heldGrant_eq] at before ⊢
  by_cases e : b = a
  · subst e
    rcases h.own with k | k | k <;> rw [k]
    · exact before
    · rfl
    · cases hg : u.da.grants[b] with
      | none => rfl
      | some g => rw [hg] at before; simpa using before
  · rw [h.grants b e]; exact before

theorem State.withdraw_sound (s : State) (a : Axis) {g : Grant} (h : s.heldGrant a = some g) : State.Sound w p s (s.withdraw a) :=
  (s.withdraw_but (ok := fun _ => True) a h).sound (.of_ac (s.withdraw_ac a))

theorem State.giveBack_of_none {s : State} {a : Axis} (h : s.heldGrant a = none) : s.giveBack a = s := by
  unfold State.giveBack
  rw [h]

/-- The return of a held grant to the wait list; the list's order is said but of that (R168). -/
theorem State.giveBack_sound (s : State) (a : Axis) (hw : w → s.heldGrant a = none) : State.Sound w p s (s.giveBack a) := by
  cases held : s.heldGrant a with
  | none => rw [State.giveBack_of_none held]; exact .refl s
  | some g =>
    unfold State.giveBack
    rw [held]
    refine (s.withdraw_sound a held).trans ⟨⟨fun h => h, fun h => h, fun k => ?_, fun _ h => h.congr rfl rfl (fun _ h => h) (fun _ h => h), .of_ac rfl, rfl⟩, rfl, rfl⟩
    rw [hw k] at held
    cases held

theorem State.giveBacks_sound : ∀ (l : List Axis) (s : State), (w → ∀ a : Axis, s.heldGrant a = none) → State.Sound w p s (s.each l State.giveBack)
  | [], s, _ => .refl s
  | a :: l, s, hw => (s.giveBack_sound a (fun k => hw k a)).trans (State.giveBacks_sound l _ (fun k => by
      rw [State.giveBack_of_none (hw k a)]; exact hw k))

theorem State.startPause_sound (s : State) (hw : w → ∀ a : Axis, s.heldGrant a = none) : State.Sound w p s s.startPause := by
  unfold State.startPause
  dsimp only
  have begun : State.Sound w p s { s with sp := { s.sp with cond := .pausedWindow, window := .start } } := .of_rest rfl rfl rfl rfl rfl rfl
  have dropped (u : State) : State.Sound w p u { u with lc := u.lc.map Latch.drop } := .of_rest rfl rfl rfl rfl rfl rfl
  refine (((begun.trans (State.shuffled_sound _ _)).trans (.each _ _ _ (fun t a => t.stopAxis_sound a _ _))).trans (dropped _)).trans
    (State.giveBacks_sound _ _ (fun k => ?_))
  exact State.each_keeps (q := fun t => ∀ a : Axis, t.heldGrant a = none) _ (fun t a ht b => (t.stopAxis_only a _ _).no_held ht b) _ _ (hw k)

/-- A change of every channel that keeps its ranges and its motion state. -/
theorem State.mapChan_sound (s : State) (f : Channel → Channel) (range : ∀ c : Channel, c.InRange → (f c).InRange) (motion : ∀ c, (f c).motion = c.motion) :
    State.Sound w p s { s with ac := s.ac.map f } := by
  have chan (a : Axis) : ({ s with ac := s.ac.map f } : State).ac[a] = f s.ac[a] := Vector.getElem_map ..
  refine .of_ac (fun a h => ?_) (fun a h => ?_) (fun a h => ?_) (fun a _ h => ?_) (fun h => h) rfl rfl rfl rfl rfl rfl
  · rw [chan]; exact range _ h
  · rw [chan, motion]; exact h
  · rw [chan, motion] at h; exact h
  · rw [chan, motion]; exact h

theorem State.markPause_sound (s : State) (pe : PauseEnd) : State.Sound w p s (s.markPause pe) := s.mapChan_sound _ (fun _ h => h) (fun _ => rfl)

/-- A list told by a test that a change of every job leaves. -/
theorem ListGood.map {slots : Vector (Option Job) 16} {l : List Slot} {q : Job → Prop} (h : ListGood slots l q) (f : Job → Job) (hf : ∀ x, q (f x) ↔ q x) :
    ListGood (slots.map (fun (x : Option Job) => x.map f)) l q := by
  refine ⟨h.1, fun j => (h.2 j).trans ?_⟩
  have get : (slots.map (fun (x : Option Job) => x.map f))[j] = slots[j].map f := Vector.getElem_map ..
  rw [get]
  cases slots[j] with
  | none => simp
  | some x => simp [hf]

/-- A change of every job that keeps its record and its state. -/
theorem JobManager.Good.map {u : JobManager} (h : u.Good) (f : Job → Job)
    (hf : ∀ x, (f x).state = x.state ∧ (f x).cls = x.cls ∧ (f x).source = x.source ∧ (f x).claimed = x.claimed) :
    ({ u with slots := u.slots.map (fun (x : Option Job) => x.map f) } : JobManager).Good := by
  obtain ⟨done, claims, attended, scenes, services, placed⟩ := (JobManager.good_iff u).1 h
  have get (j : Slot) : (u.slots.map (fun (x : Option Job) => x.map f))[j] = u.slots[j].map f := Vector.getElem_map ..
  refine (JobManager.good_iff _).2 ⟨done.map f (fun x => by rw [(hf x).1]), fun a j => (claims a j).trans ?_, attended.map f ?_, scenes.map f ?_,
    services.map f ?_, fun j x q hx => ?_⟩
  · dsimp only
    rw [get]
    cases u.slots[j] with
    | none => simp
    | some x => simp [hf]
  · intro x; rw [(hf x).1, (hf x).2.1]
  · intro x; rw [(hf x).1, (hf x).2.1]
  · intro x; rw [(hf x).1, (hf x).2.1]
  · dsimp only at hx
    rw [get] at hx
    obtain ⟨y, hy, rfl⟩ := Option.map_eq_some_iff.1 hx
    rw [(hf y).2.2.1]
    exact placed j y q hy

theorem State.releaseHolds_sound (s : State) : State.Sound w p s s.releaseHolds := by
  unfold State.releaseHolds
  dsimp only
  have unpaused : State.Sound w p s { s with jm := { s.jm with slots := s.jm.slots.map (fun (x : Option Job) => x.map Job.unpause) } } :=
    .of_jm rfl (fun h => h.map Job.unpause (fun _ => ⟨rfl, rfl, rfl, rfl⟩)) rfl rfl rfl rfl
  exact unpaused.trans (State.emit_sound _ _)

theorem State.resume_sound (s : State) : State.Sound w p s s.resume := by
  have ended : State.Sound w p s { s with sp := { s.sp with cond := .normal, window := .stopped } } := .of_rest rfl rfl rfl rfl rfl rfl
  exact ((((ended.trans (State.markPause_sound _ _)).trans (State.shuffled_sound _ _)).trans (State.emit_sound _ _)).trans
    (State.releaseHolds_sound _)).trans (State.emit_sound _ _)

theorem State.expireRows_sound (s : State) (j : Slot) : State.Sound w p s (s.expireRows j) :=
  (s.expireRows_but (ok := fun _ => True) j).sound (by
    unfold State.expireRows
    exact State.Rests.trans (v := s.modScene j _) (.of_ac rfl) (State.takeOutcome_rests _ j _ _ _))

theorem State.expireHoming_sound (s : State) (j : Slot) (a : Axis) : State.Sound w p s (s.expireHoming j a) :=
  (s.expireHoming_but (ok := fun _ => True) j a).sound (by
    unfold State.expireHoming
    exact State.Rests.trans (v := s.overHoming j) (.of_ac rfl) (State.takeOutcome_rests _ j _ _ _))

theorem State.windowOver_sound (s : State) : State.Sound w p s s.windowOver := by
  have ended : State.Sound w p s { s with sp := { s.sp with cond := .pausedExpired, window := .stopped } } := .of_rest rfl rfl rfl rfl rfl rfl
  unfold State.windowOver
  split
  next => exact .refl s
  next =>
    refine (((ended.trans (State.markPause_sound _ _)).trans (.each _ _ _ (fun t j => t.expireRows_sound j))).trans
      (.each _ _ _ (fun t j => ?_))).trans (State.releaseHolds_sound _)
    split
    next => exact t.expireHoming_sound j _
    next => exact .refl t

/-! ## ACTIVE entry and PARK -/

theorem State.enterActive_sound (s : State) : State.Sound w p s s.enterActive := by
  have entered : State.Sound w p s { s with sp := { s.sp with power := .active, waking := .stopped, wakingOver := false } } :=
    .of_rest rfl rfl rfl rfl rfl rfl
  refine ((entered.trans (.each _ _ _ (fun t l => ?_))).trans (State.shuffled_sound _ _)).trans (State.emit_sound _ _)
  split
  next => exact t.checkLatch_sound l _
  next => exact .refl t

theorem State.wakingDone_sound (s : State) : State.Sound w p s s.wakingDone := by
  unfold State.wakingDone
  split
  next => exact .refl s
  next =>
    split
    next => exact s.enterActive_sound
    next => exact .of_rest rfl rfl rfl rfl rfl rfl

theorem State.parkNow_sound (s : State) : State.Sound w p s s.parkNow := by
  unfold State.parkNow
  split
  next => exact .of_rest rfl rfl rfl rfl rfl rfl
  next => exact .refl s

/-! ## The port -/

theorem State.answerSent_sound (s : State) (r : Role) : State.Sound w p s (s.answerSent r) := by
  unfold State.answerSent
  split
  next =>
    split
    next => exact s.setAnswer_sound r _
    next => exact s.setAnswer_sound r _
  next => exact .refl s

/-- The head of the done list leaves it, and its slot is FREE (R111). -/
theorem JobManager.Good.sent {u : JobManager} (h : u.Good) {j : Slot} {rest : List Slot} (head : u.doneList = j :: rest) :
    ({ u with doneList := rest, slots := u.slots.set j none } : JobManager).Good := by
  obtain ⟨done, claims, attended, scenes, services, placed⟩ := (JobManager.good_iff u).1 h
  rw [head] at done
  have finished : ∀ y, u.slots[j] = some y → y.state = .done := fun y hy => by
    obtain ⟨x, hx, hd⟩ := (done.2 j).1 List.mem_cons_self
    rw [hx] at hy
    cases hy
    exact hd
  have gone : ∀ (q : Job → Prop) (y : Job), (none : Option Job) = some y → ¬ q y := fun _ _ e => by cases e
  have listed (l : List Slot) (c : JobClass) (hl : ListGood u.slots l (fun x => x.state ≠ .done ∧ x.cls = c)) :=
    hl.skip j none (fun y hy k => k.1 (finished y hy)) (gone _)
  refine (JobManager.good_iff _).2 ⟨?_, fun a k => (claims a k).trans ?_, listed _ _ attended, listed _ _ scenes, listed _ _ services, fun k x q hx => ?_⟩
  · have dropped := done.drop j none (gone _)
    have rest_eq : (j :: rest).filter (fun k => k != j) = rest := by
      have absent := (List.nodup_cons.1 done.1).1
      rw [List.filter_cons_of_neg (by simp), List.filter_eq_self.2 (fun k hk => by simpa using fun e : k = j => absent (e ▸ hk))]
    rw [rest_eq] at dropped
    exact dropped
  · dsimp only
    rw [Machine.setSlot_get]
    split
    next e =>
      subst e
      exact ⟨fun ⟨x, hx, hn, _⟩ => absurd (finished x hx) hn, fun ⟨_, hx, _⟩ => by cases hx⟩
    next => exact Iff.rfl
  · dsimp only at hx
    rw [Machine.setSlot_get] at hx
    split at hx
    next => cases hx
    next => exact placed k x q hx

theorem State.resultSent_sound (s : State) (j : Slot) : State.Sound w p s (s.resultSent j) := by
  unfold State.resultSent
  split
  next k rest head =>
    split
    next e => subst e; exact .of_jm rfl (fun h => h.sent head) rfl rfl rfl rfl
    next => exact .refl s
  next => exact .refl s

theorem State.frameSent_sound (s : State) : State.Sound w p s s.frameSent := by
  unfold State.frameSent
  split
  next => exact .refl s
  next =>
    split
    next => exact .refl s
    next =>
      have sent (n : Port) : State.Sound w p s { s with np := n } := .of_rest rfl rfl rfl rfl rfl rfl
      dsimp only
      split
      next => exact (sent _).trans (State.answerSent_sound _ _)
      next => exact (sent _).trans (State.resultSent_sound _ _)
      next => exact sent _
      next => exact sent _

theorem State.pageFallsDue_sound (s : State) (n : PageNo) : State.Sound w p s (s.pageFallsDue n) := by
  unfold State.pageFallsDue
  split
  next => exact .refl s
  next => exact .of_rest rfl rfl rfl rfl rfl rfl

theorem State.transmitError_sound (s : State) : State.Sound w p s s.transmitError := by
  unfold State.transmitError
  split
  next => exact .refl s
  next => exact .of_rest rfl rfl rfl rfl rfl rfl

theorem State.rejoin_sound (s : State) : State.Sound w p s s.rejoin := by
  unfold State.rejoin
  split
  next => exact .of_rest rfl rfl rfl rfl rfl rfl
  next => exact .refl s

/-! ## The pads -/

theorem State.padHold_ac (s : State) (q : Pad) (b : Button) (a : Axis) (d : Dir) : (s.padHold q b a d).ac = s.ac := by
  unfold State.padHold
  split
  next => rfl
  next =>
    split
    next => rfl
    next =>
      split
      next => rfl
      next => exact State.place_ac ..

theorem State.acceptRun_ac (s : State) (j : Slot) (x : Source) (tag : BitVec 4) (b : Option Button) (y : Arrangement) :
    (s.acceptRun j x tag b y).ac = s.ac := by
  unfold State.acceptRun
  dsimp only
  split
  next => exact State.startNextPhase_ac _ j
  next => rfl

theorem State.padAccess_ac (s : State) (q : Pad) : (s.padAccess q).ac = s.ac := by
  unfold State.padAccess
  split
  next => rfl
  next =>
    split
    next => rfl
    next =>
      split
      next => rfl
      next => exact State.acceptRun_ac ..

theorem State.countPress_sound (s : State) (q : Pad) (b : Button) : State.Sound w p s (s.countPress q b) := by
  unfold State.countPress
  split
  next => exact s.stopJobs_sound _
  next =>
    split
    next a d _ => exact (s.padHold_but (ok := fun _ => True) q b a d trivial).sound (.of_ac (s.padHold_ac q b a d))
    next => exact (s.padAccess_but (ok := fun _ => True) q trivial).sound (.of_ac (s.padAccess_ac q))

theorem State.padPress_sound (s : State) (q : Pad) (b : Button) : State.Sound w p s (s.padPress q b) := by
  unfold State.padPress
  split
  next => exact s.wake_sound
  next =>
    split
    next => exact .refl s
    next =>
      dsimp only
      split
      next => exact ((s.modPad_sound q _).trans (State.modPad_sound _ q _)).trans (State.countPress_sound _ q b)
      next => exact s.modPad_sound q _

theorem State.endPadHold_sound (s : State) (q : Pad) (c : Code) (o : Option Code) : State.Sound w p s (s.endPadHold q c o) := by
  unfold State.endPadHold
  split
  next =>
    split
    next => exact s.haltJob_sound ..
    next => exact .refl s
  next => exact .refl s

theorem State.padRelease_sound (s : State) (q : Pad) (b : Button) : State.Sound w p s (s.padRelease q b) := by
  unfold State.padRelease
  split
  next => exact .refl s
  next =>
    have released := (s.modPad_sound (w := w) (p := p) q (fun x => { x with pressed := x.pressed.filter (fun y => y.1 != b) })).trans
      (State.modPad_sound _ q (fun x => { x with cond := x.release b }))
    dsimp only
    split
    next => exact released.trans (State.endPadHold_sound _ q _ _)
    next => exact released

theorem State.padSticks_sound (s : State) (q : Pad) (b : Button) : State.Sound w p s (s.padSticks q b) := by
  unfold State.padSticks
  split
  next => exact s.modPad_sound q _
  next =>
    split
    next => exact .refl s
    next =>
      dsimp only
      split
      next => exact .refl s
      next => exact (s.modPad_sound q _).trans (State.endPadHold_sound _ q _ _)
      next => exact s.modPad_sound q _

end

end Machine
end Sys2Proof
end

section
/-! What the commands keep that load the store, reset the part, or end a write (10; 12): DRIVE and the store's bytes may change. -/

namespace Sys2Proof
namespace Machine

/-! ## Loads and resets -/

/-- State.Keeps where the store's bytes stay as well, and DRIVE may not. -/
structure State.Reloads (w : Prop) (p : Axis → Prop) (u t : State) : Prop where
  keeps : State.Keeps w p u t
  memory : t.st.memory = u.st.memory

section
variable {w : Prop} {p : Axis → Prop}

theorem State.Sound.reloads {u t : State} (h : State.Sound w p u t) : State.Reloads w p u t := ⟨h.keeps, h.memory⟩

theorem State.Sound.then_reloads {u v t : State} (h : State.Sound w p u v) (k : State.Reloads w p v t) : State.Reloads w p u t :=
  ⟨h.then_keeps k.keeps, k.memory.trans h.memory⟩

theorem State.Reloads.then_sound {u v t : State} (h : State.Reloads w p u v) (k : State.Sound w p v t) : State.Reloads w p u t :=
  ⟨h.keeps.then_sound k, k.memory.trans h.memory⟩

/-- A change of the store and of components that the invariants do not speak of. -/
theorem State.Keeps.of_store {u t : State} (ac : t.ac = u.ac) (jm : t.jm = u.jm) (wait : t.da.wait = u.da.wait) (arrival : t.da.arrival = u.da.arrival)
    (grants : t.da.grants = u.da.grants) (pending : t.pending = u.pending) : State.Keeps w p u t :=
  ⟨fun h a => by rw [ac]; exact h a, fun h => by rw [jm]; exact h, fun _ h => by unfold Arbiter.WaitGood; rw [wait, arrival]; exact h,
    fun hd h => h.congr hd grants (fun a k => by rw [ac]; exact k) (fun a k => by rw [ac] at k; exact k), .of_ac ac, pending⟩

theorem loadStore_memory (st : StoreCtl) : (loadStore st).memory = st.memory := by
  unfold loadStore
  dsimp only
  split <;> rfl

theorem State.leaveService_reloads (s : State) : State.Reloads w p s s.leaveService := by
  unfold State.leaveService
  have scan (u : State) (before : List (List Bool)) (h : State.Reloads w p s u) : State.Reloads w p s (u.scanOnChange before) :=
    h.then_sound (u.scanOnChange_sound before)
  exact scan _ _ ⟨.of_store rfl rfl rfl rfl rfl rfl, loadStore_memory s.st⟩

theorem State.serviceTimedOut_reloads (s : State) : State.Reloads w p s s.serviceTimedOut := by
  unfold State.serviceTimedOut
  split
  next => exact (State.Sound.refl s).reloads
  next =>
    split
    next => exact s.leaveService_reloads
    next => exact ⟨.of_store rfl rfl rfl rfl rfl rfl, rfl⟩

theorem State.deferredLeave_reloads (s : State) : State.Reloads w p s s.deferredLeave := by
  unfold State.deferredLeave
  split
  next => exact s.leaveService_reloads
  next => exact (State.Sound.refl s).reloads

theorem State.reqLeaveService_reloads (s : State) (r : Role) (tag : BitVec 4) : State.Reloads w p s (s.reqLeaveService r tag) := by
  unfold State.reqLeaveService
  split
  next => exact (s.refuse_sound ..).reloads
  next =>
    split
    next => exact (s.refuse_sound ..).reloads
    next =>
      split
      next => exact (s.refuse_sound ..).reloads
      next => exact s.leaveService_reloads.then_sound (State.answer_sound ..)

/-! ## The soft reset -/

theorem JobManager.reset_good : JobManager.reset.Good := resetIsGood.2.2.2.2.2

theorem Channel.reset_inRange : Channel.reset.InRange := resetIsGood.2.1 0

theorem State.dropJobs_sound (s : State) : State.Sound w p s s.dropJobs := by
  unfold State.dropJobs
  dsimp only
  have cleared : State.Sound w p s { s with ac := s.ac.map Channel.softReset } := s.mapChan_sound _ (fun _ h => h) (fun _ => rfl)
  have dropped (u : State) : State.Sound w p u { u with jm := .reset, da := { u.da with wait := [], arrival := 0 } } :=
    ⟨⟨fun h => h, fun _ => JobManager.reset_good, fun _ _ => ⟨List.nodup_nil, .nil, fun _ h => (by cases h), Nat.zero_le _⟩,
      fun _ h => h.congr rfl rfl (fun _ h => h) (fun _ h => h), .of_ac rfl, rfl⟩, rfl, rfl⟩
  refine (cleared.trans (dropped _)).trans (.each _ _ _ (fun t a => ?_))
  split
  next held =>
    obtain ⟨g, hg⟩ := Option.isSome_iff_exists.1 held
    exact t.withdraw_sound a hg
  next => exact .refl t

/-- The stop requests of a soft reset. -/
def State.stopAll (s : State) : State := s.each s.stoppableAxes (fun t a => t.stopAxis a .stopped none)

/-- The latches, the units and the pads at a soft reset. -/
def State.resetUnits (s : State) : State :=
  { s with
    lc := s.lc.map Latch.softReset
    iu := .reset
    sp := { s.sp with parkQuiet := .stopped }
    st := { s.st with serviceTimer := .stopped, leavePending := false, resetQueued := none, markerQueued := false }
    ps := s.ps.map PadState.softReset }

/-- The reload from Service Mode. -/
def State.reloadInService (s : State) : State := if s.st.service then s.leaveService else s

/-- The port at a soft reset. -/
def State.resetPort (s : State) : State :=
  { s with np := { s.np with tx := none, rows := [], pages := Vector.ofFn (fun p => Page.softReset (s.pageContent p)) } }

/-- A soft reset in its five parts and its answer. -/
theorem State.softResetNow_eq (s : State) (tag : BitVec 4) :
    s.softResetNow tag = s.dropJobs.stopAll.resetUnits.reloadInService.resetPort.answer .service .softReset tag (.bare .done) := by
  unfold State.softResetNow
  extract_lets s1 s2 supply store s3 s4 port s5
  have h2 : s2 = s.dropJobs.stopAll := rfl
  have h3 : s3 = s2.resetUnits := rfl
  have h4 : s4 = s3.reloadInService := rfl
  have h5 : s5 = s4.resetPort := rfl
  rw [h5, h4, h3, h2]

theorem State.stopAll_sound (s : State) : State.Sound w p s s.stopAll := .each _ _ s (fun t a => t.stopAxis_sound a _ _)

theorem State.resetUnits_sound (s : State) : State.Sound w p s s.resetUnits := .of_rest rfl rfl rfl rfl rfl rfl

theorem State.reloadInService_reloads (s : State) : State.Reloads w p s s.reloadInService := by
  unfold State.reloadInService
  split
  next => exact s.leaveService_reloads
  next => exact (State.Sound.refl s).reloads

theorem State.resetPort_sound (s : State) : State.Sound w p s s.resetPort := .of_rest rfl rfl rfl rfl rfl rfl

theorem State.softResetNow_reloads (s : State) (tag : BitVec 4) : State.Reloads w p s (s.softResetNow tag) := by
  rw [State.softResetNow_eq]
  exact ((((s.dropJobs_sound.trans (State.stopAll_sound _)).trans (State.resetUnits_sound _)).then_reloads (State.reloadInService_reloads _)).then_sound
    (State.resetPort_sound _)).then_sound (State.answer_sound ..)

theorem State.softReset_reloads (s : State) (tag : BitVec 4) : State.Reloads w p s (s.softReset tag) := by
  unfold State.softReset
  split
  next => exact ⟨.of_store rfl rfl rfl rfl rfl rfl, rfl⟩
  next => exact s.softResetNow_reloads tag

theorem State.reqSoftReset_reloads (s : State) (r : Role) (tag : BitVec 4) : State.Reloads w p s (s.reqSoftReset r tag) := by
  unfold State.reqSoftReset
  split
  next => exact (s.refuse_sound ..).reloads
  next => exact s.softReset_reloads tag

/-! ## The first load -/

theorem byteAt_le (bs : List Byte) (i : Nat) : byteAt bs i ≤ 255 := by
  unfold byteAt
  have := (bs.getD i 0#8).isLt
  omega

theorem parseDriveAxis_coast {bs : List Byte} {a : Axis} {d : DriveAxis} (h : parseDriveAxis bs a = some d) : d.defaultCoast ≤ 255 := by
  unfold parseDriveAxis at h
  dsimp only at h
  split at h
  next => cases h; exact byteAt_le _ _
  next => cases h

theorem parseDrive_coast {bs : List Byte} {d : DriveCopy} (h : parseDrive bs = some d) (a : Axis) : d.axis[a].defaultCoast ≤ 255 := by
  unfold parseDrive at h
  split at h
  next => cases h
  next =>
    split at h
    next r0 r1 r2 r3 r4 r5 r6 h0 h1 h2 h3 h4 h5 h6 =>
      dsimp only at h
      split at h
      next =>
        cases h
        have low : ∀ r ∈ [r0, r1, r2, r3, r4, r5, r6], r.defaultCoast ≤ 255 := by
          simp only [List.mem_cons, List.not_mem_nil, or_false]
          rintro r (rfl | rfl | rfl | rfl | rfl | rfl | rfl)
          · exact parseDriveAxis_coast h0
          · exact parseDriveAxis_coast h1
          · exact parseDriveAxis_coast h2
          · exact parseDriveAxis_coast h3
          · exact parseDriveAxis_coast h4
          · exact parseDriveAxis_coast h5
          · exact parseDriveAxis_coast h6
        exact low _ (List.getElem_mem (l := [r0, r1, r2, r3, r4, r5, r6]) a.isLt)
      next => cases h
    next => cases h

theorem parseLearned_coast {bs : List Byte} {x : LearnedCopy} (h : parseLearned bs = some x) (a : Axis) : x.axis[a].coast ≤ 255 := by
  unfold parseLearned at h
  split at h
  next => cases h
  next =>
    cases h
    have get : (Vector.map (parseLearnedAxis bs) #v[0, 1, 2, 3, 4, 5, 6])[a] = parseLearnedAxis bs (#v[0, 1, 2, 3, 4, 5, 6][a]) := Vector.getElem_map ..
    rw [get]
    exact byteAt_le _ _

theorem loadStore_drive {st : StoreCtl} {d : DriveCopy} (h : (loadStore st).drive = some d) (a : Axis) : d.axis[a].defaultCoast ≤ 255 := by
  unfold loadStore at h
  dsimp only at h
  split at h
  next => exact parseDrive_coast h a
  next => cases h

theorem loadStore_learned {st : StoreCtl} {x : LearnedCopy} (h : (loadStore st).learned = some x) (a : Axis) : x.axis[a].coast ≤ 255 := by
  unfold loadStore at h
  dsimp only at h
  split at h
  next => exact parseLearned_coast h a
  next => cases h

/-- What a load restores lies in its range (R43). -/
theorem Channel.InRange.restore {c : Channel} (h : c.InRange) {d : Option DriveAxis} {x : Option LearnedAxis} (clean : Bool)
    (hd : ∀ y, d = some y → y.defaultCoast ≤ 255) (hx : ∀ y, x = some y → y.coast ≤ 255) : (c.restore d x clean).InRange := by
  have position := h.1
  have trims : 6 ≤ 15 ∧ 5 ≤ 15 := by decide
  have ilr (n : Nat) : 5 ≤ max 5 (min 200 n) ∧ max 5 (min 200 n) ≤ 200 := by omega
  unfold Channel.restore Channel.restored
  split
  next y =>
    refine ⟨?_, Nat.zero_le _, (ilr _).1, (ilr _).2, hx y rfl, Nat.min_le_left _ _, Nat.min_le_left _ _, Nat.zero_le _⟩
    dsimp only
    split
    next => exact Nat.min_le_left _ _
    next => exact position
  next y => exact ⟨position, Nat.zero_le _, (ilr _).1, (ilr _).2, hd y rfl, trims.1, trims.2, Nat.zero_le _⟩
  next =>
    have fixed : 5 ≤ 50 ∧ 50 ≤ 200 ∧ 20 ≤ 255 := by decide
    exact ⟨position, Nat.zero_le _, fixed.1, fixed.2.1, fixed.2.2, trims.1, trims.2, Nat.zero_le _⟩

theorem Channel.restore_motion (c : Channel) (d : Option DriveAxis) (x : Option LearnedAxis) (clean : Bool) : (c.restore d x clean).motion = c.motion := by
  unfold Channel.restore Channel.restored
  split <;> rfl

theorem State.restore_keeps (s : State) (hd : ∀ (a : Axis) y, s.driveAxis a = some y → y.defaultCoast ≤ 255)
    (hx : ∀ (a : Axis) y, s.learnedAxis a = some y → y.coast ≤ 255) : State.Sound w p s s.restore := by
  have chan (a : Axis) : s.restore.ac[a] = s.ac[a].restore (s.driveAxis a) (s.learnedAxis a) s.cleanPark := Vector.getElem_ofFn ..
  have motion (a : Axis) : s.restore.ac[a].motion = s.ac[a].motion := by rw [chan]; exact Channel.restore_motion ..
  refine .of_ac (fun a h => ?_) (fun a h => ?_) (fun a h => ?_) (fun a _ h => ?_) (fun h => h) rfl rfl rfl rfl rfl rfl
  · rw [chan]; exact h.restore _ (hd a) (hx a)
  · rw [motion]; exact h
  · rw [motion] at h; exact h
  · rw [motion]; exact h

theorem State.firstLoad_reloads (s : State) : State.Reloads w p s s.firstLoad := by
  unfold State.firstLoad
  split
  next => exact (State.Sound.refl s).reloads
  next =>
    dsimp only
    have loaded : State.Reloads w p s { s with st := { loadStore s.st with loaded := true } } :=
      ⟨.of_store rfl rfl rfl rfl rfl rfl, loadStore_memory s.st⟩
    have restored : State.Reloads w p s ({ s with st := { loadStore s.st with loaded := true } } : State).restore :=
      loaded.then_sound (State.restore_keeps _
        (fun a y h => by
          obtain ⟨d, hd, rfl⟩ := Option.map_eq_some_iff.1 h
          exact loadStore_drive hd a)
        (fun a y h => by
          obtain ⟨x, hx, rfl⟩ := Option.map_eq_some_iff.1 h
          exact loadStore_learned hx a))
    generalize State.restore _ = u at restored
    have checked (v : State) : State.Sound w p v (if v.cleanPark then v.each latches State.armCheck else v) := by
      split
      next =>
        refine .each _ _ _ (fun t l => ?_)
        unfold State.armCheck
        split
        next => exact t.modLatch_sound l _
        next => exact t.checkLatch_sound l _
      next => exact .refl v
    have active (v : State) : State.Sound w p v (if v.sp.wakingOver then v.enterActive else v) := by
      split
      next => exact v.enterActive_sound
      next => exact .refl v
    exact ((restored.then_sound (checked u)).then_sound (State.scanOnChange_sound _ _)).then_sound (active _)

/-! ## Power-on reset -/

theorem State.afterPowerOn_keeps (s : State) (m : List Host.Cell) (n : Nat) : State.Keeps w p s (State.afterPowerOn m n s.pending) where
  range _ a := by
    have get : (State.afterPowerOn m n s.pending).ac[a] = Channel.reset := Vector.getElem_replicate ..
    rw [get]; exact Channel.reset_inRange
  jobs _ := JobManager.reset_good
  wait _ _ := ⟨List.nodup_nil, .nil, fun _ h => (by cases h), Nat.zero_le _⟩
  budget _ _ := fun _ h => by cases h
  rests a _ _ := by
    have get : (State.afterPowerOn m n s.pending).ac[a] = Channel.reset := Vector.getElem_replicate ..
    rw [get]; rfl
  pending := rfl

theorem State.powerOn_keeps (s : State) (mv : Nat) : State.Keeps w p s (s.powerOn mv) := by
  unfold State.powerOn
  dsimp only
  split
  next =>
    have paused (u : State) (x : Supply) : State.Sound w p u { u with sp := x } := .of_rest rfl rfl rfl rfl rfl rfl
    exact (s.afterPowerOn_keeps _ _).then_sound (paused _ _)
  next => exact s.afterPowerOn_keeps _ _

/-- The store's bytes are those before, or a first part of the write in progress has reached them. -/
def State.Cut (s t : State) : Prop := ∃ x n, s.st.write = some x ∧ t.st.memory = memWriteAll s.st.memory (x.bytes.take n)

theorem State.powerOn_cut (s : State) (mv : Nat) : (s.powerOn mv).st.memory = s.st.memory ∨ s.Cut (s.powerOn mv) := by
  have memory : (s.powerOn mv).st.memory = s.interrupted.1 := by
    unfold State.powerOn
    dsimp only
    split <;> rfl
  unfold State.Cut
  rw [memory]
  unfold State.interrupted
  split
  next => exact .inl rfl
  next x write => exact .inr ⟨x, _, write, rfl⟩

/-! ## The ends of the store's writes -/

theorem State.writeStore_keeps (s : State) (x : StoreWrite) : State.Keeps w p s (s.writeStore x) := .of_store rfl rfl rfl rfl rfl rfl

theorem State.startMarkerWrite_sound (s : State) : State.Sound w p s s.startMarkerWrite :=
  (s.startMarkerWrite_but (ok := fun _ => True)).sound (.of_ac s.startMarkerWrite_ac)

/-- What the end of a write makes of the store's bytes. -/
theorem State.Cut.of_memory {s t : State} {x : StoreWrite} (write : s.st.write = some x) (h : t.st.memory = memWriteAll s.st.memory x.bytes) : s.Cut t :=
  ⟨x, x.bytes.length, write, by rw [List.take_length]; exact h⟩

/-- A command that ends a write, with what it keeps and what it makes of the store's bytes. -/
structure State.EndsWrite (w : Prop) (p : Axis → Prop) (s t : State) : Prop where
  keeps : State.Keeps w p s t
  memory : t.st.memory = s.st.memory ∨ s.Cut t

theorem State.Reloads.endsWrite {s t : State} (h : State.Reloads w p s t) : State.EndsWrite w p s t := ⟨h.keeps, .inl h.memory⟩

/-- What follows once the bytes of a write have reached the store. -/
theorem State.EndsWrite.of_write {s t : State} {x : StoreWrite} (write : s.st.write = some x) (h : State.Reloads w p (s.writeStore x) t) :
    State.EndsWrite w p s t :=
  ⟨⟨fun e => h.keeps.range ((s.writeStore_keeps (w := w) (p := p) x).range e), fun e => h.keeps.jobs e, fun hw e => h.keeps.wait hw e,
    fun hd e => h.keeps.budget hd (e.congr rfl rfl (fun _ e => e) (fun _ e => e)), h.keeps.rests, h.keeps.pending⟩, .inr (.of_memory write h.memory)⟩

theorem State.serviceWritten_endsWrite (s : State) : State.EndsWrite w p s s.serviceWritten := by
  unfold State.serviceWritten
  split
  next => exact (State.Sound.refl s).reloads.endsWrite
  next x write =>
    split
    next => exact (State.Sound.refl s).reloads.endsWrite
    next =>
      dsimp only
      have answered := (s.writeStore x).answer_sound (w := w) (p := p) .service .storeWrite x.tag (.bare .done)
      refine .of_write write ?_
      split
      next => exact answered.then_reloads (State.softResetNow_reloads _ _)
      next =>
        split
        next => exact (answered.trans (State.startMarkerWrite_sound _)).reloads
        next => exact answered.reloads

theorem State.parkWritten_endsWrite (s : State) : State.EndsWrite w p s s.parkWritten := by
  unfold State.parkWritten
  split
  next => exact (State.Sound.refl s).reloads.endsWrite
  next x write =>
    split
    next => exact (State.Sound.refl s).reloads.endsWrite
    next =>
      dsimp only
      have marked : State.Sound w p (s.writeStore x) { s.writeStore x with sp := { s.sp with marker := true } } := .of_rest rfl rfl rfl rfl rfl rfl
      refine .of_write write ?_
      split
      next => exact (marked.trans (State.enterWaking_sound _)).reloads
      next => exact marked.reloads

theorem State.heldGrant_some {s : State} {a : Axis} {g : Grant} (h : s.heldGrant a = some g) : s.da.grants[a] = some g ∧ g.held = true := by
  rw [State.heldGrant_eq] at h
  exact Option.filter_eq_some_iff.1 h

theorem State.markGranted_sound (s : State) (j : Slot) (a : Axis) : State.Sound w p s (s.markGranted j a) :=
  (s.markGranted_but (ok := fun _ => True) j a).sound (.of_ac (s.markGranted_ac j a))

/-- A held grant reaches its channel: the reservation stays, and its axis alone may start (R168). -/
theorem State.startHeld_sound (s : State) (a : Axis) {g : Grant} (held : s.heldGrant a = some g) (ha : p a) :
    State.Sound w p s ((s.setGrant a (some { g with held := false })).startMove a { g with held := false }) := by
  obtain ⟨grant, mark⟩ := State.heldGrant_some held
  generalize ht : State.startMove _ _ _ = t
  have moved := (s.setGrant a (some { g with held := false })).startMove_but (ok := fun _ => True) a { g with held := false }
  have da := (s.setGrant a (some { g with held := false })).startMove_da a { g with held := false }
  have other := (s.setGrant a (some { g with held := false })).startMove_other a { g with held := false }
  rw [ht] at moved da other
  have drive : t.st.drive = s.st.drive := by rw [moved.rest.st]; rfl
  have grants (b : Axis) : t.da.grants[b] = if b = a then some { g with held := false } else s.da.grants[b] := by rw [da]; exact State.setGrant_get ..
  have sums (b : Axis) (f : Grant → Nat) (hf : f { g with held := false } = f g) :
      (match t.da.grants[b] with | some x => f x | none => 0) = (match s.da.grants[b] with | some x => f x | none => 0) := by
    rw [grants]
    by_cases e : b = a
    · subst e; rw [if_pos rfl, grant]; exact hf
    · rw [if_neg e]
  refine ⟨⟨fun h b => (moved.loose b).range (h b), fun h => moved.rest.jm.good h, fun _ h => moved.wait h, fun _ h d hd => ?_, fun b hb h => ?_,
    moved.rest.pending⟩, drive, by rw [moved.rest.st]; rfl⟩
  · obtain ⟨order, total, legs, spare⟩ := h d (drive.symm.trans hd)
    refine ⟨order, Nat.le_trans (sum_le_of _ _ _ (fun b _ => Nat.le_of_eq (sums b _ rfl))) total,
      fun l => Nat.le_trans (sum_le_of _ _ _ (fun b _ => Nat.le_of_eq (sums b (fun x => if x.commonLeg = some l then x.reservation else 0) rfl))) (legs l),
      fun b x hx => ?_⟩
    rw [grants] at hx
    split at hx
    next e =>
      subst e
      cases hx
      exact ⟨fun k => (by cases k), fun _ => (spare b g grant).2 (.inl mark)⟩
    next e =>
      rw [other b e]
      exact spare b x hx
  · rw [other b (fun e => hb (e ▸ ha))]
    exact h

theorem State.releaseHeld_of_none {s : State} {a : Axis} (h : s.heldGrant a = none) : s.releaseHeld a = s := by
  unfold State.releaseHeld
  rw [h]

theorem State.releaseHeld_sound (s : State) (a : Axis) (h : ¬ p a → s.heldGrant a = none) : State.Sound w p s (s.releaseHeld a) := by
  cases held : s.heldGrant a with
  | none => rw [State.releaseHeld_of_none held]; exact .refl s
  | some g =>
    have ha : p a := by
      refine Classical.byContradiction (fun k => ?_)
      rw [h k] at held
      cases held
    unfold State.releaseHeld
    rw [held]
    exact (s.startHeld_sound a held ha).trans (State.markGranted_sound _ _ _)

/-- The release of one held grant holds no other. -/
theorem State.releaseHeld_other (s : State) (a b : Axis) (h : s.heldGrant b = none) : (s.releaseHeld a).heldGrant b = none := by
  cases held : s.heldGrant a with
  | none => rw [State.releaseHeld_of_none held]; exact h
  | some g =>
    have grants : (s.releaseHeld a).da.grants[b] = if b = a then some { g with held := false } else s.da.grants[b] := by
      unfold State.releaseHeld
      rw [held]
      show (State.startMove _ _ _).da.grants[b] = _
      rw [State.startMove_da]
      exact State.setGrant_get ..
    rw [State.heldGrant_eq, grants]
    split
    next => rfl
    next => rw [← State.heldGrant_eq]; exact h

theorem State.releaseAll_sound : ∀ (l : List Axis) (s : State), (∀ a, ¬ p a → s.heldGrant a = none) → State.Sound w p s (s.each l State.releaseHeld)
  | [], s, _ => .refl s
  | a :: l, s, h => (s.releaseHeld_sound a (h a)).trans (State.releaseAll_sound l _ (fun b hb => s.releaseHeld_other a b (h b hb)))

theorem State.markerWritten_endsWrite (s : State) (h : ∀ a, ¬ p a → s.heldGrant a = none) : State.EndsWrite w p s s.markerWritten := by
  unfold State.markerWritten
  split
  next => exact (State.Sound.refl s).reloads.endsWrite
  next x write =>
    split
    next => exact (State.Sound.refl s).reloads.endsWrite
    next =>
      dsimp only
      have marked : State.Sound w p (s.writeStore x) { s.writeStore x with sp := { s.sp with marker := false } } := .of_rest rfl rfl rfl rfl rfl rfl
      refine .of_write write ?_
      split
      next => exact marked.then_reloads (State.softResetNow_reloads _ _)
      next => exact (marked.trans (State.releaseAll_sound _ _ h)).reloads

end

end Machine
end Sys2Proof
end

section
/-! What every command's effect keeps, taken together, and the statements about every step: the store, the ranges and records, the starts of motion. -/

namespace Sys2Proof
namespace Machine

section
variable {w : Prop} {p : Axis → Prop}

/-! ## Frames -/

theorem State.heard_sound (s : State) (r : Role) : State.Sound w p s (s.heard r) :=
  .of_rest (by simp) (by simp) (by simp) (by rw [State.heard_st]) (by rw [State.heard_st]) (by simp)

theorem State.Handles.reloads {s u : State} {r : Role} (h : s.Handles r u) : State.Reloads w p s u := by
  cases h with
  | run => exact (s.reqRun_sound ..).reloads
  | hold => exact (s.reqHold_sound ..).reloads
  | release => exact (s.reqRelease_sound ..).reloads
  | stopJob => exact (s.reqStopJob_sound ..).reloads
  | stopAll => exact (s.reqStopAll_sound ..).reloads
  | clearFaults => exact (s.reqClearFaults_sound ..).reloads
  | home => exact (s.reqHome_sound ..).reloads
  | trim => exact (s.reqTrim_sound ..).reloads
  | enterService => exact (s.reqEnterService_sound ..).reloads
  | leaveService => exact s.reqLeaveService_reloads ..
  | storeRead => exact (s.reqStoreRead_sound ..).reloads
  | storeWrite => exact (s.reqStoreWrite_sound ..).reloads
  | softReset => exact s.reqSoftReset_reloads ..
  | refused => exact (s.putAnswer_sound r _).reloads
  | ignored => exact (State.Sound.refl s).reloads

theorem State.Receives.reloads {s u : State} (h : s.Receives u) : State.Reloads w p s u := by
  cases h with
  | wake => exact s.wake_sound.reloads
  | same => exact (State.Sound.refl s).reloads
  | handled id r u _ handled => exact (s.heard_sound r).then_reloads handled.reloads
  | vehicle bs => exact (s.vehicleArrival_sound bs).reloads
  | occupancy bs => exact (s.occupancyArrival_sound bs).reloads

end

/-! ## Every command -/

/-- The commands at which the store's bytes may change: the end of a write, and a power-on reset, which a supply below 6.0 V is (R164, R190). -/
def WritesStore (c : Instr) : Prop :=
  c = .storeWriteComplete ∨ c = .parkWriteComplete ∨ c = .markerWriteComplete ∨ (∃ mv, c = .powerOnReset mv)
    ∨ (∃ mv, mv < 6000 ∧ (c = .supplyPause mv ∨ c = .supplyResume mv))

/-- What the order of the wait list asks for besides (R168). -/
def NothingHeld (c : Instr) (s : State) : Prop := ∀ mv, c = .supplyPause mv → ∀ a : Axis, s.heldGrant a = none

/-- The axes that the end of the marker write starts (R168). -/
def Releases (c : Instr) (s : State) (a : Axis) : Prop := c = .markerWriteComplete ∧ (s.heldGrant a).isSome = true

/-- What a command's effect keeps, and what it makes of the store's bytes. -/
structure Performs (c : Instr) (s t : State) : Prop where
  keeps : State.Keeps (NothingHeld c s) (Releases c s) s t
  memory : t.st.memory = s.st.memory ∨ (s.Cut t ∧ WritesStore c)

theorem State.Reloads.performs {c : Instr} {s t : State} (h : State.Reloads (NothingHeld c s) (Releases c s) s t) : Performs c s t :=
  ⟨h.keeps, .inl h.memory⟩

theorem State.Sound.performs {c : Instr} {s t : State} (h : State.Sound (NothingHeld c s) (Releases c s) s t) : Performs c s t := h.reloads.performs

theorem State.Receives.performs {c : Instr} {s t : State} (h : s.Receives t) : Performs c s t := h.reloads.performs

theorem State.EndsWrite.performs {c : Instr} {s t : State} (h : State.EndsWrite (NothingHeld c s) (Releases c s) s t) (hc : WritesStore c) : Performs c s t :=
  ⟨h.keeps, h.memory.imp_right (fun k => ⟨k, hc⟩)⟩

theorem State.powerOn_performs (s : State) (mv : Nat) {c : Instr} (hc : WritesStore c) : Performs c s (s.powerOn mv) :=
  State.EndsWrite.performs ⟨s.powerOn_keeps mv, s.powerOn_cut mv⟩ hc

theorem State.supplyLow_performs (s : State) (mv : Nat) : Performs (.supplyPause mv) s (s.supplyLow mv) := by
  unfold State.supplyLow
  split
  next low => exact s.powerOn_performs mv (.inr (.inr (.inr (.inr ⟨mv, low, .inl rfl⟩))))
  next =>
    split
    next => exact (s.startPause_sound (fun h => h mv rfl)).performs
    next => exact (State.Sound.refl s).performs

theorem State.supplyBack_performs (s : State) (mv : Nat) : Performs (.supplyResume mv) s (s.supplyBack mv) := by
  unfold State.supplyBack
  split
  next low => exact s.powerOn_performs mv (.inr (.inr (.inr (.inr ⟨mv, low, .inr rfl⟩))))
  next =>
    split
    next => exact (State.Sound.refl s).performs
    next =>
      split
      next => exact (State.Sound.refl s).performs
      next => exact s.resume_sound.performs
      next =>
        have normal (x : Supply) : State.Sound (NothingHeld (.supplyResume mv) s) (Releases (.supplyResume mv) s) s { s with sp := x } :=
          .of_rest rfl rfl rfl rfl rfl rfl
        exact ((normal _).trans (State.emit_sound _ _)).performs

/-- Every command keeps the invariants, and changes the store's bytes only by the write in progress. -/
theorem State.effect_performs (s : State) (c : Instr) : Performs c s (s.effect c) := by
  cases c with
  | runArrangement id tag n => exact (s.frameIn_receives id _ _ (fun _ _ => .run ..)).performs
  | holdMove id tag a d => exact (s.frameIn_receives id _ _ (fun _ _ => .hold ..)).performs
  | releaseMove id tag a => exact (s.frameIn_receives id _ _ (fun _ _ => .release ..)).performs
  | stopJob id tag b => exact (s.frameIn_receives id _ _ (fun _ _ => .stopJob ..)).performs
  | stopAll id tag => exact (s.frameIn_receives id _ _ (fun _ _ => .stopAll ..)).performs
  | clearFaults id tag m => exact (s.frameIn_receives id _ _ (fun _ _ => .clearFaults ..)).performs
  | homeAxes id tag m => exact (s.frameIn_receives id _ _ (fun _ _ => .home ..)).performs
  | trimAdjust id tag a k => exact (s.frameIn_receives id _ _ (fun _ _ => .trim ..)).performs
  | enterService id tag => exact (s.frameIn_receives id _ _ (fun _ _ => .enterService ..)).performs
  | leaveService id tag => exact (s.frameIn_receives id _ _ (fun _ _ => .leaveService ..)).performs
  | storeRead id tag n => exact (s.frameIn_receives id _ _ (fun _ _ => .storeRead ..)).performs
  | storeWrite id tag n b0 b1 b2 b3 => exact (s.frameIn_receives id _ _ (fun _ _ => .storeWrite ..)).performs
  | softReset id tag => exact (s.frameIn_receives id _ _ (fun _ _ => .softReset ..)).performs
  | requestFrameOther id bs => exact (s.frameIn_receives id bs _ (fun r t => t.request_handles r bs)).performs
  | frameOtherId id remote bs => exact (s.otherFrame_receives id remote bs).performs
  | vehicleCondition id bs => exact (s.frameIn_receives id bs _ (fun r t => t.request_handles r bs)).performs
  | occupancy id bs => exact (s.frameIn_receives id bs _ (fun r t => t.request_handles r bs)).performs
  | freshnessExpiry k => exact (s.turnStale_sound k).performs
  | holdExpiry j => exact (s.holdLost_sound j).performs
  | currentSample a i => exact (s.sampleDue_sound a i).performs
  | hallEdge a gap => exact (s.hallEdge_sound a gap).performs
  | hallTimeout a => exact (s.hallTimeout_sound a).performs
  | currentLimitEvent a => exact (s.limitEvent_sound a).performs
  | offTimeEnd a i => exact (s.offTimeOver_sound a i).performs
  | commonLegOvercurrent l => exact (s.legOvercurrent_sound l).performs
  | brakingEnd a => exact (s.brakingOver_sound a).performs
  | dwellExpiry a => exact (s.dwellOver_sound a).performs
  | markerWriteComplete =>
    exact (s.markerWritten_endsWrite (fun a h => Option.not_isSome_iff_eq_none.1 (fun k => h ⟨rfl, k⟩))).performs (.inr (.inr (.inl rfl)))
  | releaseFirstPulseEnd l => exact (s.firstPulseOver_sound l).performs
  | releaseGapEnd l => exact (s.gapOver_sound l).performs
  | releaseRetryEnd l => exact (s.retryOver_sound l).performs
  | solenoidHoldTimeout l => exact (s.holdOver_sound l).performs
  | relockCheckExpiry l => exact (s.decideRelock_sound (axisOfLatch l) false).performs
  | latchDebounce l v => exact (s.latchReading_sound l v).performs
  | deferralTimeout j a => exact (s.deferralOver_sound j a).performs
  | coolingStep a => exact (s.coolStep_sound a).performs
  | supplyPause mv => exact s.supplyLow_performs mv
  | supplyResume mv => exact s.supplyBack_performs mv
  | pauseWindowExpiry => exact s.windowOver_sound.performs
  | powerOnReset mv => exact s.powerOn_performs mv (.inr (.inr (.inr (.inl ⟨mv, rfl⟩))))
  | firstLoadEnd => exact s.firstLoad_reloads.performs
  | storeWriteComplete => exact s.serviceWritten_endsWrite.performs (.inl rfl)
  | serviceTimeout => exact s.serviceTimedOut_reloads.performs
  | serviceDeferredLeave => exact s.deferredLeave_reloads.performs
  | parkEntry => exact s.parkNow_sound.performs
  | parkWriteComplete => exact s.parkWritten_endsWrite.performs (.inr (.inl rfl))
  | wakeEvent x => exact s.wake_sound.performs
  | wakingEnd => exact s.wakingDone_sound.performs
  | frameSent => exact s.frameSent_sound.performs
  | pageDue n => exact (s.pageFallsDue_sound n).performs
  | txError => exact s.transmitError_sound.performs
  | busOffRejoin => exact s.rejoin_sound.performs
  | padButtonPress q b => exact (s.padPress_sound q b).performs
  | padButtonRelease q b => exact (s.padRelease_sound q b).performs
  | padStuck q b => exact (s.padSticks_sound q b).performs

/-! ## The end of an event -/

theorem State.conclude_st (s : State) : s.conclude.st = { s.st with write := s.conclude.st.write, markerQueued := s.conclude.st.markerQueued } :=
  s.conclude_follows.st

/-- The work of an event keeps the reservations within their limits. -/
theorem State.FollowsBut.budget {ok : Pad → Prop} {u t : State} (h : State.FollowsBut noAxis ok u t) (k : u.BudgetGood) : t.BudgetGood := by
  intro d hd
  have hu : u.st.drive = some d := by rw [← hd, h.rest.st]
  obtain ⟨order, total, legs, spare⟩ := k d hu
  have within := h.within (fun _ e => e) d hu
  exact ⟨order, within.total total, fun l => within.legs l (legs l), fun a => h.spare a id d hu (order a) (spare a)⟩

/-- What a whole event keeps. -/
theorem exec_keeps {c : Instr} {s t : State} (h : exec c s = .next t) :
    (s.ChannelsGood → t.ChannelsGood) ∧ (s.jm.Good → t.jm.Good) ∧ (s.da.WaitGood → NothingHeld c s → t.da.WaitGood)
      ∧ (s.BudgetGood → t.st.drive = s.st.drive → t.BudgetGood) := by
  have effect := (s.effect_performs c).keeps
  have after := (s.effect c).conclude_but
  rw [eq_of_exec h]
  refine ⟨fun k a => (after.loose a).range (effect.range k a), fun k => after.rest.jm.good (effect.jobs k), fun k hw => after.wait (effect.wait hw k),
    fun k hd => after.budget (effect.budget ?_ k)⟩
  rw [← hd, State.conclude_st]

/-! ## One idle millisecond -/

theorem State.pump_sound {w : Prop} {p : Axis → Prop} (s : State) : State.Sound w p s s.pump :=
  (s.pump_same.follows (ok := fun _ => True) (fun h => by rw [State.pump_da]; exact h)).sound (.of_ac s.pump_same.ac)

theorem State.advance_sound {w : Prop} {p : Axis → Prop} (s : State) : State.Sound w p s s.advance := by
  have motion (a : Axis) : s.advance.ac[a].motion = s.ac[a].motion := by rw [State.advance_ac]; rfl
  refine .of_ac (fun a h => ?_) (fun a h => ?_) (fun a h => ?_) (fun a _ h => ?_) (fun h => h.map Job.tick (fun _ => ⟨rfl, rfl, rfl, rfl⟩))
    rfl rfl rfl rfl rfl rfl
  · rw [State.advance_ac]; exact h
  · rw [motion]; exact h
  · rw [motion] at h; exact h
  · rw [motion]; exact h

end Machine

open Machine

/-- Settles O7: an idle millisecond moves timers alone; a command's effect keeps each invariant part by part, and the work of the event's end after it. -/
theorem stepKeepsChannels : Obligations.StepKeepsChannels := by
  intro s t h
  unfold step at h
  split at h
  next =>
    cases h
    have kept : State.Sound True (fun _ => False) s s.pump.advance := s.pump_sound.trans (State.advance_sound _)
    exact ⟨kept.keeps.range, kept.keeps.jobs, fun k _ => kept.keeps.wait trivial k, fun k _ => kept.keeps.budget kept.drive k⟩
  next c rest queue =>
    obtain ⟨range, jobs, wait, budget⟩ := exec_keeps h
    exact ⟨range, jobs, fun k held => wait k (fun mv hc => held mv rest (by rw [queue, hc])), budget⟩

/-- Settles O8: of all effects the ends of writes and the power-on reset alone touch the store's bytes, and the end of an event none. -/
theorem storeChangesOnlyByWrites : Obligations.StoreChangesOnlyByWrites := by
  intro c s t h changed
  have memory : t.st.memory = (s.effect c).st.memory := by rw [eq_of_exec h, State.conclude_st]
  rw [memory] at changed ⊢
  rcases (s.effect_performs c).memory with same | ⟨cut, writes⟩
  · exact absurd same changed
  · exact ⟨cut.imp (fun _ h => h), writes⟩

/-- Settles O6: an idle millisecond leaves the bytes, and a write keeps their canonical form. -/
theorem stepKeepsStore : Obligations.StepKeepsStore := by
  intro s t good h
  unfold step at h
  split at h
  next =>
    cases h
    have kept : State.Sound True (fun _ => False) s s.pump.advance := s.pump_sound.trans (State.advance_sound _)
    show Memory.wf s.pump.advance.st.memory = true
    rw [kept.memory]
    exact good
  next c rest queue =>
    by_cases changed : t.st.memory = (s.withQueue rest).st.memory
    · unfold State.StoreGood
      rw [changed]
      exact good
    · obtain ⟨⟨x, n, _, memory⟩, _⟩ := storeChangesOnlyByWrites c _ t h changed
      unfold State.StoreGood
      rw [memory]
      exact memWriteAll_wf _ good

/-- Settles O2: every arm answers the end of its event, which leaves the queue and no work. -/
theorem everyCommandCompletes : Obligations.EveryCommandCompletes := fun c s =>
  ⟨_, exec_eq c s, (s.effect c).conclude_follows.pending.trans (s.effect_performs c).keeps.pending, (s.effect c).conclude_quiet⟩

/-- Settles O9: no effect but the marker write's end starts an axis, and what the work of an event starts is cleared. -/
theorem noMotionStartsUncleared : Obligations.NoMotionStartsUncleared := by
  have starts (c : Instr) (s t : State) (a : Axis) (h : exec c s = .next t) (still : s.ac[a].motion.stoppable = false)
      (moving : t.ac[a].motion.stoppable = true) : t.Cleared a ∨ Releases c s a := by
    rw [eq_of_exec h] at moving ⊢
    by_cases released : Releases c s a
    · exact .inr released
    · exact .inl ((s.effect c).conclude_follows.starts a ((s.effect_performs c).keeps.rests a released still) moving)
  refine ⟨fun c s t a hc h still moving => (starts c s t a h still moving).resolve_right (fun k => hc k.1),
    fun s t a h still moving => (starts _ s t a h still moving).imp_right (fun k => k.2)⟩

end Sys2Proof
end

section
/-! Answers, and the requests that change no motion: trims, faults, Service Mode, the store, and frames of no request (11.1, 11.2; 12.3). -/

namespace Sys2Proof
namespace Machine

/-! ## How a command is settled -/

/-- A command whose effect raises no work ends in a state that its effect settles into. -/
theorem exec_settles {c : Instr} {s u : State} (effect : s.effect c = u) (quiet : u.Quiet) : ∃ t, exec c s = .next t ∧ u.Settles t :=
  ⟨u.conclude, by rw [exec_eq, effect], State.conclude_settles quiet⟩

/-- A command that raises no work and does nothing else. -/
theorem exec_ignored {c : Instr} {s : State} (effect : s.effect c = s) (quiet : s.Quiet) : ∃ t, exec c s = .next t ∧ s.Settles t :=
  exec_settles effect quiet

/-! ## The request of each command

A request frame that reaches its role is that request in the state that hears it (R171). -/

section
variable {s : State} {id : CanId} {r : Role} (hears : s.Hears id r)
include hears

theorem State.effect_runArrangement (tag : BitVec 4) (n : Byte) : s.effect (.runArrangement id tag n) = (s.heard r).reqRun r tag n :=
  State.frameIn_of_hears hears _ (fun r t => t.reqRun r tag n)

theorem State.effect_holdMove (tag : BitVec 4) (a d : Byte) : s.effect (.holdMove id tag a d) = (s.heard r).reqHold r tag a d :=
  State.frameIn_of_hears hears _ (fun r t => t.reqHold r tag a d)

theorem State.effect_releaseMove (tag : BitVec 4) (a : Byte) : s.effect (.releaseMove id tag a) = (s.heard r).reqRelease r tag a :=
  State.frameIn_of_hears hears _ (fun r t => t.reqRelease r tag a)

theorem State.effect_stopJob (tag : BitVec 4) (b : Byte) : s.effect (.stopJob id tag b) = (s.heard r).reqStopJob r tag b :=
  State.frameIn_of_hears hears _ (fun r t => t.reqStopJob r tag b)

theorem State.effect_stopAll (tag : BitVec 4) : s.effect (.stopAll id tag) = (s.heard r).reqStopAll r tag :=
  State.frameIn_of_hears hears _ (fun r t => t.reqStopAll r tag)

theorem State.effect_clearFaults (tag : BitVec 4) (b : Byte) : s.effect (.clearFaults id tag b) = (s.heard r).reqClearFaults r tag b :=
  State.frameIn_of_hears hears _ (fun r t => t.reqClearFaults r tag b)

theorem State.effect_homeAxes (tag : BitVec 4) (b : Byte) : s.effect (.homeAxes id tag b) = (s.heard r).reqHome r tag b :=
  State.frameIn_of_hears hears _ (fun r t => t.reqHome r tag b)

theorem State.effect_trimAdjust (tag : BitVec 4) (a k : Byte) : s.effect (.trimAdjust id tag a k) = (s.heard r).reqTrim r tag a k :=
  State.frameIn_of_hears hears _ (fun r t => t.reqTrim r tag a k)

theorem State.effect_enterService (tag : BitVec 4) : s.effect (.enterService id tag) = (s.heard r).reqEnterService r tag :=
  State.frameIn_of_hears hears _ (fun r t => t.reqEnterService r tag)

theorem State.effect_leaveService (tag : BitVec 4) : s.effect (.leaveService id tag) = (s.heard r).reqLeaveService r tag :=
  State.frameIn_of_hears hears _ (fun r t => t.reqLeaveService r tag)

theorem State.effect_storeRead (tag : BitVec 4) (n : BitVec 16) : s.effect (.storeRead id tag n) = (s.heard r).reqStoreRead r tag n :=
  State.frameIn_of_hears hears _ (fun r t => t.reqStoreRead r tag n)

theorem State.effect_storeWrite (tag : BitVec 4) (n : BitVec 16) (b0 b1 b2 b3 : Byte) : s.effect (.storeWrite id tag n b0 b1 b2 b3) = (s.heard r).reqStoreWrite r tag n [b0, b1, b2, b3] :=
  State.frameIn_of_hears hears _ (fun r t => t.reqStoreWrite r tag n [b0, b1, b2, b3])

theorem State.effect_softReset (tag : BitVec 4) : s.effect (.softReset id tag) = (s.heard r).reqSoftReset r tag :=
  State.frameIn_of_hears hears _ (fun r t => t.reqSoftReset r tag)

theorem State.effect_requestFrameOther (bs : List Byte) : s.effect (.requestFrameOther id bs) = (s.heard r).request r bs :=
  State.frameIn_of_hears hears bs (fun r t => t.request r bs)

end

/-! ## Answers -/

/-- The sender's pending-refusal slot takes an answer, of which the overrun flag and the marks alone depend on what it replaces (R98). -/
theorem State.putAnswer_eq (s : State) (r : Role) (x : Answer) : ∃ overrun replaced,
    s.putAnswer r x = s.setAnswer r (some { x with overrun := overrun, loaded := false, replaced := replaced }) := by
  unfold State.putAnswer
  split
  next => exact ⟨_, _, rfl⟩
  next => exact ⟨_, _, rfl⟩

theorem State.setAnswer_get (s : State) (r : Role) (x : Option Answer) : (s.setAnswer r x).jm.answers[roleNo r] = x := by
  show (s.jm.answers.set (roleNo r) x)[roleNo r] = x
  rw [Machine.setSlot_get, if_pos rfl]

/-- An answer put, as the slot then holds it. -/
theorem State.putAnswer_get (s : State) (r : Role) (x : Answer) : ∃ overrun replaced,
    (s.putAnswer r x).jm.answers[roleNo r] = some { x with overrun := overrun, loaded := false, replaced := replaced } := by
  obtain ⟨overrun, replaced, e⟩ := s.putAnswer_eq r x
  exact ⟨overrun, replaced, by rw [e, State.setAnswer_get]⟩

theorem State.putAnswer_raised (s : State) (r : Role) (x : Answer) : (s.putAnswer r x).raised = s.raised := by
  obtain ⟨_, _, e⟩ := s.putAnswer_eq r x
  rw [e]; rfl

theorem State.putAnswer_ac (s : State) (r : Role) (x : Answer) : (s.putAnswer r x).ac = s.ac := by
  obtain ⟨_, _, e⟩ := s.putAnswer_eq r x
  rw [e]; rfl

theorem State.Quiet.answer {s : State} (h : s.Quiet) (r : Role) (k : ReqKind) (tag : BitVec 4) (x : Refused) : (s.answer r k tag x).Quiet :=
  (s.putAnswer_raised r _).trans h

theorem State.Quiet.refuse {s : State} (h : s.Quiet) (r : Role) (k : ReqKind) (tag : BitVec 4) (c : Code) : (s.refuse r k tag c).Quiet := h.answer ..

theorem State.Quiet.heard {s : State} (h : s.Quiet) (r : Role) : (s.heard r).Quiet := (s.heard_raised r).trans h

/-- What stands in an answer slot but for its marks, whatever loads a frame. -/
theorem answers_kept {l m : Vector (Option Answer) 4} (h : m.map (fun x => x.map Answer.unmarked) = l.map (fun x => x.map Answer.unmarked)) (n : Fin 4)
    {x : Answer} (hx : l[n] = some x) : ∃ loaded, m[n] = some { x with loaded := loaded } := by
  have get (v : Vector (Option Answer) 4) : (v.map (fun x => x.map Answer.unmarked))[n] = v[n].map Answer.unmarked := Vector.getElem_map ..
  have at_n : m[n].map Answer.unmarked = some x.unmarked := by rw [← get, h, get, hx]; rfl
  obtain ⟨y, hy, e⟩ := Option.map_eq_some_iff.1 at_n
  refine ⟨y.loaded, ?_⟩
  rw [hy]
  have fields := Answer.mk.inj e
  obtain ⟨kind, tag, code, failing, detail, read, overrun, -, replaced⟩ := fields
  cases y
  cases x
  simp_all

theorem State.Settles.answer {u t : State} (h : u.Settles t) {r : Role} {x : Answer} (hx : u.jm.answers[roleNo r] = some x) :
    ∃ loaded, t.jm.answers[roleNo r] = some { x with loaded := loaded } := answers_kept h.answers _ hx

theorem State.Follows.answer {u t : State} (h : u.Follows t) {r : Role} {x : Answer} (hx : u.jm.answers[roleNo r] = some x) :
    ∃ loaded, t.jm.answers[roleNo r] = some { x with loaded := loaded } := answers_kept h.answers _ hx

theorem State.Answers.settles {u t : State} {r : Role} {k : ReqKind} {tag : BitVec 4} {c : Code} {d : BitVec 16} (h : u.Settles t)
    (answered : u.Answers r k tag c d) : t.Answers r k tag c d := by
  obtain ⟨x, hx, fields⟩ := answered
  obtain ⟨_, ht⟩ := h.answer hx
  exact ⟨_, ht, fields⟩

theorem State.Answers.follows {u t : State} {r : Role} {k : ReqKind} {tag : BitVec 4} {c : Code} {d : BitVec 16} (h : u.Follows t)
    (answered : u.Answers r k tag c d) : t.Answers r k tag c d := by
  obtain ⟨x, hx, fields⟩ := answered
  obtain ⟨_, ht⟩ := h.answer hx
  exact ⟨_, ht, fields⟩

/-- An answer changes its role's pending-refusal slot alone (R98). -/
theorem State.answer_eq (s : State) (r : Role) (k : ReqKind) (tag : BitVec 4) (x : Refused) : ∃ y, s.answer r k tag x = s.setAnswer r (some y) := by
  obtain ⟨_, _, e⟩ := s.putAnswer_eq r _
  exact ⟨_, e⟩

theorem State.answer_ac (s : State) (r : Role) (k : ReqKind) (tag : BitVec 4) (x : Refused) : (s.answer r k tag x).ac = s.ac := s.putAnswer_ac r _

/-- What an answer of a request holds. -/
theorem State.answer_answers (s : State) (r : Role) (k : ReqKind) (tag : BitVec 4) (x : Refused) :
    (s.answer r k tag x).Answers r k tag x.code (x.detail.getD (Config.absentDetail k.code.toNat x.code.byte.toNat)) := by
  obtain ⟨_, _, e⟩ := s.putAnswer_get r _
  exact ⟨_, e, rfl, rfl, rfl, rfl⟩

/-! ## The gate -/

/-- The service tool may send every kind (R172). -/
theorem permitted_service (k : ReqKind) : permitted .service k = true := rfl

theorem State.gate_eq_none {s : State} {r : Role} {k : ReqKind} (allowed : permitted r k = true) (free : k.barredInService = false) :
    s.gate r k true = none := by
  simp [State.gate, allowed, free]

/-! ## Trims -/

theorem State.reqTrim_free {s : State} {r : Role} {tag : BitVec 4} {ab code : Byte} {a : Axis} (arg : axisArg ab = some a)
    (gate : s.gate r .trim (decide (code.toNat ≤ 8)) = none) (free : s.jm.claims[a] = none) :
    s.reqTrim r tag ab code = (s.modChan a (fun c => c.trim code.toNat)).answerDone r .trim tag
      (pairDetail (toByte (s.ac[a].trim code.toNat).marginTrim) (toByte (s.ac[a].trim code.toNat).timeoutTrim)) := by
  have moved : (s.modChan a (fun c => c.trim code.toNat)).ac[a] = s.ac[a].trim code.toNat := by rw [State.modChan_get, if_pos rfl]
  unfold State.reqTrim
  rw [arg]
  dsimp only
  rw [gate]
  dsimp only
  rw [free]
  dsimp only
  rw [moved]

theorem State.reqTrim_busy {s : State} {r : Role} {tag : BitVec 4} {ab code : Byte} {a : Axis} {j : Slot} (arg : axisArg ab = some a)
    (gate : s.gate r .trim (decide (code.toNat ≤ 8)) = none) (claimed : s.jm.claims[a] = some j) :
    s.reqTrim r tag ab code = s.answer r .trim tag { code := .busy, failing := none, detail := some (wordDetail j.val) } := by
  unfold State.reqTrim
  rw [arg]
  dsimp only
  rw [gate]
  dsimp only
  rw [claimed]

/-! ## CLEAR_FAULTS -/

/-- The common leg of an axis under the map in force (R46). -/
def State.mapLeg (s : State) (a : Axis) : Option Leg := (s.driveAxis a).bind DriveAxis.commonLeg

/-- One axis cleared: its channel, its latch's fault, and its common leg's fault (R51, R72, R173). -/
theorem State.clearAxis_eq (s : State) (a : Axis) : s.clearAxis a = { s with
    ac := s.ac.set a s.ac[a].clearFaults
    lc := match latchOf a with | some l => s.lc.set l s.lc[l].clearFault | none => s.lc
    da := { s.da with legFault := match s.mapLeg a with | some l => s.da.legFault.set l false | none => s.da.legFault } } := by
  have drive (l : LatchNo) : ((s.modChan a Channel.clearFaults).modLatch l Latch.clearFault).driveAxis a = s.driveAxis a := rfl
  have drive' : (s.modChan a Channel.clearFaults).driveAxis a = s.driveAxis a := rfl
  unfold State.clearAxis State.mapLeg
  dsimp only
  cases latchOf a with
  | none =>
    dsimp only
    rw [drive']
    cases s.driveAxis a with
    | none => rfl
    | some d => dsimp only [Option.bind_some]; cases d.commonLeg <;> rfl
  | some l =>
    dsimp only
    rw [drive]
    cases s.driveAxis a with
    | none => rfl
    | some d => dsimp only [Option.bind_some]; cases d.commonLeg <;> rfl

theorem State.clearAxis_ac (s : State) (a b : Axis) : (s.clearAxis a).ac[b] = if b = a then s.ac[a].clearFaults else s.ac[b] := by
  rw [State.clearAxis_eq]
  exact Machine.setSlot_get ..

/-- A latch has the axis that has it (R5). -/
theorem latchOf_eq_some_iff {a : Axis} {l : LatchNo} : latchOf a = some l ↔ axisOfLatch l = a := by
  revert a l; decide

theorem State.clearAxis_lc (s : State) (a : Axis) (l : LatchNo) : (s.clearAxis a).lc[l] = if axisOfLatch l = a then s.lc[l].clearFault else s.lc[l] := by
  rw [State.clearAxis_eq]
  dsimp only
  split
  next k hk =>
    have axis : axisOfLatch l = a ↔ l = k := by rw [← latchOf_eq_some_iff, hk, Option.some_inj, eq_comm]
    rw [Machine.setSlot_get]
    by_cases e : l = k
    · subst e; rw [if_pos rfl, if_pos (axis.2 rfl)]
    · rw [if_neg e, if_neg (fun h => e (axis.1 h))]
  next hk => rw [if_neg (fun h => by rw [latchOf_eq_some_iff.2 h] at hk; cases hk)]

theorem State.clearAxis_legFault (s : State) (a : Axis) (l : Leg) :
    (s.clearAxis a).da.legFault[l] = (s.da.legFault[l] && !(s.mapLeg a == some l)) := by
  rw [State.clearAxis_eq]
  dsimp only
  split
  next k hk =>
    rw [Machine.setSlot_get, hk]
    split
    next e => subst e; simp
    next e => simp [Ne.symm e]
  next hk => rw [hk]; simp

theorem State.clearAxis_mapLeg (s : State) (a b : Axis) : (s.clearAxis a).mapLeg b = s.mapLeg b := by
  rw [State.clearAxis_eq]; rfl

theorem Channel.clearFaults_twice (c : Channel) : c.clearFaults.clearFaults = c.clearFaults := rfl

theorem Latch.clearFault_twice (l : Latch) : l.clearFault.clearFault = l.clearFault := by
  unfold Latch.clearFault
  cases h : l.sensorFault <;> simp [h]

/-- The axes of a list cleared one after another. -/
structure State.Cleans (s t : State) (m : List Axis) : Prop where
  rest : t = { s with ac := t.ac, lc := t.lc, da := { s.da with legFault := t.da.legFault } }
  ac : ∀ b : Axis, t.ac[b] = if b ∈ m then s.ac[b].clearFaults else s.ac[b]
  lc : ∀ l : LatchNo, t.lc[l] = if axisOfLatch l ∈ m then s.lc[l].clearFault else s.lc[l]
  legFault : ∀ l : Leg, t.da.legFault[l] = (s.da.legFault[l] && !(m.any (fun a => s.mapLeg a == some l)))

theorem State.clearAxes_cleans : ∀ (m : List Axis) (s : State), s.Cleans (s.each m State.clearAxis) m
  | [], s => ⟨rfl, fun _ => rfl, fun _ => rfl, fun l => (by simp [State.each])⟩
  | a :: m, s => by
    obtain ⟨rest, ac, lc, legFault⟩ := State.clearAxes_cleans m (s.clearAxis a)
    show s.Cleans ((s.clearAxis a).each m State.clearAxis) (a :: m)
    generalize (s.clearAxis a).each m State.clearAxis = t at rest ac lc legFault
    refine ⟨?_, fun b => ?_, fun l => ?_, fun l => ?_⟩
    · rw [rest, State.clearAxis_eq]
    · rw [ac, State.clearAxis_ac]
      by_cases e : b = a
      · subst e; simp [Channel.clearFaults_twice]
      · simp [e]
    · rw [lc, State.clearAxis_lc]
      by_cases e : axisOfLatch l = a
      · simp [e, Latch.clearFault_twice]
      · simp [e]
    · rw [legFault, State.clearAxis_legFault]
      simp only [State.clearAxis_mapLeg, List.any_cons, Bool.not_or, Bool.and_assoc]

theorem State.reqClearFaults_free {s : State} {r : Role} {tag : BitVec 4} {b : Byte} {m : AxisSet} (arg : setArg b = some m)
    (gate : s.gate r .clearFaults true = none) (free : s.claimedCheck m = none) :
    s.reqClearFaults r tag b = (s.each (AxisSet.list m) State.clearAxis).answerDone r .clearFaults tag (pairDetail b 0#8) := by
  have byte : setByte m = b := by
    unfold setArg at arg
    split at arg
    next => cases arg
    next h =>
      cases arg
      have low : b.getLsbD 7 = false := by simpa using fun k => h (.inr k)
      unfold setByte
      ext i hi
      have : i = 7 ∨ i < 7 := by omega
      rcases this with rfl | small
      · simpa using low
      · simp [small, BitVec.getLsbD_eq_getElem hi]
  unfold State.reqClearFaults
  rw [arg]
  dsimp only
  rw [gate]
  dsimp only
  rw [free]
  dsimp only
  rw [byte]

/-! ## Service Mode and the store -/

/-- A frame of the service tool in Service Mode restarts the timer (R189). -/
theorem State.heard_service (s : State) : s.heard .service = s.serviceActivity := rfl

theorem State.serviceActivity_off {s : State} (h : s.st.service = false) : s.serviceActivity = s := by
  unfold State.serviceActivity
  rw [h]; rfl

theorem State.heard_off {s : State} (h : s.st.service = false) (r : Role) : s.heard r = s := by
  unfold State.heard
  split
  next => exact State.serviceActivity_off h
  next => rfl

theorem State.heard_st_service (s : State) (r : Role) : (s.heard r).st.service = s.st.service := by rw [State.heard_st]
theorem State.heard_st_write (s : State) (r : Role) : (s.heard r).st.write = s.st.write := by rw [State.heard_st]
theorem State.heard_st_memory (s : State) (r : Role) : (s.heard r).st.memory = s.st.memory := by rw [State.heard_st]
theorem State.heard_st_report (s : State) (r : Role) : (s.heard r).st.report = s.st.report := by rw [State.heard_st]
theorem State.heard_st_drive (s : State) (r : Role) : (s.heard r).st.drive = s.st.drive := by rw [State.heard_st]

theorem State.heard_noJob (s : State) (r : Role) : (s.heard r).noJob = s.noJob := by
  rw [State.heard_eq]; rfl

/-- The state in Service Mode with its timer from 0. -/
def State.inService (s : State) : State := { s with st := { s.st with service := true, serviceTimer := .start, leavePending := false } }

theorem State.reqEnterService_enters {s : State} (tag : BitVec 4) (h : s.st.service = true ∨ (s.noJob = true ∧ s.standstill = true ∧ s.inPark = true)) :
    s.reqEnterService .service tag = s.inService.refuse .service .enterService tag .done := by
  unfold State.reqEnterService
  rw [State.gate_eq_none rfl rfl]
  dsimp only
  split
  next => rfl
  next off =>
    obtain ⟨free, still, park⟩ := h.resolve_left off
    have checked : s.standingCheck = none := by simp [State.standingCheck, still, park]
    rw [checked, free]
    rfl

end Machine

open Machine

/-- Settles O24: the code's trims, and the answer that names them. -/
theorem trimMoves : Obligations.TrimMoves := by
  intro s id tag ab a code quiet hears arg small
  have gate : (s.heard .service).gate .service .trim (decide (code.toNat ≤ 8)) = none := by
    rw [decide_eq_true small]; exact State.gate_eq_none rfl rfl
  have effect := State.effect_trimAdjust hears tag ab code
  refine ⟨fun free => ?moved, fun j claimed => ?busy⟩
  case moved =>
    rw [State.reqTrim_free arg gate (by rw [State.heard_jm]; exact free)] at effect
    obtain ⟨t, run, settles⟩ := exec_settles effect (State.Quiet.answer (s := (s.heard .service).modChan a _) (State.Quiet.heard quiet _) ..)
    have chan : t.ac[a] = s.ac[a].trim code.toNat := by
      rw [settles.ac, State.answerDone, State.answer_ac, State.modChan_get, if_pos rfl, State.heard_ac]
    have trims := Channel.trim_eq s.ac[a] code.toNat
    have one : (s.heard .service).modChan a (fun c => c.trim code.toNat) = { s.heard .service with ac := s.ac.set a (s.ac[a].trim code.toNat) } := by
      unfold State.modChan
      rw [State.heard_ac]
    rw [State.heard_ac, one] at settles
    refine ⟨t, run, chan.trans trims, ?_, ?_⟩
    · rw [chan]
      exact State.Answers.settles settles (State.answer_answers ..)
    · rw [chan]
      exact settles
  case busy =>
    rw [State.reqTrim_busy arg gate (by rw [State.heard_jm]; exact claimed)] at effect
    obtain ⟨t, run, settles⟩ := exec_settles effect ((State.Quiet.heard quiet _).answer ..)
    refine ⟨t, run, State.Answers.settles settles (State.answer_answers ..), ?_⟩
    rw [settles.ac]
    exact (State.answer_ac ..).trans (s.heard_ac _)

/-- Settles O22: the axes of the set are cleared one after another, and each clearing is of one axis alone. -/
theorem clearFaultsClears : Obligations.ClearFaultsClears := by
  intro s id r tag b m quiet hears arg gate free
  have free' : (s.heard r).claimedCheck m = none := by rw [← free]; unfold State.claimedCheck; rw [State.heard_jm]
  have effect := State.effect_clearFaults hears tag b
  rw [State.reqClearFaults_free arg gate free'] at effect
  have cleans := State.clearAxes_cleans (AxisSet.list m) (s.heard r)
  generalize hu : (s.heard r).each (AxisSet.list m) State.clearAxis = u at effect cleans
  obtain ⟨rest, ac, lc, legFault⟩ := cleans
  have still : u.Quiet := by
    unfold State.Quiet
    rw [rest]
    exact State.Quiet.heard quiet r
  obtain ⟨t, run, settles⟩ := exec_settles effect (still.answer ..)
  obtain ⟨y, put⟩ := u.answer_eq r .clearFaults tag { code := .done, failing := none, detail := some (pairDetail b 0#8) }
  have answered : u.answerDone r .clearFaults tag (pairDetail b 0#8) = u.setAnswer r (some y) := put
  have mapLeg (a : Axis) (l : Leg) : ((s.heard r).mapLeg a == some l)
      = (match s.driveAxis a with | some d => d.commonLeg == some l | none => false) := by
    have drive : (s.heard r).driveAxis a = s.driveAxis a := by unfold State.driveAxis; rw [State.heard_st]
    unfold State.mapLeg
    rw [drive]
    cases s.driveAxis a <;> rfl
  refine ⟨t, run, fun a => ?_, fun l => ?_, fun l => ?_, State.Answers.settles settles (State.answer_answers ..), u.ac, u.lc, u.da.legFault, ?_⟩
  · rw [settles.ac, answered]
    show u.ac[a] = _
    rw [ac]
    simp only [AxisSet.mem_list_iff, State.heard_ac]
    rfl
  · rw [settles.lc, answered]
    show u.lc[l] = _
    rw [lc]
    simp only [AxisSet.mem_list_iff, State.heard_lc, Latch.clearFault]
    by_cases inSet : AxisSet.has m (axisOfLatch l) = true
    · simp [inSet]
    · simp [inSet]
  · rw [settles.da, answered]
    show u.da.legFault[l] = _
    rw [legFault]
    simp only [AxisSet.list, List.any_filter, mapLeg, State.heard_da] <;> rfl
  · have whole : { s.heard r with ac := u.ac, lc := u.lc, da := { s.da with legFault := u.da.legFault } } = u := by
      rw [rest, State.heard_da]
    rw [whole]
    exact settles

/-- Settles O25: in Service Mode, or with every slot FREE, at standstill and in P, the request enters; over a busy slot it is refused. -/
theorem enterService : Obligations.EnterService := by
  intro s id tag quiet hears
  have effect := State.effect_enterService hears tag
  refine ⟨fun h => ?_, fun off busy => ?_⟩
  · have same : (s.heard .service).inService = s.inService := by
      unfold State.inService
      rw [State.heard_st, State.heard_eq]
    rw [State.reqEnterService_enters tag ?_, same] at effect
    · exact exec_settles effect (State.Quiet.refuse (s := s.inService) quiet ..)
    · by_cases on : s.st.service = true
      · exact .inl (by rw [State.heard_st_service]; exact on)
      · rw [State.heard_off (by simpa using on)]; exact h
  · rw [State.heard_off off] at effect
    refine exec_settles (effect.trans ?_) (quiet.refuse ..)
    unfold State.reqEnterService
    rw [State.gate_eq_none rfl rfl]
    simp [off, busy]

/-- Settles O27: the chunk's bytes, by the range of its number. -/
theorem storeReadAnswers : Obligations.StoreReadAnswers := by
  intro s id tag chunk quiet hears range
  have effect : s.effect (.storeRead id tag chunk) = (s.heard .service).answerRead .service tag chunk.toNat (s.readChunk chunk.toNat) := by
    refine (State.effect_storeRead hears tag chunk).trans ?_
    have read : (s.heard .service).readChunk chunk.toNat = s.readChunk chunk.toNat := by
      unfold State.readChunk State.validityByte
      rw [State.heard_st_memory, State.heard_st_report]
    unfold State.reqStoreRead
    rw [decide_eq_true range, State.gate_eq_none rfl rfl, read]
  obtain ⟨t, run, settles⟩ := exec_settles effect ((State.putAnswer_raised _ _ _).trans (State.Quiet.heard quiet _))
  obtain ⟨_, _, put⟩ := (s.heard .service).putAnswer_get .service
    { kind := ReqKind.storeRead.code, tag := tag, code := .done, failing := none, detail := 0#16,
      read := some (chunk.toNat, s.readChunk chunk.toNat), overrun := false, loaded := false, replaced := false }
  obtain ⟨_, answered⟩ := settles.answer put
  exact ⟨t, _, run, answered, rfl, rfl, rfl, settles⟩

/-- Settles O28: by the two tests in their order. -/
theorem storeWriteStarts : Obligations.StoreWriteStarts := by
  intro s id tag chunk b0 b1 b2 b3 quiet hears range w
  have effect := State.effect_storeWrite hears tag chunk b0 b1 b2 b3
  have gate : (s.heard .service).gate .service .storeWrite (decide (chunk.toNat ≤ 511)) = none := by
    rw [decide_eq_true range]; exact State.gate_eq_none rfl rfl
  have heard := State.Quiet.heard quiet .service
  have idle : (s.heard .service).storeIdle = (s.noJob && s.st.write.isNone) := by
    unfold State.storeIdle
    rw [State.heard_noJob, State.heard_st_write]
  unfold State.reqStoreWrite at effect
  rw [gate] at effect
  dsimp only at effect
  split
  next off => exact exec_settles (effect.trans (if_pos (by simp [State.heard_st_service, off]))) (heard.refuse ..)
  next on =>
    rw [if_neg (by simpa [State.heard_st_service] using on)] at effect
    split
    next busy =>
      have waits : (s.noJob && s.st.write.isNone) = false := by
        rcases busy with h | h
        · simp [h]
        · simp [Option.isNone_eq_false_iff.2 h]
      exact exec_settles (effect.trans (if_pos (by rw [idle, waits]; rfl))) (heard.refuse ..)
    next free =>
      have free' : (s.noJob && s.st.write.isNone) = true := by
        rw [not_or, Bool.not_eq_false, Option.not_isSome_iff_eq_none] at free
        simp [free.1, free.2]
      rw [if_neg (by rw [idle, free']; simp)] at effect
      exact exec_settles effect heard

/-- Settles O30: reception in PARK, in bus-off, and of what is no whole request. -/
theorem otherFrames : Obligations.OtherFrames := by
  have parked {s : State} (h : s.sp.power = .park) (id : CanId) (bs : List Byte) (q : Role → State → State) : s.frameIn id bs q = s.wake := by
    unfold State.frameIn
    rw [if_pos h]
  have lost {s : State} (h : s.sp.power ≠ .park) (off : s.np.busOff = true) (id : CanId) (bs : List Byte) (q : Role → State → State) :
      s.frameIn id bs q = s := by
    unfold State.frameIn
    rw [if_neg h, if_pos off]
  refine ⟨fun s id remote bs tag n b0 b1 b2 b3 w c hc => ?_, fun s id r bs quiet => ?_⟩
  · have taken {u : State} (frame : ∀ bs q, s.frameIn id bs q = u) (remote_frame : s.wake = u) : s.effect c = u := by
      simp only [List.mem_cons, List.not_mem_nil, or_false] at hc
      rcases hc with rfl | rfl | rfl | rfl | rfl | rfl | rfl | rfl | rfl | rfl | rfl | rfl | rfl | rfl | rfl | rfl | rfl
      all_goals simp only [State.effect, State.anyFrame, State.otherFrame, frame, remote_frame, ite_self]
    refine ⟨fun park => ?_, fun quiet awake off => exec_ignored (taken (lost awake off id) (State.wake_awake awake)) quiet⟩
    rw [exec_eq, exec_eq, taken (parked park id) rfl]
    rfl
  · have request (hears : s.Hears id r) := State.effect_requestFrameOther hears bs
    have heard := State.Quiet.heard quiet r
    refine ⟨fun hears short => ?_, fun hears whole unknown => ?_, fun k hears whole known short => ?_, fun awake => ?_, fun awake role vehicle occupancy => ?_⟩
    · refine exec_settles ((request hears).trans ?_) heard
      unfold State.request
      rw [if_pos short]
    · have effect := request hears
      unfold State.request at effect
      rw [if_neg (by omega)] at effect
      dsimp only at effect
      rw [unknown] at effect
      obtain ⟨t, run, settles⟩ := exec_settles effect ((State.putAnswer_raised _ _ _).trans heard)
      obtain ⟨_, _, put⟩ := (s.heard r).putAnswer_get r _
      obtain ⟨_, answered⟩ := settles.answer put
      exact ⟨t, run, _, answered, rfl, rfl, rfl⟩
    · refine exec_settles ((request hears).trans ?_) (heard.refuse ..)
      unfold State.request
      rw [if_neg (by omega)]
      dsimp only
      rw [known]
      dsimp only
      rw [if_pos short]
    · exact exec_ignored (State.wake_awake awake) quiet
    · refine exec_ignored ?_ quiet
      show s.frameIn id bs (fun r t => t.request r bs) = s
      unfold State.frameIn
      rw [if_neg awake, role]
      simp only [if_neg vehicle, if_neg occupancy, ite_self]

end Sys2Proof
end

section
/-! Samples, limits, stray edges, the ends of DWELL, and cooling (2.2, 2.3, 2.5; 10.1), with the rules that later proofs about channels use. -/

namespace Sys2Proof
namespace Machine

/-! ## An effect and the work it raises -/

/-- What the work of an event can make of the state before an effect of the same kind. -/
theorem State.FollowsBut.concludes {u v : State} (h : State.FollowsBut noAxis (fun q => Task.padEntry q ∈ u.raised) u v) : u.Follows v.conclude :=
  (h.trans (v.conclude_but.mono (fun q hq => h.rest.entries q hq))).follows

/-- Work without a pad's entry is raised. -/
theorem State.emit_concludes (s : State) (l : List Task) (h : ∀ q : Pad, Task.padEntry q ∉ l := by simp) : s.Follows (s.emit l).conclude :=
  (s.emit_but l h).concludes

/-- A channel that has come to BRAKING or to DWELL stays as it is through the work of its event. -/
theorem State.Follows.at_rest {u t : State} (h : u.Follows t) {a : Axis} (rest : u.ac[a].motion = .braking ∨ u.ac[a].motion = .dwell) :
    u.ac[a].SameMove t.ac[a] := by
  rcases (h.ac a).moving (by rcases rest with e | e <;> rw [e] <;> decide) with same | ⟨stoppable, _⟩
  · exact same
  · rcases rest with e | e <;> rw [e] at stoppable <;> cases stoppable

/-! ## One channel replaced -/

/-- A state with one channel replaced. -/
def State.setChan (s : State) (a : Axis) (c : Channel) : State := { s with ac := s.ac.set a c }

theorem State.modChan_eq_setChan (s : State) (a : Axis) (f : Channel → Channel) : s.modChan a f = s.setChan a (f s.ac[a]) := rfl

theorem State.modMove_eq_setChan (s : State) (a : Axis) (f : Move → Move) : s.modMove a f = s.setChan a { s.ac[a] with move := s.ac[a].move.map f } := rfl

theorem State.setChan_get (s : State) (a b : Axis) (c : Channel) : (s.setChan a c).ac[b] = if b = a then c else s.ac[b] := Machine.setSlot_get ..

@[simp] theorem State.setChan_get_same (s : State) (a : Axis) (c : Channel) : (s.setChan a c).ac[a] = c := by rw [State.setChan_get, if_pos rfl]

theorem State.setChan_get_of_ne (s : State) {a b : Axis} (c : Channel) (h : b ≠ a) : (s.setChan a c).ac[b] = s.ac[b] := by rw [State.setChan_get, if_neg h]

theorem State.setChan_setChan (s : State) (a : Axis) (c d : Channel) : (s.setChan a c).setChan a d = s.setChan a d := by
  unfold State.setChan
  simp only [Vector.set_set]

@[simp] theorem State.setChan_modChan (s : State) (a : Axis) (c : Channel) (f : Channel → Channel) : (s.setChan a c).modChan a f = s.setChan a (f c) := by
  rw [State.modChan_eq_setChan, State.setChan_get_same, State.setChan_setChan]

@[simp] theorem State.setChan_modMove (s : State) (a : Axis) (c : Channel) (f : Move → Move) :
    (s.setChan a c).modMove a f = s.setChan a { c with move := c.move.map f } := State.setChan_modChan ..

/-- The change of a move's own data (R23). -/
theorem State.modMove_of_move {s : State} {a : Axis} {m : Move} (hm : s.ac[a].move = some m) (f : Move → Move) :
    s.modMove a f = s.setChan a { s.ac[a] with move := some (f m) } := by rw [State.modMove_eq_setChan, hm]; rfl

theorem State.setChan_quiet {s : State} (h : s.Quiet) (a : Axis) (c : Channel) : (s.setChan a c).Quiet := h

/-- A replaced channel within the bounds of what follows it. -/
theorem State.setChan_but {ok : Pad → Prop} (s : State) (a : Axis) (c : Channel) (h : s.ac[a].Loose c) :
    State.FollowsBut (fun b => b = a) ok s (s.setChan a c) := s.modChan_but a (fun _ => c) h

/-! ## BRAKING entry -/

/-- A channel in BRAKING with its pending outcome (R27, R28). -/
def Channel.brake (c : Channel) (code : Code) (pred : Option Nat) : Channel :=
  { c with
    motion := .braking
    hallTimer := .stopped
    restTimer := .start
    move := c.move.map (fun m =>
      { m with
        duty := 0
        brakePos := c.position
        inOffTime := false
        offTimer := .stopped
        sampleWaits := false
        pending := m.pending.or (some code)
        pendingPred := if m.pending.isSome then m.pendingPred else pred }) }

theorem State.enterBraking_chan (s : State) (a : Axis) (code : Code) (pred : Option Nat) :
    (s.enterBraking a code pred).ac[a] = s.ac[a].brake code pred := by
  unfold State.enterBraking
  simp only [State.emit_ac, State.freeLeg_ac, State.modHeat_ac, State.setGrant_ac, State.modChan_get, if_true]
  rfl

theorem State.enterBraking_other (s : State) {a b : Axis} (code : Code) (pred : Option Nat) (h : b ≠ a) : (s.enterBraking a code pred).ac[b] = s.ac[b] :=
  (s.enterBraking_only a code pred).ac b h

theorem Channel.brake_brakesWith {c : Channel} {m : Move} (hm : c.move = some m) (code : Code) (pred : Option Nat) :
    (c.brake code pred).BrakesWith m code c.position := by
  unfold Channel.brake
  rw [hm]
  exact ⟨rfl, _, rfl, rfl, rfl, rfl⟩

/-- What brakes goes on braking with its outcome when its move is handed to no job any more. -/
theorem Channel.BrakesWith.same {c d : Channel} {m : Move} {code : Code} {p : Nat} (h : c.BrakesWith m code p) (same : c.SameMove d) : d.BrakesWith m code p := by
  rcases same with rfl | rfl
  · exact h
  · obtain ⟨motion, n, hn, fields⟩ := h
    refine ⟨motion, { n with job := none }, ?_, fields⟩
    rw [hn]; rfl

/-- The same channel but for its move's job, whose other values stay. -/
theorem State.Follows.brakes {u t : State} (h : u.Follows t) {a : Axis} {m : Move} {code : Code} {p : Nat} (b : u.ac[a].BrakesWith m code p) :
    t.ac[a].BrakesWith m code p := b.same (h.at_rest (.inl b.1))

/-- A driving channel stopped in the same event. -/
theorem State.enterBraking_concludes {s : State} {a : Axis} (moving : s.ac[a].motion.stoppable = true) (code : Code) (pred : Option Nat) :
    s.Follows (s.enterBraking a code pred).conclude :=
  (State.FollowsBut.stopped (s.enterBraking_but a code pred) (s.enterBraking_only a code pred) moving (.inl (s.enterBraking_motion a code pred))).concludes

/-- A driving channel comes to BRAKING with its outcome, through the work of the event. -/
theorem State.enterBraking_brakes {s : State} {a : Axis} {m : Move} (hm : s.ac[a].move = some m) (code : Code) (pred : Option Nat) :
    (s.enterBraking a code pred).conclude.ac[a].BrakesWith m code s.ac[a].position := by
  refine (s.enterBraking a code pred).conclude_follows.brakes ?_
  rw [State.enterBraking_chan]
  exact Channel.brake_brakesWith hm code pred

/-! ## Samples -/

theorem State.addHeat_ac (s : State) (a : Axis) (i : Nat) : (s.addHeat a i).ac = s.ac := rfl

/-- The move after a sample has been counted (R23, R30). -/
def Move.counted (m : Move) (i : Nat) : Move :=
  { m with samples := m.samples + 1, lowCurrent := m.lowCurrent && decide (min 255 i < 5) }

/-- A sample counted, with its heat (R158). -/
def State.counted (s : State) (a : Axis) (i : Nat) (m : Move) : State :=
  { s with ac := s.ac.set a { s.ac[a] with move := some (m.counted i) }, tw := (s.addHeat a (min 255 i)).tw }

theorem State.counted_eq (s : State) (a : Axis) (i : Nat) (m : Move) :
    s.counted a i m = (s.addHeat a (min 255 i)).setChan a { s.ac[a] with move := some (m.counted i) } := rfl

/-- A sample goes on by the motion state (R21, R23). -/
theorem State.takeSample_starting {s : State} {a : Axis} {m : Move} (hm : s.ac[a].move = some m) (starting : s.ac[a].motion = .starting) (i : Nat) :
    s.takeSample a i = (s.counted a i m).startingSample a (m.counted i) := by
  have first : (s.addHeat a (min 255 i)).modMove a (fun m =>
      { m with samples := m.samples + 1, lowCurrent := m.lowCurrent && decide (min 255 i < Config.lowCurrentLimit) }) = s.counted a i m :=
    State.modMove_of_move (s := s.addHeat a (min 255 i)) hm _
  have chan : (s.counted a i m).ac[a] = { s.ac[a] with move := some (m.counted i) } := by rw [State.counted_eq, State.setChan_get_same]
  unfold State.takeSample
  dsimp only
  rw [first, chan]
  dsimp only
  rw [starting]

theorem State.takeSample_running {s : State} {a : Axis} {m : Move} (hm : s.ac[a].move = some m) (running : s.ac[a].motion = .running) (i : Nat) :
    s.takeSample a i = (s.counted a i m).runningSample a (m.counted i) (min 255 i) := by
  have first : (s.addHeat a (min 255 i)).modMove a (fun m =>
      { m with samples := m.samples + 1, lowCurrent := m.lowCurrent && decide (min 255 i < Config.lowCurrentLimit) }) = s.counted a i m :=
    State.modMove_of_move (s := s.addHeat a (min 255 i)) hm _
  have chan : (s.counted a i m).ac[a] = { s.ac[a] with move := some (m.counted i) } := by rw [State.counted_eq, State.setChan_get_same]
  unfold State.takeSample
  dsimp only
  rw [first, chan]
  dsimp only
  rw [running]

theorem State.startingSample_eq {s : State} {a : Axis} {c : Channel} {m : Move} (hm : c.move = some m) :
    (s.setChan a c).startingSample a m =
      let u := s.setChan a { c with
        move := some { m with duty := min m.runDuty (m.duty + m.rampStep) }
        hallTimer := if m.samples = 15 then .start else c.hallTimer }
      if min m.runDuty (m.duty + m.rampStep) = m.runDuty ∧ 15 ≤ m.samples then u.enterRunning a else u := by
  have blanking : Config.blankingSamples = 15 := rfl
  unfold State.startingSample
  rw [blanking]
  simp only [State.setChan_modMove, hm, Option.map_some, State.setChan_modChan]
  by_cases last : m.samples = 15
  · simp only [last, if_true]
  · simp only [last, if_false]

/-- RUNNING entry before its scan (R21, R52). -/
theorem State.enterRunning_eq (s : State) (a : Axis) : s.enterRunning a =
    ((s.setChan a { s.ac[a] with motion := .running }).setGrant a (s.da.grants[a].map (fun g =>
      { g with reservation := (s.driveAxis a).elim 0 DriveAxis.runRes }))).emit [.scan] := by
  have same : (s.modChan a (fun c => { c with motion := .running })).driveAxis a = s.driveAxis a := rfl
  unfold State.enterRunning
  dsimp only
  rw [same]
  cases s.driveAxis a <;> rfl

theorem State.runningSample_eq {s : State} {a : Axis} {c : Channel} {m : Move} (hm : c.move = some m) (i : Nat) :
    (s.setChan a c).runningSample a m i =
      let run := if m.kind ≠ .homing ∧ m.threshold < i then m.obstruction + 1 else 0
      let n : Move := { m with runSamples := m.runSamples + 1, runSum := m.runSum + i, obstruction := run }
      if 3 ≤ run then (s.setChan a { c with move := some n, obstruction := true }).enterBraking a .obstructed none
      else s.setChan a { c with move := some n } := by
  unfold State.runningSample
  simp only [State.setChan_modMove, hm, Option.map_some, State.setChan_modChan]

theorem State.sampleDue_waits {s : State} {a : Axis} {m : Move} (hm : s.ac[a].move = some m) (driving : s.ac[a].motion.driving = true)
    (off : m.inOffTime = true) (i : Nat) : s.sampleDue a i = s.setChan a { s.ac[a] with move := some { m with sampleWaits := true } } := by
  unfold State.sampleDue
  rw [hm]
  dsimp only
  refine (if_neg (by rw [driving]; decide)).trans ((if_pos off).trans (State.modMove_of_move hm _))

theorem Motion.driving_iff (m : Motion) : m.driving = true ↔ m = .starting ∨ m = .running := by cases m <;> decide

theorem State.sampleDue_still {s : State} {a : Axis} (still : s.ac[a].motion.driving = false) (i : Nat) : s.sampleDue a i = s := by
  unfold State.sampleDue
  split
  next => rfl
  next => rw [still]; rfl

end Machine

open Machine

/-- Settles O35: by the off time, the motion state, and whether ramp and blanking are over. -/
theorem startingSample : Obligations.StartingSample := by
  intro s a i m quiet hm n c u
  have effect : s.effect (.currentSample a i) = s.sampleDue a i := rfl
  refine ⟨_, exec_eq _ s, fun starting on short => ?_, fun starting on full ramped => ?_, fun driving off => ?_, fun h1 h2 => ?_⟩
  case refine_1 =>
    rw [effect, State.sampleDue_eq_takeSample i hm (Motion.driving_of (.inl starting)) on, State.takeSample_starting hm starting, State.counted_eq, State.startingSample_eq rfl]
    dsimp only
    rw [if_neg (fun h => absurd (short h.1) (Nat.not_lt.2 h.2))]
    exact State.conclude_settles (s := u) quiet
  case refine_2 =>
    rw [effect, State.sampleDue_eq_takeSample i hm (Motion.driving_of (.inl starting)) on, State.takeSample_starting hm starting, State.counted_eq, State.startingSample_eq rfl]
    dsimp only
    rw [if_pos ⟨full, ramped⟩, State.enterRunning_eq]
    refine ⟨_, ?_, ?_, fun g d hg hd => ?_, State.emit_concludes _ _⟩
    · rw [State.setChan_get_same, State.setChan_setChan]
      unfold State.setGrant State.setChan
      simp only [u, Vector.set_set]
      rfl
    · rfl
    · rw [State.setGrant_get, if_pos rfl]
      show Option.map (fun g : Grant => { g with reservation := (s.driveAxis a).elim 0 DriveAxis.runRes }) s.da.grants[a] = _
      rw [hg, hd]
      rfl
  case refine_3 =>
    rw [effect, State.sampleDue_waits hm ((Motion.driving_iff _).2 driving) off]
    exact State.conclude_settles (State.setChan_quiet quiet a _)
  case refine_4 =>
    rw [effect, State.sampleDue_still (by simpa [← Bool.not_eq_true, Motion.driving_iff] using ⟨h1, h2⟩)]
    exact State.conclude_settles quiet

/-- Settles O36: by the length of the obstruction run. -/
theorem runningSample : Obligations.RunningSample := by
  intro s a i m hm running on run n c
  have effect : s.effect (.currentSample a i) = (s.counted a i m).runningSample a (m.counted i) (min 255 i) := by
    rw [← State.takeSample_running hm running, ← State.sampleDue_eq_takeSample i hm (Motion.driving_of (.inr running)) on]
    rfl
  rw [State.counted_eq, State.runningSample_eq rfl] at effect
  dsimp only at effect
  change s.effect _ = if 3 ≤ run then _ else _ at effect
  rcases Nat.lt_or_ge run 3 with short | long
  case inl =>
    rw [if_neg (Nat.not_le.2 short)] at effect
    exact ⟨_, exec_eq _ s, fun _ quiet => effect ▸ State.conclude_settles quiet, fun h => absurd short (Nat.not_lt.2 h)⟩
  case inr =>
    rw [if_pos long] at effect
    refine ⟨_, exec_eq _ s, fun h => absurd h (Nat.not_lt.2 long), fun _ => ?_⟩
    rw [effect]
    generalize hu : State.setChan (s.addHeat a (min 255 i)) a _ = u
    have chan : u.ac[a] = { c with obstruction := true } := by rw [← hu]; exact State.setChan_get_same ..
    have moving : u.ac[a].motion.stoppable = true := by
      rw [chan]
      show s.ac[a].motion.stoppable = true
      rw [running]; rfl
    have follows := State.enterBraking_concludes moving .obstructed none
    have brakes := State.enterBraking_brakes (s := u) (a := a) (m := n) (congrArg Channel.move chan) .obstructed none
    rw [chan] at brakes
    refine ⟨hu ▸ follows, ?_, brakes⟩
    rw [(follows.ac a).flags.2.2, chan]

end Sys2Proof
end

section
/-! Limits, stray edges, the ends of DWELL, cooling, the Hall timeout and the common leg's overcurrent (2.2, 2.3, 2.5; 3.3; 10.1). -/

namespace Sys2Proof
namespace Machine

/-! ## Work that finds nothing to do -/

/-- A fold of which no step changes the state. -/
theorem State.each_same {α : Type} {s : State} {f : State → α → State} : ∀ {l : List α}, (∀ x ∈ l, f s x = s) → s.each l f = s
  | [], _ => rfl
  | x :: l, h => by
    have first : f s x = s := h x (.head _)
    show (f s x).each l f = s
    rw [first]
    exact State.each_same (fun y hy => h y (.tail _ hy))

/-- A scan with nothing waiting and no grant held decides nothing (R55, R168). -/
theorem State.scan_of_idle {s : State} (wait : s.da.wait = []) (held : ∀ a : Axis, s.heldGrant a = none) : s.scan = s := by
  have walk : s.scanHeld = s := State.each_same (fun a _ => by rw [held a])
  unfold State.scan
  dsimp only
  rw [walk, wait]
  rfl

/-- Work of a kind that finds nothing to do, and raises only work of its kind. -/
def State.Idles (s : State) (kind : Task → Prop) : Prop := ∀ t, kind t → ∃ l, (∀ u ∈ l, kind u) ∧ s.runTask t = s.emit l

theorem settle_of_idle {s : State} {kind : Task → Prop} (quiet : s.Quiet) (idle : s.Idles kind) : ∀ (n : Nat) (l : List Task), (∀ t ∈ l, kind t) →
    ∃ m, settle n { s with raised := l } = { s with raised := m }
  | 0, l, _ => ⟨l, rfl⟩
  | n + 1, [], _ => ⟨[], rfl⟩
  | n + 1, t :: l, all => by
    have same : { s with raised := [] } = s := by rw [← quiet]
    have done : ∃ m, ({ s with raised := t :: l }).settleOnce t l = { s with raised := m } ∧ ∀ u ∈ m, kind u := by
      unfold State.settleOnce
      split
      next => exact ⟨l, rfl, fun u hu => all u (.tail _ hu)⟩
      next =>
        obtain ⟨more, kinds, run⟩ := idle t (all t (.head _))
        refine ⟨more ++ l, ?_, fun u hu => (List.mem_append.1 hu).elim (kinds u) (fun h => all u (.tail _ h))⟩
        show ({ ({ s with raised := [] } : State).runTask t with raised := (({ s with raised := [] } : State).runTask t).raised ++ l } : State) = _
        rw [same, run]
        show ({ s with raised := (s.raised ++ more) ++ l } : State) = _
        rw [quiet]
        rfl
    obtain ⟨m, step, kinds⟩ := done
    show ∃ k, settle n (({ s with raised := t :: l }).settleOnce t l) = { s with raised := k }
    rw [step]
    exact settle_of_idle quiet idle n m kinds

/-- Raised work that finds nothing to do leaves the state to end its event as it is. -/
theorem State.conclude_of_idle {s : State} {kind : Task → Prop} (quiet : s.Quiet) (idle : s.Idles kind) {l : List Task} (all : ∀ t ∈ l, kind t) :
    (s.emit l).conclude = s.conclude := by
  have work : s.emit l = { s with raised := l } := by
    show { s with raised := s.raised ++ l } = _
    rw [quiet]; rfl
  have settled : (s.emit l).settled = s.settled := by
    obtain ⟨m, done⟩ := settle_of_idle quiet idle Config.settleFuel l all
    unfold State.settled
    rw [work, done, settle_quiet quiet]
  unfold State.conclude
  rw [settled]

/-! ## One channel's events -/

/-- An operation on one axis that stops it, through the work of its event. -/
theorem State.stops_concludes {u v : State} {a : Axis} (h : State.FollowsBut (fun b => b = a) (fun q => Task.padEntry q ∈ u.raised) u v) (only : State.OnlyAt a u v)
    (moving : u.ac[a].motion.stoppable = true) (stopped : v.ac[a].motion = .braking ∨ v.ac[a].motion = .dwell) : u.Follows v.conclude :=
  (State.FollowsBut.stopped h only moving stopped).concludes

/-- What an operation on one axis does to the other channels, through the work of its event. -/
theorem State.OnlyAt.others {u v : State} {a : Axis} (only : State.OnlyAt a u v) (b : Axis) (h : b ≠ a) : u.ac[b].Follows v.conclude.ac[b] :=
  only.ac b h ▸ v.conclude_follows.ac b

theorem State.limitEvent_eq {s : State} {a : Axis} {m : Move} (hm : s.ac[a].move = some m) (driving : s.ac[a].motion.driving = true) (on : m.inOffTime = false) :
    s.limitEvent a =
      if m.limitEvents < 5 then
        s.setChan a { s.ac[a] with limitSeen := true, move := some { m with limitEvents := m.limitEvents + 1, inOffTime := true, offTimer := .start } }
      else
        (s.setChan a { s.ac[a] with
          limitSeen := true, overcurrent := true, lockedOut := true, move := some { m with limitEvents := m.limitEvents + 1 } }).enterBraking a .overcurrent none := by
  unfold State.limitEvent
  rw [hm]
  dsimp only
  rw [if_neg (by rw [driving, on]; decide), State.modChan_eq_setChan]
  simp only [State.setChan_modMove, State.setChan_modChan, hm, Option.map_some]
  by_cases few : m.limitEvents < 5
  · rw [if_pos few, if_pos (by omega)]
  · rw [if_neg few, if_neg (by omega)]

/-- A move after the end of its off time (R33). -/
theorem State.offTimeOver_eq {s : State} {a : Axis} {m : Move} (hm : s.ac[a].move = some m) (driving : s.ac[a].motion.driving = true) (off : m.inOffTime = true)
    (i : Nat) : s.offTimeOver a i =
      let u := s.setChan a { s.ac[a] with move := some { m with inOffTime := false, offTimer := .stopped, sampleWaits := false } }
      if m.sampleWaits then u.takeSample a i else u := by
  unfold State.offTimeOver
  rw [hm]
  dsimp only
  rw [if_neg (by rw [driving, off]; decide), State.modMove_of_move hm]

/-- A component written back leaves the vector. -/
theorem setSlot_self {α : Type} {n : Nat} (v : Vector α n) (j : Fin n) : v.set j v[j] = v := Vector.set_getElem_self ..

theorem State.strayEdge_eq (s : State) (a : Axis) : s.strayEdge a = { s with
    ac := s.ac.set a { s.ac[a] with stray := min 255 (s.ac[a].stray + 1) }
    validity := if s.ac[a].stray = 3 ∧ s.validity[a] = .valid then s.validity.set a .unverified else s.validity } := by
  have limit : (s.ac[a].stray + 1 = Config.strayLimit) ↔ s.ac[a].stray = 3 := by unfold Config.strayLimit; omega
  unfold State.strayEdge
  simp only [limit]
  by_cases last : s.ac[a].stray = 3
  · rw [if_pos last]
    have lower : Validity.lower s.validity[a] .unverified = if s.validity[a] = .valid then .unverified else s.validity[a] := by
      cases s.validity[a] <;> rfl
    show State.setValidity _ a (Validity.lower s.validity[a] .unverified) = _
    rw [lower]
    by_cases valid : s.validity[a] = .valid
    · rw [if_pos valid, if_pos ⟨last, valid⟩]
      rfl
    · rw [if_neg valid, if_neg (fun h => valid h.2)]
      show { s.modChan a _ with validity := s.validity.set a s.validity[a] } = _
      rw [setSlot_self]
      rfl
  · rw [if_neg last]
    simp only [last, false_and, if_false]
    rfl

theorem State.hallTimeout_eq {s : State} {a : Axis} {m : Move} (hm : s.ac[a].move = some m) (driving : s.ac[a].motion.driving = true)
    (timing : s.ac[a].hallTimer.running = true) : s.hallTimeout a =
      if m.lowCurrent then (s.setChan a { s.ac[a] with lockedOut := true }).enterBraking a .motorOpen none
      else if m.kind = .homing then ((s.enterBraking a .done none).modChan a (fun c => { c with position := s.homePosition a })).sensorTest a
      else (s.setChan a s.ac[a].stalled).enterBraking a .stalled none := by
  unfold State.hallTimeout
  rw [hm]
  dsimp only
  rw [if_neg (by rw [driving, timing]; decide)]
  rfl

theorem State.hallTimeout_only (s : State) (a : Axis) : State.OnlyAt a s (s.hallTimeout a) := by
  unfold State.hallTimeout
  split
  next => exact .refl a s
  next =>
    split
    next => exact .refl a s
    next =>
      split
      next => exact (State.OnlyAt.modChan s a _).trans (State.enterBraking_only ..)
      next =>
        split
        next => exact ((State.enterBraking_only ..).trans (.modChan _ a _)).trans (State.sensorTest_only ..)
        next => exact (State.OnlyAt.modChan s a _).trans (State.enterBraking_only ..)

/-- What the sensor-fault test makes of a channel that does not drive (R36, R71). -/
theorem State.sensorTest_still {s : State} {a : Axis} (still : s.ac[a].motion.driving = false) :
    (s.sensorTest a).ac[a] = s.ac[a] ∨ (s.sensorTest a).ac[a] = { s.ac[a] with lockedOut := true } := by
  unfold State.sensorTest
  split
  next => exact .inl rfl
  next l _ =>
    split
    next =>
      have chan : (((s.modLatch l (fun x => { x with state := .unknown, sensorFault := true, firstReading := false })).modChan a
          (fun c => { c with lockedOut := true })).demote a .unverified).ac[a] = { s.ac[a] with lockedOut := true } := by
        rw [State.demote_ac, State.modChan_get, if_pos rfl]
        rfl
      dsimp only
      rw [chan, if_neg (by show ¬ s.ac[a].motion.driving = true; rw [still]; decide), chan]
      exact .inr rfl
    next => exact .inl rfl

/-- A channel that is the same but for its move's job is the same in every other field. -/
theorem Channel.SameMove.but_move {c d : Channel} (h : c.SameMove d) : d = { c with move := d.move } := by
  rcases h with rfl | rfl <;> rfl

/-- A channel replaced and then stopped, at the end of its event. -/
theorem State.setChan_stops (s : State) (a : Axis) {c : Channel} {m : Move} (hm : c.move = some m) (code : Code) (pred : Option Nat) :
    ((s.setChan a c).enterBraking a code pred).conclude.ac[a].BrakesWith m code c.position
      ∧ (c.brake code pred).SameMove ((s.setChan a c).enterBraking a code pred).conclude.ac[a] := by
  have chan : (s.setChan a c).ac[a] = c := State.setChan_get_same ..
  have brakes := State.enterBraking_brakes (s := s.setChan a c) (a := a) (chan ▸ hm) code pred
  have rests := ((s.setChan a c).enterBraking a code pred).conclude_follows.at_rest (.inl (State.enterBraking_motion ..))
  rw [State.enterBraking_chan] at rests
  rw [chan] at brakes rests
  exact ⟨brakes, rests⟩

/-! ## Stops of several axes in one event -/

theorem State.stopAxis_of_still {s : State} {a : Axis} (still : s.ac[a].motion.stoppable = false) (code : Code) (pred : Option Nat) :
    s.stopAxis a code pred = s := if_neg (by rw [still]; decide)

/-- A stop request to a driving channel brakes it (R27, R33). -/
theorem State.stopAxis_of_driving {s : State} {a : Axis} (driving : s.ac[a].motion.driving = true) (code : Code) (pred : Option Nat) :
    s.stopAxis a code pred = (if code = .overcurrent then s.modChan a (fun c => { c with overcurrent := true }) else s).enterBraking a code pred := by
  have motion : (if code = .overcurrent then s.modChan a (fun c => { c with overcurrent := true }) else s).ac[a].motion = s.ac[a].motion := by
    split
    next => rw [State.modChan_get, if_pos rfl]
    next => rfl
  refine (if_pos (Motion.stoppable_of_driving driving)).trans (if_neg (fun e => ?_))
  rw [motion] at e
  rw [e] at driving
  cases driving

/-- A driving channel that receives a stop request (R27, R33). -/
theorem State.stopAxis_driving {s : State} {a : Axis} (driving : s.ac[a].motion.driving = true) (code : Code) (pred : Option Nat) :
    (s.stopAxis a code pred).ac[a] = (if code = .overcurrent then { s.ac[a] with overcurrent := true } else s.ac[a]).brake code pred := by
  rw [State.stopAxis_of_driving driving, State.enterBraking_chan]
  split
  next => rw [State.modChan_get, if_pos rfl]
  next => rfl

/-- OVERCURRENT sets the overcurrent flag of the channel whose move it ends (R33). -/
theorem State.stopAxis_overcurrent {s : State} {a : Axis} (moving : s.ac[a].motion.stoppable = true) (pred : Option Nat) :
    (s.stopAxis a .overcurrent pred).ac[a].overcurrent = true := by
  have chan : (s.modChan a (fun c => { c with overcurrent := true })).ac[a].overcurrent = true := by
    rw [State.modChan_get, if_pos rfl]
  unfold State.stopAxis
  rw [if_pos moving, if_pos rfl]
  dsimp only
  split
  next =>
    refine (State.FollowsBut.loose (ok := fun _ => True) (p := fun b => b = a) ?_ a).overcurrent chan
    exact ((State.dropSolenoid_but (p := fun b => b = a) _ _ rfl).trans (State.modMove_but _ a _)).trans (State.enterDwell_but _ _)
  next => exact ((State.enterBraking_but (ok := fun _ => True) _ a .overcurrent pred).loose a).overcurrent chan

/-- Stop requests to a list of axes: each stops by itself, in whatever order they come (R27, R50). -/
theorem State.stops_get (code : Code) (pred : Option Nat) : ∀ (l : List Axis) (s : State) (a : Axis),
    (a ∈ l → ∃ v : State, v.ac[a] = s.ac[a] ∧ (s.each l (fun t b => t.stopAxis b code pred)).ac[a] = (v.stopAxis a code pred).ac[a])
      ∧ (a ∉ l → (s.each l (fun t b => t.stopAxis b code pred)).ac[a] = s.ac[a])
  | [], s, a => ⟨fun h => absurd h List.not_mem_nil, fun _ => rfl⟩
  | b :: l, s, a => by
    have ih := State.stops_get code pred l (s.stopAxis b code pred) a
    refine ⟨fun h => ?_, fun h => ?_⟩
    · by_cases later : a ∈ l
      · obtain ⟨v, hv, run⟩ := ih.1 later
        by_cases e : a = b
        · subst e
          have still : v.ac[a].motion.stoppable = false := hv ▸ State.stopAxis_stops s a code pred
          exact ⟨s, rfl, run.trans ((congrArg (fun w : State => w.ac[a]) (State.stopAxis_of_still still code pred)).trans hv)⟩
        · exact ⟨v, hv.trans (State.stopAxis_only s b code pred |>.ac a e), run⟩
      · have e : a = b := (List.mem_cons.1 h).resolve_right later
        subst e
        exact ⟨s, rfl, ih.2 later⟩
    · obtain ⟨e, later⟩ := not_or.1 (fun x => h (List.mem_cons.2 x))
      exact (ih.2 later).trans ((State.stopAxis_only s b code pred).ac a e)

end Machine

open Machine

/-- Settles O37: by the count of limit events, and by whether a sample waited. -/
theorem limitEvents : Obligations.LimitEvents := by
  intro s a i m quiet hm driven
  have driving := Motion.driving_of driven
  refine ⟨fun on => ?_, fun off none => ?_, fun off waits => ?_⟩
  · have effect : s.effect (.currentLimitEvent a) = s.limitEvent a := rfl
    rw [State.limitEvent_eq hm driving on] at effect
    refine ⟨_, exec_eq _ s, fun few => ?_, fun many => ?_⟩
    · rw [effect, if_pos few]
      exact State.conclude_settles quiet
    · rw [effect, if_neg (Nat.not_lt.2 many)]
      generalize hv : State.setChan s a _ = v
      generalize hu : ({ s with ac := _ } : State) = u
      have chan : v.ac[a] = { s.ac[a] with
          limitSeen := true, overcurrent := true, lockedOut := true, move := some { m with limitEvents := m.limitEvents + 1 } } := by
        rw [← hv]; exact State.setChan_get_same ..
      have before : v = u.modMove a (fun x => { x with limitEvents := m.limitEvents + 1 }) := by
        rw [← hu, ← hv]
        exact ((State.setChan_modMove s a _ _).trans (by rw [hm]; rfl)).symm
      have own : u.ac[a] = { s.ac[a] with limitSeen := true, overcurrent := true, lockedOut := true } := by
        rw [← hu]; exact State.setChan_get_same ..
      have motion : u.ac[a].motion.stoppable = true := by
        rw [own]; exact Motion.stoppable_of_driving driving
      have brakes := State.enterBraking_brakes (s := v) (congrArg Channel.move chan) .overcurrent none
      have follows : u.Follows (v.enterBraking a .overcurrent none).conclude := by
        rw [before]
        exact State.stops_concludes ((u.modMove_but a _).trans (State.enterBraking_but ..)) ((State.OnlyAt.modChan u a _).trans (State.enterBraking_only ..))
          motion (.inl (State.enterBraking_motion ..))
      rw [chan] at brakes
      exact ⟨follows, (follows.ac a).flags.1.trans (congrArg Channel.limitSeen own), (follows.ac a).overcurrent (congrArg Channel.overcurrent own),
        (follows.ac a).lockedOut (congrArg Channel.lockedOut own), brakes⟩
  · have effect : s.effect (.offTimeEnd a i) = s.offTimeOver a i := rfl
    rw [State.offTimeOver_eq hm driving off, if_neg (by rw [none]; decide)] at effect
    refine ⟨_, exec_eq _ s, ?_⟩
    rw [effect, ← none]
    exact State.conclude_settles quiet
  · have effect : s.effect (.offTimeEnd a i) = s.offTimeOver a i := rfl
    rw [State.offTimeOver_eq hm driving off, if_pos waits] at effect
    rw [exec_eq, exec_eq, effect]
    generalize hu : ({ s with ac := _ } : State) = u
    have same : s.setChan a { s.ac[a] with move := some { m with inOffTime := false, offTimer := .stopped, sampleWaits := false } } = u := hu
    have chan : u.ac[a] = { s.ac[a] with move := some { m with inOffTime := false, offTimer := .stopped, sampleWaits := false } } := by
      rw [← same]; exact State.setChan_get_same ..
    have again : u.effect (.currentSample a i) = u.takeSample a i :=
      State.sampleDue_eq_takeSample i (congrArg Channel.move chan) ((congrArg (fun c => c.motion.driving) chan).trans driving) rfl
    rw [again, same]

/-- Settles O38: in PARK no edge is seen, and at rest with the solenoid off each one is stray. -/
theorem strayEdges : Obligations.StrayEdges := by
  intro s a gap quiet
  have effect : s.effect (.hallEdge a gap) = s.hallEdge a gap := rfl
  refine ⟨fun park => ⟨_, exec_eq _ s, ?_⟩, fun awake idle off => ⟨_, exec_eq _ s, ?_⟩⟩
  · rw [effect, State.hallEdge, if_pos park]
    exact State.conclude_settles quiet
  · rw [effect, State.hallEdge, if_neg awake, if_pos (c := (s.ac[a].motion = .idle && !(s.solenoidDriven a)) = true) (by rw [idle, off]; decide), State.strayEdge_eq]
    exact State.conclude_settles quiet

/-- Settles O45: DWELL gives way to IDLE, and a scan with nothing to decide decides nothing. -/
theorem dwellEnds : Obligations.DwellEnds := by
  intro s a dwell u
  have effect : s.effect (.dwellExpiry a) = u.emit [.scan] := if_pos dwell
  refine ⟨_, exec_eq _ s, ?_, fun quiet wait held => ?_⟩
  · rw [effect]
    exact State.emit_concludes u _
  · have idle : u.Idles (fun t => t = .scan) := by
      rintro _ rfl
      refine ⟨[], fun _ m => (by cases m), ?_⟩
      show u.scan = u.emit []
      rw [State.scan_of_idle (s := u) wait held]
      unfold State.emit
      rw [List.append_nil]
    rw [effect, State.conclude_of_idle (s := u) quiet idle (l := [.scan]) (fun _ m => List.mem_singleton.1 m)]
    exact State.conclude_settles quiet

/-- Settles O46: the step's heat, with HOT and ESTIMATED against their levels. -/
theorem coolingSteps : Obligations.CoolingSteps := by
  intro s a quiet running h
  have cool : s.estimatedAfter h s.tw[a].estimated = (s.tw[a].estimated && decide (s.heatResume / 2 < h)) := by
    unfold State.estimatedAfter
    rw [← decide_not]
    simp only [Nat.not_le]
  have effect : s.effect (.coolingStep a) = { s with tw := s.tw.set a { s.tw[a] with
      heat := h
      cooling := .start
      hot := if s.heatLimit ≤ h then true else if h ≤ s.heatResume then false else s.tw[a].hot
      estimated := s.tw[a].estimated && decide (s.heatResume / 2 < h) } } := by
    rw [← cool]
    exact if_pos running
  refine ⟨_, exec_eq _ s, ?_⟩
  rw [effect]
  exact State.conclude_settles quiet

/-- Settles O41: by the current seen so far and by the kind of the move. -/
theorem hallTimeouts : Obligations.HallTimeouts := by
  intro s a m hm driven timing
  have driving := Motion.driving_of driven
  have moving := Motion.stoppable_of_driving driving
  have effect : s.effect (.hallTimeout a) = s.hallTimeout a := rfl
  have others := fun b hb => (s.hallTimeout_only a).others b hb
  refine ⟨_, exec_eq _ s, fun low => ?_, fun reached other => ?_, fun reached homing => ?_, others⟩
  · have same : s.hallTimeout a = (s.setChan a { s.ac[a] with lockedOut := true }).enterBraking a .motorOpen none := by
      rw [State.hallTimeout_eq hm driving timing, if_pos low]
    rw [effect, same]
    have own : (s.setChan a { s.ac[a] with lockedOut := true }).ac[a] = { s.ac[a] with lockedOut := true } := State.setChan_get_same ..
    have follows := State.enterBraking_concludes (s := s.setChan a { s.ac[a] with lockedOut := true }) (a := a)
      ((congrArg (fun c => c.motion.stoppable) own).trans moving) .motorOpen none
    obtain ⟨brakes, _⟩ := s.setChan_stops a (c := { s.ac[a] with lockedOut := true }) hm .motorOpen none
    exact ⟨follows, (follows.ac a).lockedOut (congrArg Channel.lockedOut own), brakes⟩
  · have same : s.hallTimeout a = (s.setChan a s.ac[a].stalled).enterBraking a .stalled none := by
      rw [State.hallTimeout_eq hm driving timing, if_neg (by rw [reached]; decide), if_neg other]
    rw [effect, same]
    obtain ⟨brakes, rests⟩ := s.setChan_stops a (c := s.ac[a].stalled) hm .stalled none
    have third : decide (3 ≤ s.ac[a].streak + 1) = decide (2 ≤ s.ac[a].streak) := decide_eq_decide.2 (by omega)
    refine ⟨brakes, ?_⟩
    rw [rests.but_move]
    exact ⟨rfl, rfl, by rw [← third]; rfl, rfl, rfl, rfl⟩
  · have same : s.hallTimeout a = ((s.enterBraking a .done none).modChan a (fun c => { c with position := s.homePosition a })).sensorTest a := by
      rw [State.hallTimeout_eq hm driving timing, if_neg (by rw [reached]; decide), if_pos homing]
    rw [effect, same]
    generalize hv : (s.enterBraking a .done none).modChan a (fun c => { c with position := s.homePosition a }) = v
    have chan : v.ac[a] = { s.ac[a].brake .done none with position := s.homePosition a } := by
      rw [← hv, State.modChan_get, if_pos rfl, State.enterBraking_chan]
    have tested : (v.sensorTest a).ac[a] = { s.ac[a].brake .done none with position := s.homePosition a, lockedOut := (v.sensorTest a).ac[a].lockedOut } := by
      rcases State.sensorTest_still (s := v) (a := a) (chan ▸ rfl) with e | e <;> rw [e, chan]
    have rests := (v.sensorTest a).conclude_follows.at_rest (a := a) (.inl (by rw [tested]; rfl))
    have brakes : (v.sensorTest a).ac[a].BrakesWith m .done s.ac[a].position := by
      rw [tested]
      obtain ⟨motion, fields⟩ := Channel.brake_brakesWith hm .done none
      exact ⟨motion, fields⟩
    refine ⟨brakes.same rests, fun d hd range => ?_, ?_, ?_⟩
    · have home : s.homePosition a = d.homeRef := by
        unfold State.homePosition
        rw [hd]
        exact if_pos range
      rw [rests.but_move, tested]
      exact home
    · rw [rests.but_move, tested]; rfl
    · rw [rests.but_move, tested]; rfl

/-- Settles O42: the members that drive or release stop one after another, each by itself. -/
theorem legOvercurrent : Obligations.LegOvercurrent := by
  intro s l awake common
  have effect : s.effect (.commonLegOvercurrent l) = s.legOvercurrent l := rfl
  refine ⟨_, exec_eq _ s, fun sound => ?_, fun fault quiet => ?_⟩
  · rw [effect]
    generalize hu : ({ s with da := { s.da with legFault := s.da.legFault.set l true } } : State) = u
    have same : s.legOvercurrent l = (u.shuffled (u.legDrivers l)).2.each (u.shuffled (u.legDrivers l)).1 (fun t a => t.stopAxis a .overcurrent none) := by
      rw [← hu]
      exact if_neg (by rw [common, sound]; simpa using awake)
    have follows : u.Follows (s.legOvercurrent l).conclude := by
      rw [same]
      exact ((State.shuffled_but ..).trans (State.each_but _ _ _ (fun t b _ => t.stopAxis_but b _ _))).concludes
    refine ⟨follows, fun a m leg hm => ?_⟩
    have chan : u.ac[a] = s.ac[a] := by rw [← hu]
    have grant : u.grantLeg a = some l := by rw [← hu]; exact leg
    have drops (moving : s.ac[a].motion.stoppable = true) : ∃ v : State, v.ac[a] = s.ac[a] ∧ (s.legOvercurrent l).ac[a] = (v.stopAxis a .overcurrent none).ac[a] := by
      rw [same]
      have listed : a ∈ (u.shuffled (u.legDrivers l)).1 := by
        rw [State.mem_shuffled, State.legDrivers, List.mem_filter, grant, chan, moving]
        simp
      obtain ⟨v, hv, run⟩ := (State.stops_get .overcurrent none (u.shuffled (u.legDrivers l)).1 (u.shuffled (u.legDrivers l)).2 a).1 listed
      exact ⟨v, hv.trans chan, run⟩
    refine ⟨fun moving => ?_, fun driving => ?_⟩
    · obtain ⟨v, hv, run⟩ := drops moving
      have stops := State.stopAxis_motion v a .overcurrent none (hv ▸ moving)
      have flag := State.stopAxis_overcurrent (s := v) (a := a) (hv ▸ moving) none
      rw [← run] at stops flag
      have rests := (s.legOvercurrent l).conclude_follows.at_rest stops
      rw [rests.but_move]
      exact ⟨flag, stops⟩
    · obtain ⟨v, hv, run⟩ := drops (Motion.stoppable_of_driving driving)
      have brake := State.stopAxis_driving (s := v) (a := a) (hv ▸ driving) .overcurrent none
      rw [hv, ← run] at brake
      have rests := (s.legOvercurrent l).conclude_follows.at_rest (a := a) (.inl (by rw [brake]; rfl))
      have brakes : (s.legOvercurrent l).ac[a].BrakesWith m .overcurrent s.ac[a].position := by
        rw [brake]
        exact Channel.brake_brakesWith (c := { s.ac[a] with overcurrent := true }) hm .overcurrent none
      refine ⟨brakes.same rests, ?_⟩
      rw [rests.but_move, brake]; rfl
  · have same : s.legOvercurrent l = s := if_pos (by rw [fault]; simp)
    rw [effect, same]
    exact State.conclude_settles quiet

end Sys2Proof
end

section
/-! The sensor-fault test and DWELL entry, counted edges and the end of BRAKING (2.3, 2.4, 2.5; 4.4). -/

namespace Sys2Proof
namespace Machine

/-! ## The sensor-fault test (R71) -/

theorem State.latch_eq {s : State} {a : Axis} {l : LatchNo} (hl : axisOfLatch l = a) : s.latch a = some s.lc[l] := by
  unfold State.latch
  rw [latchOf_eq_some_iff.2 hl]
  rfl

theorem State.latch_none {s : State} {a : Axis} (h : latchOf a = none) : s.latch a = none := by
  unfold State.latch
  rw [h]
  rfl

/-- The condition of a sensor fault, for the axis of a latch (R63, R71). -/
theorem State.sensorFaulty_iff {s : State} {a : Axis} {l : LatchNo} (hl : axisOfLatch l = a) : s.sensorFaulty a = true ↔
    s.lc[l].state = .locked ∧ s.lc[l].sensorFault = false ∧ s.validity[a] = .valid ∧ s.st.drive.isSome = true ∧ s.ac[a].motion ≠ .releasing
      ∧ s.lockWindow a s.ac[a].position = none := by
  unfold State.sensorFaulty
  rw [State.latch_eq hl]
  simp only [Bool.and_eq_true, beq_iff_eq, Bool.not_eq_true', bne_iff_ne, Option.isNone_iff_eq_none, and_assoc]

theorem State.sensorFaulty_latch {s : State} {a : Axis} (h : s.sensorFaulty a = true) : ∃ l, axisOfLatch l = a := by
  cases hl : latchOf a with
  | some l => exact ⟨l, latchOf_eq_some_iff.1 hl⟩
  | none =>
    unfold State.sensorFaulty at h
    rw [State.latch_none hl] at h
    cases h

/-- What a sensor fault does to the latch and its axis (R36, R71). -/
def State.faulted (s : State) (a : Axis) (l : LatchNo) : State :=
  ((s.modLatch l (fun x => { x with state := .unknown, sensorFault := true, firstReading := false })).modChan a
    (fun c => { c with lockedOut := true })).setValidity a .unverified

theorem State.sensorTest_sound_eq {s : State} {a : Axis} (h : s.sensorFaulty a = false) : s.sensorTest a = s := by
  unfold State.sensorTest
  split
  next => rfl
  next => rw [if_neg (by rw [h]; decide)]

theorem State.faulted_chan (s : State) (a : Axis) (l : LatchNo) : (s.faulted a l).ac[a] = { s.ac[a] with lockedOut := true } := by
  show (s.modChan a (fun c => { c with lockedOut := true })).ac[a] = _
  rw [State.modChan_get, if_pos rfl]

theorem State.sensorTest_faulty_eq {s : State} {a : Axis} {l : LatchNo} (hl : axisOfLatch l = a) (h : s.sensorFaulty a = true) :
    s.sensorTest a = if s.ac[a].motion.driving then (s.faulted a l).enterBraking a .lockedOut none else s.faulted a l := by
  have valid : s.validity[a] = .valid := ((State.sensorFaulty_iff hl).1 h).2.2.1
  have start : ((s.modLatch l (fun x => { x with state := .unknown, sensorFault := true, firstReading := false })).modChan a
      (fun c => { c with lockedOut := true })).demote a .unverified = s.faulted a l := by
    show State.setValidity _ a (Validity.lower s.validity[a] .unverified) = _
    rw [valid]
    rfl
  have motion : (s.faulted a l).ac[a].motion.driving = s.ac[a].motion.driving := by rw [State.faulted_chan]
  unfold State.sensorTest
  rw [latchOf_eq_some_iff.2 hl]
  dsimp only
  rw [if_pos h, start, motion]

/-- The test on a channel that does not drive leaves the arbiter, the jobs and the work as they are. -/
theorem State.sensorTest_quiet {s : State} {a : Axis} (still : s.ac[a].motion.driving = false) :
    (s.sensorTest a).da = s.da ∧ (s.sensorTest a).raised = s.raised ∧ (s.sensorTest a).tw = s.tw ∧ (s.sensorTest a).st = s.st := by
  cases h : s.sensorFaulty a with
  | false => rw [State.sensorTest_sound_eq h]; exact ⟨rfl, rfl, rfl, rfl⟩
  | true =>
    obtain ⟨l, hl⟩ := State.sensorFaulty_latch h
    rw [State.sensorTest_faulty_eq hl h, if_neg (by rw [still]; decide)]
    exact ⟨rfl, rfl, rfl, rfl⟩

theorem State.sensorTest_validity {s : State} {a : Axis} (still : s.ac[a].motion.driving = false) :
    (s.sensorTest a).validity[a] = if s.sensorFaulty a = true then .unverified else s.validity[a] := by
  cases h : s.sensorFaulty a with
  | false => rw [State.sensorTest_sound_eq h]; rfl
  | true =>
    obtain ⟨l, hl⟩ := State.sensorFaulty_latch h
    rw [State.sensorTest_faulty_eq hl h, if_neg (by rw [still]; decide), if_pos rfl]
    exact (State.setValidity_get ..).trans (if_pos rfl)

/-! ## DWELL entry (R39) -/

/-- DWELL entry up to the sensor-fault test. -/
def State.dwelled (s : State) (a : Axis) (m : Move) : State :=
  let s1 := s.modChan a (fun c => c.endMove m)
  let s2 := if m.kind = .homing ∧ m.pending.getD .done = .done then s1.setValidity a .valid else s1
  let s3 := s2.modHeat a (fun t =>
    { t with
      moves := if m.clean (m.pending.getD .done) then min Config.maxMoves (t.moves + 1) else t.moves
      cooling := if s.ac[a].motion == .releasing then .start else t.cooling })
  ((s3.setGrant a none).freeLeg (s.grantLeg a)).openRelock a m.job

theorem State.enterDwell_eq {s : State} {a : Axis} {m : Move} (hm : s.ac[a].move = some m) :
    s.enterDwell a = ((s.dwelled a m).sensorTest a).emit (((s.dwelled a m).sensorTest a).ac[a].moveEnd a ++ s.claimCheck a ++ [.scan, .retest]) := by
  unfold State.enterDwell
  rw [hm]
  rfl

theorem State.openRelock_same (s : State) (a : Axis) (job : Option Slot) : s.openRelock a job = { s with lc := (s.openRelock a job).lc } := by
  unfold State.openRelock
  split
  next => rfl
  next =>
    split
    next => rfl
    next => rfl

theorem State.openRelock_latch (s : State) (a : Axis) (job : Option Slot) (l : LatchNo) :
    (s.openRelock a job).lc[l].state = s.lc[l].state ∧ (s.openRelock a job).lc[l].sensorFault = s.lc[l].sensorFault := by
  unfold State.openRelock
  split
  next => exact ⟨rfl, rfl⟩
  next k _ =>
    split
    next =>
      rw [State.modLatch_get]
      split
      next e => subst e; exact ⟨rfl, rfl⟩
      next => exact ⟨rfl, rfl⟩
    next => exact ⟨rfl, rfl⟩

theorem State.freeLeg_same (s : State) (l : Option Leg) : s.freeLeg l = { s with da := { s.da with legs := (s.freeLeg l).da.legs } } := by
  unfold State.freeLeg
  split
  next =>
    split
    next => rfl
    next => rfl
  next => rfl

/-- What DWELL entry up to the sensor-fault test makes of each block. -/
theorem State.dwelled_same (s : State) (a : Axis) (m : Move) : s.dwelled a m = { s with
    ac := s.ac.set a (s.ac[a].endMove m)
    validity := if m.kind = .homing ∧ m.pending.getD .done = .done then s.validity.set a .valid else s.validity
    tw := s.tw.set a { s.tw[a] with
      moves := if m.clean (m.pending.getD .done) then min Config.maxMoves (s.tw[a].moves + 1) else s.tw[a].moves
      cooling := if s.ac[a].motion == .releasing then .start else s.tw[a].cooling }
    da := { s.da with grants := s.da.grants.set a none, legs := (s.dwelled a m).da.legs }
    lc := (s.dwelled a m).lc } := by
  unfold State.dwelled
  dsimp only
  split
  next home =>
    generalize hv : State.setGrant _ a none = v
    rw [State.openRelock_same, State.freeLeg_same, ← hv]
    rfl
  next other =>
    generalize hv : State.setGrant _ a none = v
    rw [State.openRelock_same, State.freeLeg_same, ← hv]
    rfl

theorem State.dwelled_chan (s : State) (a : Axis) (m : Move) : (s.dwelled a m).ac[a] = s.ac[a].endMove m := by
  rw [State.dwelled_same]
  exact (Machine.setSlot_get ..).trans (if_pos rfl)

theorem State.dwelled_grants (s : State) (a : Axis) (m : Move) : (s.dwelled a m).da.grants[a] = none := by
  rw [State.dwelled_same]
  exact (Machine.setSlot_get ..).trans (if_pos rfl)

theorem State.dwelled_moves (s : State) (a : Axis) (m : Move) :
    (s.dwelled a m).tw[a].moves = if m.clean (m.pending.getD .done) then min Config.maxMoves (s.tw[a].moves + 1) else s.tw[a].moves := by
  rw [State.dwelled_same]
  exact congrArg Thermal.moves ((Machine.setSlot_get ..).trans (if_pos rfl))

theorem State.dwelled_validity (s : State) (a : Axis) (m : Move) :
    (s.dwelled a m).validity[a] = if m.kind = .homing ∧ m.pending.getD .done = .done then .valid else s.validity[a] := by
  rw [State.dwelled_same]
  dsimp only
  split
  next => exact (Machine.setSlot_get ..).trans (if_pos rfl)
  next => rfl

theorem State.dwelled_latch (s : State) (a : Axis) (m : Move) (l : LatchNo) :
    (s.dwelled a m).lc[l].state = s.lc[l].state ∧ (s.dwelled a m).lc[l].sensorFault = s.lc[l].sensorFault := by
  unfold State.dwelled
  dsimp only
  generalize hv : State.setGrant _ a none = v
  have lc : (v.freeLeg (s.grantLeg a)).lc = s.lc := by
    rw [State.freeLeg_same, ← hv]
    dsimp only
    split
    next => rfl
    next => rfl
  obtain ⟨state, fault⟩ := (v.freeLeg (s.grantLeg a)).openRelock_latch a m.job l
  rw [state, fault, lc]
  exact ⟨rfl, rfl⟩

theorem State.latchLocked_iff (s : State) {a : Axis} {l : LatchNo} (hl : axisOfLatch l = a) : s.latchLocked a = true ↔ s.lc[l].state = .locked := by
  unfold State.latchLocked
  rw [State.latch_eq hl]
  exact beq_iff_eq

/-- DWELL entry finds a sensor fault where the latch reads LOCKED on an axis that is then VALID, outside both windows (R71). -/
theorem State.dwelled_faulty_iff (s : State) (a : Axis) (m : Move) : (s.dwelled a m).sensorFaulty a = true ↔
    s.latchLocked a = true ∧ (∀ l, s.latch a = some l → l.sensorFault = false)
      ∧ (if m.kind = .homing ∧ m.pending.getD .done = .done then .valid else s.validity[a]) = .valid ∧ s.st.drive.isSome = true
      ∧ s.lockWindow a s.ac[a].position = none := by
  cases hl : latchOf a with
  | none =>
    have none' : s.latchLocked a = false := by unfold State.latchLocked; rw [State.latch_none hl]
    have sound : (s.dwelled a m).sensorFaulty a = false := by unfold State.sensorFaulty; rw [State.latch_none hl]
    rw [none', sound]
    simp
  | some l =>
    have axis := latchOf_eq_some_iff.1 hl
    obtain ⟨state, fault⟩ := s.dwelled_latch a m l
    have motion : (s.dwelled a m).ac[a].motion = .dwell := by rw [State.dwelled_chan]; rfl
    have window : (s.dwelled a m).lockWindow a (s.dwelled a m).ac[a].position = s.lockWindow a s.ac[a].position := by
      rw [State.dwelled_chan, State.dwelled_same]
      rfl
    have drive : (s.dwelled a m).st = s.st := by rw [State.dwelled_same]
    rw [State.sensorFaulty_iff axis, s.latchLocked_iff axis, State.latch_eq axis, state, fault, State.dwelled_validity, drive, motion, window]
    simp

theorem Move.onTarget_false_iff (m : Move) (p : Nat) :
    m.onTarget p = false ↔ (m.kind = .scene ∨ m.kind = .backOff) ∧ ∃ x, m.target = some x ∧ m.tolerance < Sys2Proof.dist p x := by
  unfold Move.onTarget
  cases m.kind <;> cases m.target <;> simp

theorem Move.clean_iff (m : Move) (code : Code) : m.clean code = true ↔ m.endedAtStop = true ∧ m.limitEvents = 0 ∧ code ≠ .obstructed ∧ 20 ≤ m.runSamples := by
  have samples : Config.cleanSamples = 20 := rfl
  unfold Move.clean
  simp only [Bool.and_eq_true, beq_iff_eq, bne_iff_ne, decide_eq_true_eq, samples, and_assoc]

theorem learnIlr_eq (ilr : Nat) (m : Move) :
    (learnIlr ilr m : Int) = max 5 (min ((ilr : Int) + Int.tdiv (((m.runSum / m.runSamples : Nat) : Int) - ilr) 8) 200) :=
  Int.toNat_of_nonneg (Int.le_trans (by decide : (0 : Int) ≤ 5) (Int.le_max_left ..))

theorem learnCoast_eq (coast : Nat) (m : Move) (p : Nat) :
    (learnCoast coast m p : Int) = max 0 (min ((coast : Int) + Int.tdiv ((Sys2Proof.dist p m.brakePos : Int) - coast) 4) 255) :=
  Int.toNat_of_nonneg (Int.le_max_left ..)

end Machine

open Machine

/-- Settles O43: DWELL entry, then the sensor-fault test; the work of the event leaves a channel in DWELL with its axis as it is. -/
theorem brakingEnds : Obligations.BrakingEnds := by
  intro s a m braking hm code c v
  have effect : s.effect (.brakingEnd a) = s.enterDwell a := if_pos braking
  generalize hw : s.dwelled a m = w
  have chan : w.ac[a] = c.endMove m := hw ▸ s.dwelled_chan a m
  have still : w.ac[a].motion.driving = false := by rw [chan]; rfl
  obtain ⟨da, _, tw, _⟩ := State.sensorTest_quiet still
  have faulty := s.dwelled_faulty_iff a m
  have valid : (s.enterDwell a).validity[a] = if w.sensorFaulty a = true then .unverified else v := by
    rw [State.enterDwell_eq hm, hw, State.emit_validity, State.sensorTest_validity still, ← hw, State.dwelled_validity]
  have tested : (s.enterDwell a).ac[a] = { c.endMove m with lockedOut := (s.enterDwell a).ac[a].lockedOut } := by
    rw [State.enterDwell_eq hm, hw, State.emit_ac]
    rcases State.sensorTest_still still with e | e <;> rw [e, chan]
  have grants : (s.enterDwell a).da.grants[a] = none := by
    rw [State.enterDwell_eq hm, hw]
    show (w.sensorTest a).da.grants[a] = none
    rw [da, ← hw, State.dwelled_grants]
  have moves : (s.enterDwell a).tw[a].moves = if m.clean code then min 16777215 (s.tw[a].moves + 1) else s.tw[a].moves := by
    rw [State.enterDwell_eq hm, hw]
    show (w.sensorTest a).tw[a].moves = _
    rw [tw, ← hw, State.dwelled_moves]
    rfl
  have motion : (s.enterDwell a).ac[a].motion = .dwell := s.enterDwell_motion a
  have follows := (s.enterDwell a).conclude_follows
  have rests := follows.at_rest (a := a) (.inr motion)
  obtain ⟨keepsValidity, keepsHeat, _⟩ := follows.axis a rests.motion
  have fields : (s.enterDwell a).conclude.ac[a] = { c.endMove m with
      lockedOut := (s.enterDwell a).ac[a].lockedOut, move := (s.enterDwell a).conclude.ac[a].move } := by
    rw [rests.but_move, tested]
  refine ⟨_, exec_eq _ s, ?_⟩
  rw [effect]
  refine ⟨by rw [fields]; rfl, by rw [fields]; rfl, by rw [fields]; rfl, ?_, ?_, fun locked => ?_, fun free => ?_, fun clean => ?_, fun other => ?_,
    (s.enterDwell_only a).others⟩
  · rw [fields, ← Move.onTarget_false_iff]
    show (!(m.onTarget c.position)) = true ↔ _
    rw [Bool.not_eq_true']
  · rcases follows.grants a (.inr motion) with e | e
    · rw [e, grants]
    · exact e
  · rw [keepsValidity, valid, ← hw, if_pos (faulty.2 locked)]
  · rw [keepsValidity, valid, ← hw, if_neg (fun h => free (faulty.1 h))]
  · have h : m.clean (m.pending.getD .done) = true := (m.clean_iff code).2 clean
    have ilr : (c.endMove m).ilr = learnIlr c.ilr m := if_pos h
    have coast : (c.endMove m).coast = learnCoast c.coast m c.position := if_pos h
    have streak : (c.endMove m).streak = 0 := if_pos h
    rw [fields, keepsHeat, moves, if_pos h]
    exact ⟨ilr ▸ learnIlr_eq c.ilr m, coast ▸ learnCoast_eq c.coast m c.position, streak, rfl⟩
  · have h : ¬ m.clean (m.pending.getD .done) = true := fun x => other ((m.clean_iff code).1 x)
    rw [fields, keepsHeat, moves, if_neg h]
    exact ⟨if_neg h, if_neg h, if_neg h, rfl⟩

end Sys2Proof
end

section
/-! Hall edges counted in a move and edges at the ends of the range (2.3, 2.4, 2.5). -/

namespace Sys2Proof
namespace Machine

/-! ## A counted edge (R24) -/

/-- A channel after a counted edge (R24, R28, R30). -/
def Channel.edge (c : Channel) (p : Nat) : Channel :=
  { c with
    position := p
    hallTimer := if c.hallTimer.running then .start else c.hallTimer
    restTimer := if c.motion = .braking then .start else c.restTimer
    move := c.move.map (fun m => { m with edges := m.edges + 1, drivenEdge := m.drivenEdge || c.motion.driving }) }

theorem Channel.edge_eq {c : Channel} {m : Move} (hm : c.move = some m) (p : Nat) : c.edge p = { c with
    position := p
    hallTimer := if c.hallTimer.running then .start else c.hallTimer
    restTimer := if c.motion = .braking then .start else c.restTimer
    move := some { m with edges := m.edges + 1, drivenEdge := m.drivenEdge || c.motion.driving } } := by
  unfold Channel.edge
  rw [hm]
  rfl

theorem State.holdClears_same (s : State) (a : Axis) : s.holdClears a = { s with lc := (s.holdClears a).lc } := by
  unfold State.holdClears
  split
  next => rfl
  next =>
    split
    next =>
      dsimp only
      split
      next => rfl
      next =>
        split
        next => rfl
        next => rfl
    next => rfl

/-- An edge leaves the hold of a latch when the position lies 20 counts beyond its window (R65). -/
theorem State.holdClears_latch (s : State) {a : Axis} {l : LatchNo} (hl : axisOfLatch l = a) :
    let left : Prop := s.lc[l].solenoid = .hold ∧ s.st.drive.isSome = true
      ∧ ∃ w, s.lc[l].window = some w ∧ (s.ac[a].position + 20 ≤ w.1 ∨ w.2 + 20 ≤ s.ac[a].position)
    (left → (s.holdClears a).lc[l] = s.lc[l].drop) ∧ (¬ left → (s.holdClears a).lc[l] = s.lc[l]) := by
  intro left
  have clearance : Config.holdClearance = 20 := rfl
  unfold State.holdClears
  rw [latchOf_eq_some_iff.2 hl]
  dsimp only
  split
  next w hold window =>
    rw [clearance]
    by_cases drive : s.st.drive.isNone = true
    · rw [if_pos drive]
      exact ⟨fun h => absurd h.2.1 (by rw [Option.isNone_iff_eq_none.1 drive]; decide), fun _ => rfl⟩
    · rw [if_neg drive]
      by_cases beyond : s.ac[a].position + 20 ≤ w.1 ∨ w.2 + 20 ≤ s.ac[a].position
      · rw [if_pos beyond]
        exact ⟨fun _ => (State.modLatch_get ..).trans (if_pos rfl),
          fun h => absurd ⟨hold, Option.isSome_iff_ne_none.2 (by simpa using drive), w, window, beyond⟩ h⟩
      · rw [if_neg beyond]
        exact ⟨fun ⟨_, _, x, hx, far⟩ => absurd (by rw [window] at hx; cases hx; exact far) beyond, fun _ => rfl⟩
  next other =>
    exact ⟨fun ⟨hold, _, w, window, _⟩ => absurd window (other w hold), fun _ => rfl⟩

/-- What a counted edge makes of each block but the latches (R24). -/
theorem State.countEdge_same (s : State) (a : Axis) (p : Nat) :
    s.countEdge a p = { s with ac := s.ac.set a (s.ac[a].edge p), lc := (s.countEdge a p).lc } := State.holdClears_same ..

theorem State.countEdge_chan (s : State) (a : Axis) (p : Nat) : (s.countEdge a p).ac[a] = s.ac[a].edge p := by
  rw [State.countEdge_same]
  exact (Machine.setSlot_get ..).trans (if_pos rfl)

theorem State.countEdge_quiet {s : State} (quiet : s.Quiet) (a : Axis) (p : Nat) : (s.countEdge a p).Quiet := by
  rw [State.countEdge_same]
  exact quiet

theorem State.countEdge_only (s : State) (a : Axis) (p : Nat) : State.OnlyAt a s (s.countEdge a p) := by
  rw [State.countEdge_same]
  exact ⟨fun b h => (Machine.setSlot_get ..).trans (if_neg h), fun _ _ => rfl, .inl rfl⟩

theorem State.edgeCause_only (s : State) (a : Axis) (c : EdgeCause) : State.OnlyAt a s (s.edgeCause a c) := by
  cases c with
  | sensor => exact s.sensorTest_only a
  | brakingPoint =>
    show State.OnlyAt a s (if _ then _ else s)
    split
    next => exact (State.OnlyAt.modChan s a _).trans (State.enterBraking_only ..)
    next => exact .refl a s
  | travel =>
    show State.OnlyAt a s (if _ then _ else s)
    split
    next => exact State.enterBraking_only ..
    next => exact .refl a s
  | noise =>
    show State.OnlyAt a s (if _ then _ else s)
    split
    next => exact (State.enterBraking_only ..).trans (.of rfl rfl)
    next => exact .refl a s

theorem State.edgeCause_position (s : State) (a : Axis) (c : EdgeCause) : (s.edgeCause a c).ac[a].position = s.ac[a].position := by
  have stops (t : State) (code : Code) (pred : Option Nat) : (t.enterBraking a code pred).ac[a].position = t.ac[a].position := by
    rw [State.enterBraking_chan]; rfl
  cases c with
  | sensor => exact ((s.sensorTest_but (ok := fun _ => True) a).loose a).position
  | brakingPoint =>
    show (if _ then _ else s : State).ac[a].position = _
    split
    next => rw [stops, State.modMove_eq_setChan, State.setChan_get_same]
    next => rfl
  | travel =>
    show (if _ then _ else s : State).ac[a].position = _
    split
    next => exact stops ..
    next => rfl
  | noise =>
    show (if _ then _ else s : State).ac[a].position = _
    split
    next => exact stops ..
    next => rfl

/-- The causes of an edge, in whatever order, act on one channel and leave its position. -/
theorem State.edgeCauses_keep (a : Axis) : ∀ (l : List EdgeCause) (s : State),
    State.OnlyAt a s (s.each l (fun t c => t.edgeCause a c)) ∧ (s.each l (fun t c => t.edgeCause a c)).ac[a].position = s.ac[a].position
  | [], s => ⟨.refl a s, rfl⟩
  | c :: l, s => by
    obtain ⟨only, position⟩ := State.edgeCauses_keep a l (s.edgeCause a c)
    exact ⟨(s.edgeCause_only a c).trans only, position.trans (s.edgeCause_position a c)⟩

theorem State.moveEdge_keeps (s : State) (a : Axis) (p gap : Nat) :
    State.OnlyAt a s (s.moveEdge a p gap) ∧ (s.moveEdge a p gap).ac[a].position = p := by
  unfold State.moveEdge
  dsimp only
  generalize (s.countEdge a p).edgeCauses a _ = l
  obtain ⟨only, position⟩ := State.edgeCauses_keep a ((s.countEdge a p).shuffled l).1 ((s.countEdge a p).shuffled l).2
  refine ⟨((s.countEdge_only a p).trans (State.OnlyAt.of (t := ((s.countEdge a p).shuffled l).2) rfl rfl)).trans only, position.trans ?_⟩
  show (s.countEdge a p).ac[a].position = p
  rw [State.countEdge_chan]
  rfl

/-! ## The causes of an edge (R38) -/

/-- The move has come to its travel limit (R31). -/
def Move.travelled (m : Move) : Bool := match m.travel with | some t => decide (t ≤ m.edges) | none => false

theorem Move.travelled_iff (m : Move) : m.travelled = true ↔ ∃ x, m.travel = some x ∧ x ≤ m.edges := by
  unfold Move.travelled
  cases m.travel <;> simp

theorem Channel.atBrakingPoint_iff (c : Channel) (m : Move) : c.atBrakingPoint m = true ↔ ∃ x, m.stop = some x ∧ remaining m.dir c.position x ≤ c.coast := by
  unfold Channel.atBrakingPoint
  cases m.stop <;> simp

/-- The list of causes, by whether each one stands. -/
def causeList (sensor stops travels noisy : Bool) : List EdgeCause :=
  (if sensor then [.sensor] else []) ++ (if stops then [.brakingPoint] else []) ++ (if travels then [.travel] else []) ++ (if noisy then [.noise] else [])

theorem State.edgeCauses_eq {s : State} {a : Axis} {m : Move} (hm : s.ac[a].move = some m) (spaced : Bool) :
    s.edgeCauses a spaced = causeList (s.sensorFaulty a) (s.ac[a].motion.driving && s.ac[a].atBrakingPoint m)
      (s.ac[a].motion.driving && m.travelled) (s.ac[a].motion.driving && spaced) := by
  unfold State.edgeCauses
  rw [hm]
  rfl

/-- A counted edge and its causes, by whether each one stands. -/
theorem State.moveEdge_of {s : State} {a : Axis} {m : Move} (hm : s.ac[a].move = some m) {p gap : Nat} {sensor stops travels noisy : Bool}
    (hSensor : (s.countEdge a p).sensorFaulty a = sensor) (hStops : (s.ac[a].motion.driving && (s.ac[a].edge p).atBrakingPoint m) = stops)
    (hTravels : (s.ac[a].motion.driving && ({ m with edges := m.edges + 1 } : Move).travelled) = travels)
    (hNoisy : (s.ac[a].motion.driving && (decide (gap < 1000) && m.drivenEdge)) = noisy) :
    s.moveEdge a p gap = ((s.countEdge a p).shuffled (causeList sensor stops travels noisy)).2.each
      ((s.countEdge a p).shuffled (causeList sensor stops travels noisy)).1 (fun t c => t.edgeCause a c) := by
  subst hSensor hStops hTravels hNoisy
  have move : (s.countEdge a p).ac[a].move = some { m with edges := m.edges + 1, drivenEdge := m.drivenEdge || s.ac[a].motion.driving } := by
    rw [State.countEdge_chan]
    show s.ac[a].move.map _ = _
    rw [hm]
    rfl
  unfold State.moveEdge
  dsimp only
  rw [hm, State.edgeCauses_eq move, State.countEdge_chan]
  rfl

/-- The hold of a latch after a counted edge (R65). -/
theorem State.countEdge_latch (s : State) {a : Axis} {l : LatchNo} (hl : axisOfLatch l = a) (p : Nat) :
    let left : Prop := s.lc[l].solenoid = .hold ∧ s.st.drive.isSome = true ∧ ∃ w, s.lc[l].window = some w ∧ (p + 20 ≤ w.1 ∨ w.2 + 20 ≤ p)
    (left → (s.countEdge a p).lc[l] = s.lc[l].drop) ∧ (¬ left → (s.countEdge a p).lc[l] = s.lc[l]) := by
  have key := (s.setChan a (s.ac[a].edge p)).holdClears_latch hl
  rw [State.setChan_get_same] at key
  exact key

theorem State.countEdge_state (s : State) {a : Axis} {l : LatchNo} (hl : axisOfLatch l = a) (p : Nat) :
    (s.countEdge a p).lc[l].state = s.lc[l].state ∧ (s.countEdge a p).lc[l].sensorFault = s.lc[l].sensorFault := by
  obtain ⟨clears, keeps⟩ := s.countEdge_latch hl p
  rcases Classical.em _ with left | stays
  · rw [clears left]; exact ⟨rfl, rfl⟩
  · rw [keeps stays]; exact ⟨rfl, rfl⟩

theorem State.enterBraking_lc (s : State) (a : Axis) (code : Code) (pred : Option Nat) : (s.enterBraking a code pred).lc = s.lc := by
  unfold State.enterBraking
  dsimp only
  rw [State.freeLeg_same]
  rfl

theorem State.enterBraking_validity (s : State) (a : Axis) (code : Code) (pred : Option Nat) : (s.enterBraking a code pred).validity = s.validity := by
  unfold State.enterBraking
  dsimp only
  rw [State.freeLeg_same]
  rfl

/-- The edge that its channel counts, outside PARK. -/
theorem State.hallEdge_counted {s : State} {a : Axis} {p : Nat} (awake : s.sp.power ≠ .park) (counts : s.ac[a].motion ≠ .idle ∨ s.solenoidDriven a = true)
    (stepped : s.ac[a].stepped = some p) (gap : Nat) : s.hallEdge a gap = s.moveEdge a p gap := by
  unfold State.hallEdge
  rw [if_neg awake, if_neg, stepped]
  rcases counts with moving | driven
  · rw [decide_eq_false moving, Bool.false_and]
    decide
  · rw [driven, Bool.not_true, Bool.and_false]
    decide

theorem Channel.stepped_of {c : Channel} {p : Nat} (h : c.lastDir = .positive ∧ c.position < 32767 ∧ p = c.position + 1 ∨ c.lastDir = .negative ∧ c.position = p + 1) :
    c.stepped = some p := by
  unfold Channel.stepped
  rcases h with ⟨dir, room, rfl⟩ | ⟨dir, at'⟩
  · rw [dir]
    exact if_pos room
  · rw [dir, at']
    rfl

/-! ## Edges at the ends of the range (R35) -/

theorem Channel.stepped_none {c : Channel} (h : c.lastDir = .positive ∧ 32767 ≤ c.position ∨ c.lastDir = .negative ∧ c.position = 0) : c.stepped = none := by
  unfold Channel.stepped
  rcases h with ⟨dir, full⟩ | ⟨dir, zero⟩
  · rw [dir]
    exact if_neg (Nat.not_lt.2 full)
  · rw [dir]
    exact if_pos zero

/-- A move whose outcome HALL_FAULT replaces (R35). -/
def Move.saturated (m : Move) : Move := { m with pending := some .hallFault, pendingPred := none }

theorem Channel.homingDrive_eq {c : Channel} {m : Move} (hm : c.move = some m) : c.homingDrive = (m.kind == .homing) := by
  unfold Channel.homingDrive
  rw [hm]

/-- An edge past the limit outside a homing drive (R35). -/
theorem State.hallEdge_saturates {s : State} {a : Axis} (awake : s.sp.power ≠ .park) (counts : s.ac[a].motion ≠ .idle ∨ s.solenoidDriven a = true)
    (stepped : s.ac[a].stepped = none) (other : s.ac[a].homingDrive = false ∨ s.ac[a].motion = .idle) (gap : Nat) : s.hallEdge a gap = s.saturate a := by
  unfold State.hallEdge
  rw [if_neg awake, if_neg, stepped]
  · refine if_neg ?_
    rcases other with drive | idle
    · rw [drive, Bool.false_and]; decide
    · rw [idle]; simp
  · rcases counts with moving | driven
    · rw [decide_eq_false moving, Bool.false_and]
      decide
    · rw [driven, Bool.not_true, Bool.and_false]
      decide

/-- An edge past the limit in a homing drive that has not reached IDLE (R31, R35). -/
theorem State.hallEdge_homing {s : State} {a : Axis} (awake : s.sp.power ≠ .park) (moving : s.ac[a].motion ≠ .idle)
    (stepped : s.ac[a].stepped = none) (homing : s.ac[a].homingDrive = true) (gap : Nat) : s.hallEdge a gap = s.moveEdge a s.ac[a].position gap := by
  unfold State.hallEdge
  rw [if_neg awake, if_neg, stepped]
  · exact if_pos (by rw [homing, Bool.true_and, bne_iff_ne]; exact moving)
  · rw [decide_eq_false moving, Bool.false_and]
    decide

theorem State.saturate_driving {s : State} {a : Axis} (driving : s.ac[a].motion = .starting ∨ s.ac[a].motion = .running) :
    s.saturate a = (s.setValidity a .unhomed).enterBraking a .hallFault none := by
  unfold State.saturate
  dsimp only
  rw [State.setValidity_ac]
  rcases driving with e | e <;> rw [e]

theorem State.saturate_releasing {s : State} {a : Axis} (releasing : s.ac[a].motion = .releasing) :
    s.saturate a = (((s.setValidity a .unhomed).dropSolenoid a).modMove a Move.saturated).enterDwell a := by
  unfold State.saturate
  dsimp only
  rw [State.setValidity_ac, releasing]
  rfl

theorem State.saturate_braking {s : State} {a : Axis} (braking : s.ac[a].motion = .braking) :
    s.saturate a = (s.setValidity a .unhomed).setChan a { s.ac[a] with move := s.ac[a].move.map Move.saturated, restTimer := .start } := by
  unfold State.saturate
  dsimp only
  conv => lhs; rw [State.setValidity_ac, braking]
  dsimp only
  rw [State.modMove_eq_setChan, State.setChan_modChan]
  rfl

theorem State.saturate_still {s : State} {a : Axis} (still : s.ac[a].motion = .dwell ∨ s.ac[a].motion = .idle) :
    s.saturate a =
      let c : Channel := { s.ac[a] with move := s.ac[a].move.map Move.saturated, lastOutcome := some .hallFault }
      ((s.setValidity a .unhomed).setChan a c).emit (c.moveEnd a) := by
  have same : ((s.setValidity a .unhomed).modMove a (fun m => { m with pending := some .hallFault, pendingPred := none })).modChan a
      (fun c => { c with lastOutcome := some .hallFault })
      = (s.setValidity a .unhomed).setChan a { s.ac[a] with move := s.ac[a].move.map Move.saturated, lastOutcome := some .hallFault } := by
    rw [State.modMove_eq_setChan, State.setChan_modChan]
    rfl
  unfold State.saturate
  dsimp only
  rcases still with e | e
  · conv => lhs; rw [State.setValidity_ac, e]
    dsimp only
    rw [same, State.setChan_get_same]
  · conv => lhs; rw [State.setValidity_ac, e]
    dsimp only
    rw [same, State.setChan_get_same]

/-- The channel's move is its own but for the job it may reach no more. -/
theorem Channel.SameMove.pending {c d : Channel} (h : c.SameMove d) {m : Move} (hm : c.move = some m) : ∃ n, d.move = some n ∧ n.pending = m.pending := by
  rcases h with rfl | rfl
  · exact ⟨m, hm, rfl⟩
  · exact ⟨{ m with job := none }, by rw [hm]; rfl, rfl⟩

theorem State.dropSolenoid_same (s : State) (a : Axis) : s.dropSolenoid a = { s with lc := (s.dropSolenoid a).lc } := by
  unfold State.dropSolenoid
  split
  next => rfl
  next => rfl

end Machine

open Machine

/-- Settles O39: by the causes that the counted edge sets off. -/
theorem countedEdges : Obligations.CountedEdges := by
  intro s a gap p m quiet awake counts hm step left holds driving stops travels noisy
  have effect : s.effect (.hallEdge a gap) = s.moveEdge a p gap := State.hallEdge_counted awake counts (Channel.stepped_of step) gap
  obtain ⟨only, position⟩ := s.moveEdge_keeps a p gap
  have follows := (s.moveEdge a p gap).conclude_follows
  have drives : s.ac[a].motion.driving = true ↔ driving := Motion.driving_iff _
  have bStops : (s.ac[a].motion.driving && (s.ac[a].edge p).atBrakingPoint m) = true ↔ stops := by
    rw [Bool.and_eq_true, drives, Channel.atBrakingPoint_iff]
    rfl
  have bTravels : (s.ac[a].motion.driving && ({ m with edges := m.edges + 1 } : Move).travelled) = true ↔ travels := by
    rw [Bool.and_eq_true, drives, Move.travelled_iff]
  have bNoisy : (s.ac[a].motion.driving && (decide (gap < 1000) && m.drivenEdge)) = true ↔ noisy := by
    rw [Bool.and_eq_true, drives, Bool.and_eq_true, decide_eq_true_eq]
  have off {b : Bool} {q : Prop} (h : b = true ↔ q) (no : ¬ q) : b = false := Bool.eq_false_iff.2 (fun e => no (h.1 e))
  have chan := s.countEdge_chan a p
  have move : (s.ac[a].edge p).move = some { m with edges := m.edges + 1, drivenEdge := m.drivenEdge || s.ac[a].motion.driving } :=
    (congrArg (Option.map _) hm).trans rfl
  have drive (h : driving) : (s.countEdge a p).ac[a].motion.driving = true := (congrArg (fun c => c.motion.driving) chan).trans (drives.2 h)
  have ends (u : State) (lc : u.lc = (s.countEdge a p).lc) (rest : u.ac[a].motion = .braking) : holds u.conclude := by
    intro l hl
    have follows := u.conclude_follows
    obtain ⟨_, _, keeps⟩ := follows.axis a (follows.at_rest (.inl rest)).motion
    rw [keeps l hl, lc]
    exact s.countEdge_latch hl p
  refine ⟨_, exec_eq _ s, fun sound => ?_, fun l hl locked whole valid drive' held window noStop noTravel noNoise => ?_⟩
  · rw [effect]
    refine ⟨(follows.ac a).position.trans position, only.others, fun noStop noTravel noNoise => ?_, fun stop noTravel noNoise => ?_, fun noStop travel noNoise => ?_,
      fun noStop noTravel noise => ?_⟩
    · have same : s.moveEdge a p gap = s.countEdge a p := State.moveEdge_of hm sound (off bStops noStop) (off bTravels noTravel) (off bNoisy noNoise)
      rw [same]
      have settles := State.conclude_settles (State.countEdge_quiet quiet a p)
      refine ⟨settles, fun l hl => ?_, ?_⟩
      · rw [settles.lc]
        exact s.countEdge_latch hl p
      · rw [settles.ac, chan, Channel.edge_eq hm]
    · have same : s.moveEdge a p gap = ((s.countEdge a p).modMove a (fun m => { m with endedAtStop := true })).enterBraking a .done none :=
        (State.moveEdge_of hm sound (bStops.2 stop) (off bTravels noTravel) (off bNoisy noNoise)).trans (if_pos (drive stop.1))
      rw [same]
      generalize hu : (s.countEdge a p).modMove a (fun m => { m with endedAtStop := true }) = u
      have own : u.ac[a] = { s.ac[a].edge p with move := (s.ac[a].edge p).move.map (fun m => { m with endedAtStop := true }) } := by
        rw [← hu, State.modMove_eq_setChan, State.setChan_get_same, chan]
      have at' : u.ac[a].position = p := by rw [own]; rfl
      have moved : u.ac[a].move = some { m with edges := m.edges + 1, drivenEdge := m.drivenEdge || s.ac[a].motion.driving, endedAtStop := true } := by
        rw [own, move]; rfl
      have brakes := State.enterBraking_brakes moved .done none
      have rests := (u.enterBraking a .done none).conclude_follows.at_rest (.inl (State.enterBraking_motion ..))
      refine ⟨ends _ ((State.enterBraking_lc ..).trans (hu ▸ rfl)) (State.enterBraking_motion ..), at' ▸ brakes, ?_⟩
      rw [State.enterBraking_chan] at rests
      have ended : (u.ac[a].brake .done none).move.map Move.endedAtStop = some true := by
        show (u.ac[a].move.map _).map Move.endedAtStop = _
        rw [moved]; rfl
      rcases rests with e | e
      · rw [e]
        exact Option.map_eq_some_iff.1 ended
      · rw [e]
        refine Option.map_eq_some_iff.1 (Eq.trans ?_ ended)
        rw [Option.map_map]
        rfl
    · have same : s.moveEdge a p gap = (s.countEdge a p).enterBraking a .homingFailed none :=
        (State.moveEdge_of hm sound (off bStops noStop) (bTravels.2 travel) (off bNoisy noNoise)).trans (if_pos (drive travel.1))
      rw [same]
      have brakes := State.enterBraking_brakes (s := s.countEdge a p) (a := a) (chan ▸ move) .homingFailed none
      rw [chan] at brakes
      exact ⟨ends _ (State.enterBraking_lc ..) (State.enterBraking_motion ..), brakes⟩
    · have same : s.moveEdge a p gap = ((s.countEdge a p).enterBraking a .hallFault none).setValidity a .unhomed :=
        (State.moveEdge_of hm sound (off bStops noStop) (off bTravels noTravel) (bNoisy.2 noise)).trans (if_pos (drive noise.1))
      rw [same]
      have brakes := Channel.brake_brakesWith (c := s.ac[a].edge p) move .hallFault none
      have own : (((s.countEdge a p).enterBraking a .hallFault none).setValidity a .unhomed).ac[a] = (s.ac[a].edge p).brake .hallFault none :=
        (State.enterBraking_chan ..).trans (congrArg (fun c => Channel.brake c .hallFault none) chan)
      have follows := (((s.countEdge a p).enterBraking a .hallFault none).setValidity a .unhomed).conclude_follows
      have rests := follows.at_rest (a := a) (.inl (own ▸ rfl))
      obtain ⟨keeps, _, _⟩ := follows.axis a rests.motion
      refine ⟨ends _ (State.enterBraking_lc ..) (own ▸ rfl), follows.brakes (own ▸ brakes), ?_⟩
      rw [keeps, State.setValidity_get, if_pos rfl]
  · obtain ⟨state, fault⟩ := s.countEdge_state hl p
    have rest : (s.countEdge a p).st = s.st ∧ (s.countEdge a p).validity = s.validity := by
      rw [State.countEdge_same]; exact ⟨rfl, rfl⟩
    have faulty : (s.countEdge a p).sensorFaulty a = true := by
      rw [State.sensorFaulty_iff hl, state, fault, chan, rest.1, rest.2]
      refine ⟨locked, whole, valid, drive', held, ?_⟩
      have same : (s.countEdge a p).lockWindow a p = s.lockWindow a p := by
        unfold State.lockWindow State.driveAxis
        rw [rest.1]
      exact same.trans window
    have same : s.moveEdge a p gap = (s.countEdge a p).sensorTest a := State.moveEdge_of hm faulty (off bStops noStop) (off bTravels noTravel) (off bNoisy noNoise)
    generalize hw : s.countEdge a p = w at *
    have latch : (w.faulted a l).lc[l] = { w.lc[l] with state := .unknown, sensorFault := true, firstReading := false } :=
      (Machine.setSlot_get ..).trans (if_pos rfl)
    have demoted : (w.faulted a l).validity[a] = .unverified := (State.setValidity_get ..).trans (if_pos rfl)
    have own : (w.faulted a l).ac[a] = { s.ac[a].edge p with lockedOut := true } := (w.faulted_chan a l).trans (congrArg (fun c : Channel => { c with lockedOut := true }) chan)
    have dropped (h : left l) : w.lc[l].solenoid = .off := by
      rw [← hw, (s.countEdge_latch hl p).1 h]
      rfl
    rw [effect, same, State.sensorTest_faulty_eq hl faulty, chan, show (s.ac[a].edge p).motion = s.ac[a].motion from rfl]
    by_cases drives' : driving
    · rw [if_pos (drives.2 drives')]
      generalize hu : w.faulted a l = u at *
      have follows := (u.enterBraking a .lockedOut none).conclude_follows
      have braking : (u.enterBraking a .lockedOut none).ac[a] = { s.ac[a].edge p with lockedOut := true }.brake .lockedOut none :=
        (State.enterBraking_chan ..).trans (congrArg (fun c => Channel.brake c .lockedOut none) own)
      have brakes := State.enterBraking_brakes (s := u) (a := a) ((congrArg Channel.move own).trans move) .lockedOut none
      have rests := follows.at_rest (a := a) (.inl (State.enterBraking_motion ..))
      obtain ⟨keepsValidity, _, keepsLatch⟩ := follows.axis a rests.motion
      rw [own] at brakes
      have lc : (u.enterBraking a .lockedOut none).conclude.lc[l] = { w.lc[l] with state := .unknown, sensorFault := true, firstReading := false } := by
        rw [keepsLatch l hl, State.enterBraking_lc, latch]
      refine ⟨by rw [lc], by rw [lc], by rw [keepsValidity, State.enterBraking_validity, demoted], by rw [rests.but_move, braking]; rfl,
        by rw [rests.but_move, braking]; rfl, fun h => by rw [lc]; exact dropped h, fun _ => brakes, fun h => absurd drives' h⟩
    · rw [if_neg (fun h => drives' (drives.1 h))]
      have settles := State.conclude_settles (s := w.faulted a l) (hw ▸ State.countEdge_quiet quiet a p)
      rw [settles.lc, settles.validity, settles.ac, latch, demoted, own]
      exact ⟨rfl, rfl, rfl, rfl, rfl, dropped, fun h => absurd h drives', fun _ => rfl⟩

/-- Settles O40: by the kind of the move and the channel's state. -/
theorem edgesAtTheEnds : Obligations.EdgesAtTheEnds := by
  intro s a gap m quiet awake hm step
  have effect : s.effect (.hallEdge a gap) = s.hallEdge a gap := rfl
  have stepped := Channel.stepped_none step
  have unhomed (t : State) : (t.setValidity a .unhomed).validity[a] = .unhomed := (State.setValidity_get ..).trans (if_pos rfl)
  refine ⟨_, exec_eq _ s, fun other moving => ?_, fun homing moving sound causes => ?_, fun idle driven => ?_⟩
  · have drive : s.ac[a].homingDrive = false := by rw [Channel.homingDrive_eq hm]; simpa using other
    rw [effect, State.hallEdge_saturates awake (.inl moving) stepped (.inl drive)]
    generalize hu : s.saturate a = u
    have follows := u.conclude_follows
    have stopped (driving : s.ac[a].motion = .starting ∨ s.ac[a].motion = .running) : u.conclude.ac[a].BrakesWith m .hallFault s.ac[a].position
        ∧ u.conclude.validity[a] = .unhomed ∧ u.conclude.ac[a].position = s.ac[a].position := by
      rw [State.saturate_driving driving] at hu
      have own : u.ac[a] = s.ac[a].brake .hallFault none := by rw [← hu, State.enterBraking_chan]; rfl
      have rests := follows.at_rest (a := a) (.inl (own ▸ rfl))
      obtain ⟨keeps, _, _⟩ := follows.axis a rests.motion
      refine ⟨follows.brakes (own ▸ Channel.brake_brakesWith hm .hallFault none), ?_, by rw [rests.but_move, own]; rfl⟩
      rw [keeps, ← hu, State.enterBraking_validity]
      exact unhomed s
    cases motion : s.ac[a].motion with
    | idle => exact absurd motion moving
    | releasing =>
      rw [State.saturate_releasing motion] at hu
      generalize hv : ((s.setValidity a .unhomed).dropSolenoid a).modMove a Move.saturated = v at hu
      have chan : v.ac[a] = { s.ac[a] with move := some m.saturated } := by
        rw [← hv, State.modMove_eq_setChan, State.setChan_get_same, State.dropSolenoid_same]
        exact congrArg (fun x => ({ s.ac[a] with move := x.map Move.saturated } : Channel)) hm
      have moved : v.ac[a].move = some m.saturated := congrArg Channel.move chan
      have dwell : u.ac[a].motion = .dwell := by rw [← hu]; exact v.enterDwell_motion a
      have rests := follows.at_rest (a := a) (.inr dwell)
      obtain ⟨keeps, _, _⟩ := follows.axis a rests.motion
      have still : (v.dwelled a m.saturated).ac[a].motion.driving = false := by rw [State.dwelled_chan]; rfl
      have own : u.ac[a] = { v.ac[a].endMove m.saturated with lockedOut := u.ac[a].lockedOut } := by
        rw [← hu, State.enterDwell_eq moved, State.emit_ac]
        rcases State.sensorTest_still still with e | e <;> rw [e, State.dwelled_chan]
      have lost : u.validity[a] = .unhomed := by
        have stays : (v.dwelled a m.saturated).validity[a] = .unhomed := by
          rw [State.dwelled_validity, if_neg (fun h => other h.1), ← hv, State.modMove_validity, State.dropSolenoid_same]
          exact unhomed s
        have whole : (v.dwelled a m.saturated).sensorFaulty a = false := by
          cases h : (v.dwelled a m.saturated).sensorFaulty a with
          | false => rfl
          | true =>
            obtain ⟨l, hl⟩ := State.sensorFaulty_latch h
            rw [State.sensorFaulty_iff hl, stays] at h
            cases h.2.2.1
        rw [← hu, State.enterDwell_eq moved, State.sensorTest_sound_eq whole, State.emit_validity, stays]
      have fields : u.conclude.ac[a] = { v.ac[a].endMove m.saturated with lockedOut := u.ac[a].lockedOut, move := u.conclude.ac[a].move } := by
        rw [rests.but_move, own]
      refine ⟨by rw [fields, chan]; rfl, fun h => (by rcases h with h | h <;> cases h), fun _ => ⟨by rw [fields]; rfl, by rw [fields]; rfl, by rw [keeps, lost]⟩,
        (by intro h; cases h), (by intro h; cases h)⟩
    | starting =>
      obtain ⟨brakes, lost, stays⟩ := stopped (.inl motion)
      exact ⟨stays, fun _ => ⟨brakes, lost⟩, (by intro h; cases h), (by intro h; cases h), (by intro h; cases h)⟩
    | running =>
      obtain ⟨brakes, lost, stays⟩ := stopped (.inr motion)
      exact ⟨stays, fun _ => ⟨brakes, lost⟩, (by intro h; cases h), (by intro h; cases h), (by intro h; cases h)⟩
    | braking =>
      rw [State.saturate_braking motion] at hu
      have own : u.ac[a] = { s.ac[a] with move := some m.saturated, restTimer := .start } := by
        rw [← hu, State.setChan_get_same, hm]; rfl
      have rests := follows.at_rest (a := a) (.inl (own ▸ motion))
      obtain ⟨keeps, _, _⟩ := follows.axis a rests.motion
      refine ⟨by rw [rests.but_move, own], fun h => (by rcases h with h | h <;> cases h), (by intro h; cases h), fun _ => ⟨by rw [rests.motion, own, motion], ?_, ?_⟩,
        (by intro h; cases h)⟩
      · rw [keeps, ← hu]; exact unhomed s
      · exact rests.pending (congrArg Channel.move own)
    | dwell =>
      rw [State.saturate_still (.inl motion)] at hu
      have own : u.ac[a] = { s.ac[a] with move := s.ac[a].move.map Move.saturated, lastOutcome := some .hallFault } := by
        rw [← hu, State.emit_ac]; exact State.setChan_get_same ..
      have rests := follows.at_rest (a := a) (.inr (own ▸ motion))
      obtain ⟨keeps, _, _⟩ := follows.axis a rests.motion
      refine ⟨by rw [rests.but_move, own], fun h => (by rcases h with h | h <;> cases h), (by intro h; cases h), (by intro h; cases h),
        fun _ => ⟨by rw [rests.motion, own, motion], by rw [rests.but_move, own], ?_⟩⟩
      rw [keeps, ← hu]; exact unhomed s
  · have drive : s.ac[a].homingDrive = true := by rw [Channel.homingDrive_eq hm]; simpa using homing
    rw [effect, State.hallEdge_homing awake moving stepped drive]
    have off {b : Bool} (h : s.ac[a].motion.driving = true → b = true → False) : (s.ac[a].motion.driving && b) = false := by
      cases hd : s.ac[a].motion.driving with
      | false => rfl
      | true => exact Bool.eq_false_iff.2 (h hd)
    have causes (h : s.ac[a].motion.driving = true) := causes ((Motion.driving_iff _).1 h)
    have same : s.moveEdge a s.ac[a].position gap = s.countEdge a s.ac[a].position := by
      refine State.moveEdge_of (sensor := false) (stops := false) (travels := false) (noisy := false) hm sound (off fun h e => ?_) (off fun h e => ?_) (off fun h e => ?_)
      · obtain ⟨x, hx, near⟩ := (Channel.atBrakingPoint_iff ..).1 e
        exact absurd near (Int.not_le.2 ((causes h).2.1 x hx))
      · obtain ⟨x, hx, near⟩ := (Move.travelled_iff _).1 e
        exact absurd near (Nat.not_le.2 ((causes h).2.2 x hx))
      · rw [Bool.and_eq_true, decide_eq_true_eq] at e
        exact absurd e.2 (by rw [(causes h).1 e.1]; decide)
    have settles := State.conclude_settles (State.countEdge_quiet quiet a s.ac[a].position)
    rw [same]
    refine ⟨settles, ?_, ?_⟩
    · rw [settles.validity, State.countEdge_same]
    · rw [settles.ac, State.countEdge_chan, Channel.edge_eq hm]
  · intro u
    have same : s.hallEdge a gap = u.emit (({ s.ac[a] with lastOutcome := some .hallFault, move := some m.saturated } : Channel).moveEnd a) := by
      rw [State.hallEdge_saturates awake (.inr driven) stepped (.inr idle), State.saturate_still (.inr idle)]
      dsimp only
      rw [hm]
      rfl
    rw [effect, same]
    refine ⟨State.emit_concludes _ _ (Channel.moveEnd_pads _ a), fun free => ?_⟩
    have noEnd : ({ s.ac[a] with lastOutcome := some .hallFault, move := some m.saturated } : Channel).moveEnd a = [] := by
      unfold Channel.moveEnd
      dsimp only
      rw [show m.saturated.job = none from free]
    have still : u.emit [] = u := by
      show { u with raised := u.raised ++ [] } = u
      rw [List.append_nil]
    rw [noEnd, still]
    exact State.conclude_settles quiet

end Sys2Proof
end

section
/-! Latch events: the release sequence, the relock check, debounced levels and sensor faults (4.1 to 4.5). -/

namespace Sys2Proof
namespace Machine

/-! ## The first piece of work an event raises -/

/-- What the rest of an event makes of the state after its first piece of work. -/
theorem State.first_follows {s : State} (quiet : s.Quiet) {t : Task} {rest : List Task} (free : t.waitsFor rest = false) :
    State.Follows { s.runTask t with raised := (s.runTask t).raised ++ rest } (s.emit (t :: rest)).conclude := by
  have fuel : Config.settleFuel = 3999 + 1 := rfl
  generalize hv : ({ s.runTask t with raised := (s.runTask t).raised ++ rest } : State) = v
  have empty : { s with raised := [] } = s := by rw [← show s.raised = [] from quiet]
  have first : (s.emit (t :: rest)).settleOnce t rest = v := by
    unfold State.settleOnce
    rw [if_neg (by rw [free]; decide)]
    show { ({ s with raised := [] } : State).runTask t with raised := (({ s with raised := [] } : State).runTask t).raised ++ rest } = v
    rw [empty, hv]
  have raised : (s.emit (t :: rest)).raised = t :: rest := by
    show s.raised ++ _ = _
    rw [show s.raised = [] from quiet]
    rfl
  have settled : (s.emit (t :: rest)).settled = { settle 3999 v with raised := [] } := by
    have run : settle (3999 + 1) (s.emit (t :: rest)) = settle 3999 v := by
      conv => lhs; unfold settle; rw [raised]
      exact congrArg (settle 3999) first
    unfold State.settled
    rw [fuel, run]
  have work : State.FollowsBut noAxis (fun q => Task.padEntry q ∈ v.raised) v { settle 3999 v with raised := [] } :=
    (settle_but 3999 v (fun _ e => e)).raised [] (fun _ e => by cases e)
  unfold State.conclude
  rw [settled]
  exact (work.trans ((State.finish_same _).follows (fun h => by rw [State.finish_arrival]; exact State.arrivalUpdate_wait _ h))).follows

/-- A decisive outcome reaches an undecided job of a partner (R103). -/
theorem State.takeOutcome_decides {s : State} {j : Slot} {x : Job} {r : Role} (hx : s.jm.slots[j] = some x) (partner : x.source = .partner r)
    (going : x.state ≠ .done) (undecided : x.outcome = none) (code : Code) (failing : Option Axis) (aux : Option Nat) :
    ∃ y, (s.takeOutcome j code failing aux).jm.slots[j] = some y ∧ y.outcome = some code ∧ y.failing = failing ∧ y.aux = aux ∧ y.source = .partner r := by
  have decided : (s.modJob j (fun y => { y with outcome := some code, failing := failing, aux := aux })).jm.slots[j]
      = some { x with outcome := some code, failing := failing, aux := aux } := by
    rw [State.modJob_get, if_pos rfl, hx]; rfl
  have keeps {u v : State} (h : State.FollowsBut noAxis (fun _ => True) u v) (hu : u.jm.slots[j] = some { x with outcome := some code, failing := failing, aux := aux }) :
      ∃ y, v.jm.slots[j] = some y ∧ y.outcome = some code ∧ y.failing = failing ∧ y.aux = aux ∧ y.source = .partner r := by
    obtain ⟨y, hy, fy⟩ := h.rest.jm.jobs j _ hu ⟨r, partner⟩
    obtain ⟨outcome, fails, detail⟩ := fy.decided rfl
    exact ⟨y, hy, outcome, fails, detail, fy.source.trans partner⟩
  unfold State.takeOutcome
  rw [hx]
  dsimp only
  rw [if_neg (fun h => h.elim going (fun h => by rw [undecided] at h; cases h))]
  split
  next =>
    split
    next => exact keeps (State.abortScene_but _ j) decided
    next => exact keeps (State.endHoming_but _ j) decided
    next => exact keeps (.refl _ _) decided
  next => exact keeps (.refl _ _) decided

/-! ## Latches -/

/-- An axis made UNVERIFIED when it is VALID (R148). -/
theorem State.demote_unverified (s : State) (a : Axis) :
    s.demote a .unverified = { s with validity := if s.validity[a] = .valid then s.validity.set a .unverified else s.validity } := by
  have lower : Validity.lower s.validity[a] .unverified = if s.validity[a] = .valid then .unverified else s.validity[a] := by
    cases s.validity[a] <;> rfl
  show s.setValidity a (Validity.lower s.validity[a] .unverified) = _
  rw [lower]
  by_cases valid : s.validity[a] = .valid
  · rw [if_pos valid, if_pos valid]
    rfl
  · rw [if_neg valid, if_neg valid]
    show { s with validity := s.validity.set a s.validity[a] } = _
    rw [setSlot_self]

/-- No sensor fault (R63, R71). -/
theorem State.sensorTest_safe {s : State} {l : LatchNo} (safe : s.lc[l].state ≠ .locked ∨ s.validity[axisOfLatch l] ≠ .valid ∨ s.st.drive = none
    ∨ s.ac[axisOfLatch l].motion = .releasing ∨ (s.lockWindow (axisOfLatch l) s.ac[axisOfLatch l].position).isSome = true) :
    s.sensorTest (axisOfLatch l) = s := by
  refine State.sensorTest_sound_eq (Bool.eq_false_iff.2 (fun h => ?_))
  obtain ⟨locked, _, valid, drive, still, outside⟩ := (State.sensorFaulty_iff rfl).1 h
  rcases safe with e | e | e | e | e
  · exact e locked
  · exact e valid
  · rw [e] at drive; cases drive
  · exact still e
  · rw [outside] at e; cases e

theorem State.modLatch_eq (s : State) (l : LatchNo) (f : Latch → Latch) : s.modLatch l f = { s with lc := s.lc.set l (f s.lc[l]) } := rfl

/-- A relock check that is decided (R68). -/
theorem State.decideRelock_pending {s : State} {l : LatchNo} (pending : s.lc[l].relock = .pending) (passed : Bool) :
    s.decideRelock (axisOfLatch l) passed =
      let s1 : State := { s with lc := s.lc.set l { s.lc[l] with relock := if passed then .passed else .failed, relockTimer := .stopped, relockJob := none } }
      let s2 := if passed then s1 else s1.modChan (axisOfLatch l) (fun c => { c with lastOutcome := some .latchNotEngaged })
      match s.lc[l].relockJob with
      | some j => s2.emit [.relock (axisOfLatch l) j passed]
      | none => s2 := by
  unfold State.decideRelock
  rw [latchOf_axisOfLatch]
  exact if_pos pending

theorem State.decideRelock_none {s : State} {l : LatchNo} (other : s.lc[l].relock ≠ .pending) (passed : Bool) :
    s.decideRelock (axisOfLatch l) passed = s := by
  unfold State.decideRelock
  rw [latchOf_axisOfLatch]
  exact if_neg other

theorem State.relockPass_of_unlocked {s : State} {l : LatchNo} (h : s.lc[l].state ≠ .locked) : s.relockPass l = s := if_neg h

theorem State.relockPass_none {s : State} {l : LatchNo} (other : s.lc[l].relock ≠ .pending) : s.relockPass l = s := by
  unfold State.relockPass
  rw [State.decideRelock_none other, ite_self]

/-- DWELL entry leaves a solenoid that is off, off (R65, R68). -/
theorem State.enterDwell_off {s : State} {a : Axis} {m : Move} (hm : s.ac[a].move = some m) {l : LatchNo} (off : s.lc[l].solenoid = .off ∧ s.lc[l].step = .none) :
    (s.enterDwell a).lc[l].solenoid = .off ∧ (s.enterDwell a).lc[l].step = .none := by
  have relock (t : State) (job : Option Slot) (h : t.lc[l].solenoid = .off ∧ t.lc[l].step = .none) :
      (t.openRelock a job).lc[l].solenoid = .off ∧ (t.openRelock a job).lc[l].step = .none := by
    unfold State.openRelock
    split
    next => exact h
    next k _ =>
      split
      next =>
        rw [State.modLatch_get]
        split
        next => exact ⟨rfl, rfl⟩
        next => exact h
      next => exact h
  have dwelled : (s.dwelled a m).lc[l].solenoid = .off ∧ (s.dwelled a m).lc[l].step = .none := by
    unfold State.dwelled
    dsimp only
    refine relock _ _ ?_
    rw [State.freeLeg_same]
    dsimp only
    split
    next => exact off
    next => exact off
  have still : (s.dwelled a m).ac[a].motion.driving = false := by rw [State.dwelled_chan]; rfl
  rw [State.enterDwell_eq hm, State.emit_lc]
  cases h : (s.dwelled a m).sensorFaulty a with
  | false => rw [State.sensorTest_sound_eq h]; exact dwelled
  | true =>
    obtain ⟨k, hk⟩ := State.sensorFaulty_latch h
    rw [State.sensorTest_faulty_eq hk h, if_neg (by rw [still]; decide)]
    have latch : ((s.dwelled a m).faulted a k).lc[l] = if l = k then { (s.dwelled a m).lc[k] with state := .unknown, sensorFault := true, firstReading := false } else (s.dwelled a m).lc[l] :=
      Machine.setSlot_get ..
    rw [latch]
    split
    next e => subst e; exact dwelled
    next => exact dwelled

theorem State.enterDwell_grants (s : State) (a : Axis) : (s.enterDwell a).da.grants[a] = none := by
  cases hm : s.ac[a].move with
  | none =>
    unfold State.enterDwell
    rw [hm]
    exact (State.setGrant_get ..).trans (if_pos rfl)
  | some m =>
    have still : (s.dwelled a m).ac[a].motion.driving = false := by rw [State.dwelled_chan]; rfl
    rw [State.enterDwell_eq hm]
    show ((s.dwelled a m).sensorTest a).da.grants[a] = none
    rw [(State.sensorTest_quiet still).1, State.dwelled_grants]

/-- The channel in DWELL, but for LOCKED_OUT (R36, R39). -/
theorem State.enterDwell_chan {s : State} {a : Axis} {m : Move} (hm : s.ac[a].move = some m) :
    (s.enterDwell a).ac[a] = { s.ac[a].endMove m with lockedOut := (s.enterDwell a).ac[a].lockedOut } := by
  have still : (s.dwelled a m).ac[a].motion.driving = false := by rw [State.dwelled_chan]; rfl
  rw [State.enterDwell_eq hm, State.emit_ac]
  rcases State.sensorTest_still still with e | e <;> rw [e, State.dwelled_chan]

/-! ## A debounced level -/

/-- A level read outside PARK and a sensor fault (R62, R72). -/
theorem State.latchReading_first {s : State} {l : LatchNo} (awake : s.sp.power ≠ .park) (whole : s.lc[l].sensorFault = false)
    (first : s.lc[l].firstReading = true) (v : SwitchLevel) : s.latchReading l v = s.firstReading l (levelState v) := by
  unfold State.latchReading
  rw [decide_eq_false awake, whole, if_neg (by decide), if_pos first]

theorem State.latchReading_same {s : State} {l : LatchNo} (h : s.lc[l].sensorFault = true ∨ (s.lc[l].firstReading = false ∧ s.lc[l].state = levelState v)) :
    s.latchReading l v = s := by
  unfold State.latchReading
  by_cases off : (decide (s.sp.power = .park) || s.lc[l].sensorFault) = true
  · rw [if_pos off]
  · rw [if_neg off]
    rcases h with fault | ⟨later, same⟩
    · exact absurd (by rw [fault, Bool.or_true]) off
    · rw [if_neg (by rw [later]; decide), if_pos same]

theorem State.latchReading_change {s : State} {l : LatchNo} (awake : s.sp.power ≠ .park) (whole : s.lc[l].sensorFault = false)
    (later : s.lc[l].firstReading = false) {v : SwitchLevel} (change : s.lc[l].state ≠ levelState v) : s.latchReading l v = s.latchChange l (levelState v) := by
  unfold State.latchReading
  rw [decide_eq_false awake, whole, if_neg (by decide), if_neg (by rw [later]; decide), if_neg change]

/-- A debounced change to LOCKED (R68, R71). -/
theorem State.latchChange_locked (s : State) (l : LatchNo) :
    s.latchChange l .locked = (State.sensorTest { s with lc := s.lc.set l { s.lc[l] with state := .locked } } (axisOfLatch l)).relockPass l := rfl

/-- The latch a reading finds. -/
theorem State.setLatch_get (s : State) (l : LatchNo) (x : Latch) : ({ s with lc := s.lc.set l x } : State).lc[l] = x := (Machine.setSlot_get ..).trans (if_pos rfl)

/-- A latch replaced twice. -/
theorem State.setLatch_set (s : State) (l : LatchNo) (x y : Latch) : (s.lc.set l x).set l y = s.lc.set l y := Vector.set_set ..

/-- The check of a latch that belongs to no job fails (R68). -/
theorem relockExpires_alone {s : State} {l : LatchNo} (quiet : s.Quiet) (pending : s.lc[l].relock = .pending) (alone : s.lc[l].relockJob = none) :
    ∃ t, exec (.relockCheckExpiry l) s = .next t
      ∧ State.Settles { s with
          lc := s.lc.set l { s.lc[l] with relock := .failed, relockTimer := .stopped, relockJob := none }
          ac := s.ac.set (axisOfLatch l) { s.ac[axisOfLatch l] with lastOutcome := some .latchNotEngaged } } t := by
  generalize hu : ({ s with lc := _, ac := _ } : State) = u
  have effect : s.effect (.relockCheckExpiry l) = u := by
    show s.decideRelock (axisOfLatch l) false = _
    rw [State.decideRelock_pending pending, alone, ← hu]
    rfl
  refine ⟨_, exec_eq _ s, ?_⟩
  rw [effect]
  exact State.conclude_settles (by rw [← hu]; exact quiet)

/-- The check of a latch fails and decides its job (R68, R103). -/
theorem relockExpires_owned {s : State} {l : LatchNo} (quiet : s.Quiet) (pending : s.lc[l].relock = .pending) {j : Slot} {x : Job} {r : Role}
    (owned : s.lc[l].relockJob = some j) (hx : s.jm.slots[j] = some x) (partner : x.source = .partner r) (going : x.state ≠ .done) (undecided : x.outcome = none) :
    ∃ t y, exec (.relockCheckExpiry l) s = .next t ∧ t.jm.slots[j] = some y ∧ y.outcome = some .latchNotEngaged ∧ y.failing = some (axisOfLatch l) := by
  generalize hu : ({ s with
    lc := s.lc.set l { s.lc[l] with relock := .failed, relockTimer := .stopped, relockJob := none }
    ac := s.ac.set (axisOfLatch l) { s.ac[axisOfLatch l] with lastOutcome := some .latchNotEngaged } } : State) = u
  have effect : s.effect (.relockCheckExpiry l) = u.emit [.relock (axisOfLatch l) j false] := by
    show s.decideRelock (axisOfLatch l) false = _
    rw [State.decideRelock_pending pending, owned, ← hu]
    rfl
  have slot : u.jm.slots[j] = some x := by rw [← hu]; exact hx
  have row : (u.modRow j (axisOfLatch l) Row.relockFailed).jm.slots[j] = some { x with scene := x.scene.map (fun sc => sc.modRow (axisOfLatch l) Row.relockFailed) } :=
    (State.modJob_get ..).trans ((if_pos rfl).trans (congrArg (Option.map _) slot))
  obtain ⟨y, hy, outcome, failing, _, source⟩ := State.takeOutcome_decides row partner going undecided .latchNotEngaged (some (axisOfLatch l)) none
  have run : (u.runTask (.relock (axisOfLatch l) j false)).jm.slots[j] = some y := by
    show ((u.relockFails (axisOfLatch l) j).emit _).jm.slots[j] = _
    rw [State.emit_jm]
    unfold State.relockFails
    rw [slot]
    dsimp only
    rw [if_pos (by rw [undecided]; rfl)]
    exact hy
  have follows := State.first_follows (s := u) (by rw [← hu]; exact quiet) (t := .relock (axisOfLatch l) j false) (rest := []) rfl
  obtain ⟨z, hz, fz⟩ := follows.jobs j y run ⟨r, source⟩
  obtain ⟨same, fails, _⟩ := fz.decided (by rw [outcome]; rfl)
  refine ⟨_, z, exec_eq _ s, ?_, same.trans outcome, fails.trans failing⟩
  rw [effect]
  exact hz

/-- The check of a latch passes at LOCKED (R68). -/
theorem relockPasses {s : State} {l : LatchNo} (quiet : s.Quiet) (pending : s.lc[l].relock = .pending) (awake : s.sp.power ≠ .park)
    (whole : s.lc[l].sensorFault = false) (later : s.lc[l].firstReading = false) (opened : s.lc[l].state = .opened)
    (safe : s.validity[axisOfLatch l] ≠ .valid ∨ s.st.drive = none ∨ (s.lockWindow (axisOfLatch l) s.ac[axisOfLatch l].position).isSome = true) :
    let u : State := { s with lc := s.lc.set l { s.lc[l] with relock := .passed, relockTimer := .stopped, relockJob := none, state := .locked } }
    ∃ t, exec (.latchDebounce l .closed) s = .next t ∧ (s.lc[l].relockJob = none → u.Settles t) ∧ ((s.lc[l].relockJob).isSome = true → u.Follows t) := by
  intro u
  generalize hv : ({ s with lc := s.lc.set l { s.lc[l] with state := .locked } } : State) = v
  have latch : v.lc[l] = { s.lc[l] with state := .locked } := by rw [← hv]; exact s.setLatch_get l _
  have passed : ({ v with lc := v.lc.set l { v.lc[l] with relock := .passed, relockTimer := .stopped, relockJob := none } } : State) = u := by
    rw [latch, ← hv]
    show { s with lc := (s.lc.set l _).set l _ } = _
    rw [State.setLatch_set]
  have effect : s.effect (.latchDebounce l .closed) = match s.lc[l].relockJob with
      | some j => u.emit [.relock (axisOfLatch l) j true]
      | none => u := by
    have tested : v.sensorTest (axisOfLatch l) = v := State.sensorTest_safe (by
      rw [← hv]
      rcases safe with e | e | e
      · exact .inr (.inl e)
      · exact .inr (.inr (.inl e))
      · exact .inr (.inr (.inr (.inr e))))
    show s.latchReading l .closed = _
    rw [State.latchReading_change awake whole later (by rw [opened]; decide)]
    show s.latchChange l .locked = _
    rw [State.latchChange_locked, hv, tested]
    refine (if_pos (by rw [latch])).trans ?_
    rw [State.decideRelock_pending (by rw [latch]; exact pending)]
    dsimp only
    rw [if_pos rfl, if_pos rfl, passed, latch]
  refine ⟨_, exec_eq _ s, fun alone => ?_, fun owned => ?_⟩
  · rw [alone] at effect
    rw [effect]
    exact State.conclude_settles (s := u) quiet
  · obtain ⟨j, hj⟩ := Option.isSome_iff_exists.1 owned
    rw [hj] at effect
    rw [effect]
    exact State.emit_concludes _ _

/-- An axis that loses its VALID by a test (R148). -/
def State.loses (s : State) (a : Axis) (lost : Bool) : State :=
  { s with validity := if s.validity[a] = .valid ∧ lost = true then s.validity.set a .unverified else s.validity }

theorem State.loses_false (s : State) (a : Axis) : s.loses a false = s := by
  unfold State.loses
  rw [if_neg (fun h => Bool.false_ne_true h.2)]

theorem State.demote_loses (s : State) (a : Axis) : s.demote a .unverified = s.loses a true := by
  rw [State.demote_unverified]
  unfold State.loses
  simp only [and_true]

theorem State.loses_if (s : State) (a : Axis) (lost : Bool) : (if lost = true then s.demote a .unverified else s) = s.loses a lost := by
  cases lost with
  | false => rw [State.loses_false]; rfl
  | true => rw [← State.demote_loses]; rfl

theorem State.loses_notValid (s : State) (a : Axis) : (s.loses a true).validity[a] ≠ .valid := by
  unfold State.loses
  by_cases valid : s.validity[a] = .valid
  · rw [if_pos ⟨valid, rfl⟩]
    dsimp only
    rw [Machine.setSlot_get, if_pos rfl]
    decide
  · rw [if_neg (fun h => valid h.1)]
    exact valid

/-- The consistency check of an axis (R147): VALID stays so with LOCKED inside a window, or with OPEN outside both, of a valid DRIVE. -/
theorem State.consistency_eq (s : State) (a : Axis) (r : LatchState) : s.consistency a r =
    s.loses a (!(s.st.drive.isSome && ((r == .locked && (s.lockWindow a s.ac[a].position).isSome) || (r == .opened && !(s.lockWindow a s.ac[a].position).isSome)))) := by
  unfold State.consistency
  by_cases valid : s.validity[a] = .valid
  · rw [if_neg (not_not_intro valid)]
    dsimp only
    generalize (s.st.drive.isSome && ((r == .locked && (s.lockWindow a s.ac[a].position).isSome) || (r == .opened && !(s.lockWindow a s.ac[a].position).isSome))) = good
    cases good with
    | true => exact (s.loses_false a).symm
    | false => exact s.demote_loses a
  · rw [if_pos valid]
    unfold State.loses
    rw [if_neg (fun h => valid h.1)]

/-- A lock window is known only while DRIVE is valid (R63). -/
theorem State.lockWindow_drive {s : State} {a : Axis} {p : Nat} (h : (s.lockWindow a p).isSome = true) : s.st.drive.isSome = true := by
  cases hd : s.st.drive with
  | some _ => rfl
  | none =>
    unfold State.lockWindow State.driveAxis at h
    rw [hd] at h
    cases h

/-- A latch as a first reading leaves it (R62, R74). -/
def State.firstRead (s : State) (l : LatchNo) (r : LatchState) : State :=
  { s with lc := s.lc.set l { s.lc[l] with state := r, firstReading := false, stateBefore := none } }

theorem State.firstRead_latch (s : State) (l : LatchNo) (r : LatchState) :
    (s.firstRead l r).lc[l] = { s.lc[l] with state := r, firstReading := false, stateBefore := none } := s.setLatch_get l _

theorem State.firstRead_undue {s : State} {l : LatchNo} (due : s.lc[l].checkDue = false) (r : LatchState) :
    s.firstRead l r = { s with lc := s.lc.set l { s.lc[l] with state := r, firstReading := false, stateBefore := none, checkDue := false } } := by
  have same : s.lc[l] = { s.lc[l] with checkDue := false } := by rw [← due]
  exact congrArg (fun x : Latch => ({ s with lc := s.lc.set l { x with state := r, firstReading := false, stateBefore := none } } : State)) same

/-- A first reading compared with the state before a soft reset (R74). -/
theorem State.firstReading_compared {s : State} {l : LatchNo} {b : LatchState} (before : s.lc[l].stateBefore = some b) (r : LatchState) :
    s.firstReading l r =
      let s2 := (s.firstRead l r).loses (axisOfLatch l) (b == .locked && r == .opened && (s.firstRead l r).leverFree l)
      (if b ≠ .locked then s2.sensorTest (axisOfLatch l) else s2).relockPass l := by
  have lost : (if (decide (b = .locked) && r == .opened && (s.firstRead l r).leverFree l) = true then (s.firstRead l r).manualRelease l else s.firstRead l r)
      = (s.firstRead l r).loses (axisOfLatch l) (b == .locked && r == .opened && (s.firstRead l r).leverFree l) := State.loses_if ..
  unfold State.firstReading
  rw [before]
  dsimp only
  rw [← lost]
  rfl

/-- A first reading that nothing precedes, with the consistency check where it is due (R62, R147). -/
theorem State.firstReading_fresh {s : State} {l : LatchNo} (before : s.lc[l].stateBefore = none) (r : LatchState) :
    s.firstReading l r =
      ((if s.lc[l].checkDue = true then (s.firstRead l r).checkLatch l r else s.firstRead l r).sensorTest (axisOfLatch l)).relockPass l := by
  unfold State.firstReading
  rw [before]
  rfl

/-- A check that is made is due no more (R147). -/
theorem State.checkLatch_firstRead (s : State) (l : LatchNo) (r : LatchState) : (s.firstRead l r).checkLatch l r =
    State.loses { s with lc := s.lc.set l { s.lc[l] with state := r, firstReading := false, stateBefore := none, checkDue := false } } (axisOfLatch l)
      (!(s.st.drive.isSome && ((r == .locked && (s.lockWindow (axisOfLatch l) s.ac[axisOfLatch l].position).isSome)
        || (r == .opened && !(s.lockWindow (axisOfLatch l) s.ac[axisOfLatch l].position).isSome)))) := by
  have latch : (s.firstRead l r).modLatch l (fun x => { x with checkDue := false })
      = { s with lc := s.lc.set l { s.lc[l] with state := r, firstReading := false, stateBefore := none, checkDue := false } } := by
    rw [State.modLatch_eq, State.firstRead_latch]
    unfold State.firstRead
    dsimp only
    rw [State.setLatch_set]
  unfold State.checkLatch
  rw [latch, State.consistency_eq]
  rfl

end Machine

open Machine

/-- Settles O47: step by step; the retry's end is a move's end like any other. -/
theorem releaseSequence : Obligations.ReleaseSequence := by
  intro s l quiet
  refine ⟨fun step => ⟨_, exec_eq _ s, ?_⟩, fun step => ⟨_, exec_eq _ s, ?_⟩, fun step m releasing hm free => ⟨_, exec_eq _ s, ?_⟩, fun hold timing => ⟨_, exec_eq _ s, ?_⟩⟩
  · have effect : s.effect (.releaseFirstPulseEnd l) = s.modLatch l (fun x => { x with step := .gap, solenoid := .off }) := if_pos step
    rw [effect]
    exact State.conclude_settles quiet
  · have effect : s.effect (.releaseGapEnd l) = s.modLatch l (fun x => { x with step := .retryPulse, solenoid := .full }) := if_pos step
    rw [effect]
    exact State.conclude_settles quiet
  · generalize hv : (s.modLatch l Latch.drop).modMove (axisOfLatch l) (fun m => { m with pending := m.pending.or (some .latchStuck) }) = v
    have effect : s.effect (.releaseRetryEnd l) = v.enterDwell (axisOfLatch l) := by
      rw [← hv]
      exact (if_pos step).trans (if_pos releasing)
    have chan : v.ac[axisOfLatch l] = { s.ac[axisOfLatch l] with move := some { m with pending := some .latchStuck } } := by
      rw [← hv, State.modMove_eq_setChan, State.setChan_get_same, State.modLatch_ac, hm]
      show ({ s.ac[axisOfLatch l] with move := some { m with pending := m.pending.or (some .latchStuck) } } : Channel) = _
      rw [free]
      rfl
    have moved := congrArg Channel.move chan
    have latch : v.lc[l] = s.lc[l].drop := by
      rw [← hv, State.modMove_lc, State.modLatch_get, if_pos rfl]
    have motion := v.enterDwell_motion (axisOfLatch l)
    have follows : s.Follows (v.enterDwell (axisOfLatch l)).conclude := by
      refine State.stops_concludes ?_ ?_ (by rw [releasing]; rfl) (.inr motion)
      · rw [← hv]
        exact ((State.modLatch_but (p := fun b => b = axisOfLatch l) s l _ rfl).trans (State.modMove_but _ _ _)).trans (State.enterDwell_but _ _)
      · rw [← hv]
        have first : State.OnlyAt (axisOfLatch l) s (s.modLatch l Latch.drop) := .of rfl rfl
        exact (first.trans (State.OnlyAt.modChan _ (axisOfLatch l) _)).trans (State.enterDwell_only _ _)
    have rest := (v.enterDwell (axisOfLatch l)).conclude_follows
    have rests := rest.at_rest (.inr motion)
    obtain ⟨_, _, keeps⟩ := rest.axis (axisOfLatch l) rests.motion
    obtain ⟨off, over'⟩ := State.enterDwell_off moved (l := l) (by rw [latch]; exact ⟨rfl, rfl⟩)
    have grants : (v.enterDwell (axisOfLatch l)).conclude.da.grants[axisOfLatch l] = none := by
      rcases rest.grants (axisOfLatch l) (.inr motion) with e | e
      · rw [e, State.enterDwell_grants]
      · exact e
    rw [effect]
    refine ⟨follows, rests.motion.trans motion, ?_, grants, by rw [keeps l rfl, off], by rw [keeps l rfl, over']⟩
    rw [rests.but_move, State.enterDwell_chan moved]
    rfl
  · have effect : s.effect (.solenoidHoldTimeout l) = s.modLatch l Latch.drop := if_pos (by rw [hold, timing]; decide)
    rw [effect]
    exact State.conclude_settles quiet

/-- Settles O48: by the job of the check and by what the test of the reading finds. -/
theorem relockDecided : Obligations.RelockDecided := by
  refine ⟨?_, fun s l quiet awake whole later => ⟨fun other opened safe => ?_, fun locked => ?_, fun opened => ?_⟩⟩
  · intro s l quiet pending lock c
    exact ⟨relockExpires_alone quiet pending, fun j x r => relockExpires_owned quiet pending, relockPasses quiet pending⟩
  · have effect : s.effect (.latchDebounce l .closed) = { s with lc := s.lc.set l { s.lc[l] with state := .locked } } := by
      show s.latchReading l .closed = _
      rw [State.latchReading_change awake whole later (by rw [opened]; decide)]
      show s.latchChange l .locked = _
      generalize hv : ({ s with lc := s.lc.set l { s.lc[l] with state := .locked } } : State) = v
      have latch : v.lc[l] = { s.lc[l] with state := .locked } := by rw [← hv]; exact s.setLatch_get l _
      have tested : v.sensorTest (axisOfLatch l) = v := State.sensorTest_safe (by rw [← hv]; exact .inr safe)
      rw [State.latchChange_locked, hv, tested, State.relockPass_none (by rw [latch]; exact other)]
    refine ⟨_, exec_eq _ s, ?_⟩
    rw [effect]
    exact State.conclude_settles quiet
  · have effect : s.effect (.latchDebounce l .closed) = s := State.latchReading_same (.inr ⟨later, locked⟩)
    refine ⟨_, exec_eq _ s, ?_⟩
    rw [effect]
    exact State.conclude_settles quiet
  · have effect : s.effect (.latchDebounce l .opened) = s := State.latchReading_same (.inr ⟨later, opened⟩)
    refine ⟨_, exec_eq _ s, ?_⟩
    rw [effect]
    exact State.conclude_settles quiet

/-- Settles O49: by what the change to OPEN finds, and by what a first reading is compared with. -/
theorem latchOpens : Obligations.LatchOpens := by
  refine ⟨?_, ?_⟩
  · intro s l quiet awake whole later locked a
    have effect : s.effect (.latchDebounce l .opened) = s.latchChange l .opened :=
      State.latchReading_change awake whole later (v := .opened) (by rw [locked]; decide)
    generalize hv : ({ s with lc := s.lc.set l { s.lc[l] with state := .opened } } : State) = v
    have latch : v.lc[l] = { s.lc[l] with state := .opened } := by rw [← hv]; exact s.setLatch_get l _
    have ac : v.ac = s.ac := by rw [← hv]
    have quietV : v.Quiet := by rw [← hv]; exact quiet
    have free : v.leverFree l = (s.ac[a].motion.atRest && s.lc[l].solenoid == .off) := by
      unfold State.leverFree
      rw [ac, latch]
    have change : s.latchChange l .opened = if v.ac[a].motion = .releasing then v.releaseDone l else if v.leverFree l then v.manualRelease l else v := by
      rw [← hv]; rfl
    have atRest (m : Motion) : m.atRest = true ↔ m = .idle ∨ m = .dwell := by cases m <;> decide
    rw [ac] at change
    by_cases releasing : s.ac[a].motion = .releasing
    · rw [if_pos releasing] at change
      generalize hw : (if v.validity[a] = .valid && !(v.ac[a].homingDrive) then v.lockWindow a v.ac[a].position else none) = w
      have done : v.releaseDone l = { s with
          lc := s.lc.set l { s.lc[l] with state := .opened, solenoid := .hold, step := .none, stepTimer := .stopped, solenoidTimer := .start, window := w }
          ac := s.ac.set a { s.ac[a] with motion := .starting }
          tw := s.tw.set a { s.tw[a] with cooling := .stopped } } := by
        unfold State.releaseDone
        dsimp only
        rw [hw, State.modLatch_eq, latch, ← hv]
        show ({ s with lc := (s.lc.set l _).set l _, ac := _, tw := _ } : State) = _
        rw [State.setLatch_set]
        rfl
      refine ⟨_, exec_eq _ s, ?_, fun _ m hm => ?_, fun h => ?_, fun _ h => absurd releasing h⟩
      · rw [effect, change, done]
        have settles := State.conclude_settles (s := { s with
          lc := s.lc.set l { s.lc[l] with state := .opened, solenoid := .hold, step := .none, stepTimer := .stopped, solenoidTimer := .start, window := w }
          ac := s.ac.set a { s.ac[a] with motion := .starting }
          tw := s.tw.set a { s.tw[a] with cooling := .stopped } }) quiet
        rw [settles.lc]
        exact congrArg Latch.state (s.setLatch_get l _)
      · have window : w = if s.validity[a] = .valid ∧ m.kind ≠ .homing then s.lockWindow a s.ac[a].position else none := by
          have drive : v.ac[a].homingDrive = (m.kind == .homing) := Channel.homingDrive_eq (ac ▸ hm)
          rw [← hw, drive, ← hv]
          simp
          rfl
        rw [effect, change, done, ← window]
        exact State.conclude_settles quiet
      · rw [releasing] at h
        rcases h with h | h <;> cases h
    · rw [if_neg releasing] at change
      by_cases lever : v.leverFree l = true
      · rw [if_pos lever] at change
        have loses : v.manualRelease l = v.loses a true := v.demote_loses a
        have both := lever
        rw [free, Bool.and_eq_true, atRest, beq_iff_eq] at both
        refine ⟨_, exec_eq _ s, ?_, fun h => absurd h releasing, fun _ _ => ?_, fun h => absurd both.2 (h both.1)⟩
        · rw [effect, change, loses, (State.conclude_settles (s := v.loses a true) quietV).lc]
          exact congrArg Latch.state latch
        · have settles := State.conclude_settles (s := v.loses a true) quietV
          rw [effect, change, loses]
          have same : v.loses a true = { s with
              lc := s.lc.set l { s.lc[l] with state := .opened }
              validity := if s.validity[a] = .valid then s.validity.set a .unverified else s.validity } := by
            rw [← hv, ← State.demote_loses, State.demote_unverified]
          rw [← same]
          exact settles
      · rw [if_neg lever] at change
        refine ⟨_, exec_eq _ s, ?_, fun h => absurd h releasing, fun rest off => ?_, fun _ _ => ?_⟩
        · rw [effect, change, (State.conclude_settles quietV).lc]
          exact congrArg Latch.state latch
        · refine absurd ?_ lever
          rw [free, Bool.and_eq_true, atRest, beq_iff_eq]
          exact ⟨rest, off⟩
        · rw [effect, change]
          exact State.conclude_settles quietV
  · intro s l v quiet awake whole first a inside before checked u
    have effect : s.effect (.latchDebounce l v) = s.firstReading l (levelState v) := State.latchReading_first awake whole first v
    have shape (r : LatchState) (lost : Bool) : u r lost = State.loses { s with
        lc := s.lc.set l { s.lc[l] with state := r, firstReading := false, stateBefore := none, checkDue := s.lc[l].checkDue && before.isSome } } a lost := rfl
    refine ⟨_, exec_eq _ s, fun opened => ?_, fun closed other safe => ?_⟩
    · subst opened
      rw [effect, shape]
      cases hb : s.lc[l].stateBefore with
      | some b =>
        have hBefore : before = some b := hb
        have hChecked : checked = false := by show (s.lc[l].checkDue && before.isNone) = false; rw [hBefore]; exact Bool.and_false _
        have free : (s.firstRead l .opened).leverFree l = (s.ac[a].motion.atRest && s.lc[l].solenoid == .off) := by
          unfold State.leverFree
          rw [State.firstRead_latch]
          rfl
        have whole : (s.lc[l].checkDue && (some b).isSome) = s.lc[l].checkDue := Bool.and_true _
        generalize hx : (s.firstRead l .opened).loses a (b == .locked && LatchState.opened == .opened && (s.firstRead l .opened).leverFree l) = x
        have latch : x.lc[l].state = .opened := by rw [← hx]; exact congrArg Latch.state (s.firstRead_latch l .opened)
        have reading : s.firstReading l .opened = x := by
          rw [State.firstReading_compared hb, hx]
          dsimp only
          rw [State.sensorTest_safe (s := x) (l := l) (.inl (by rw [latch]; decide)), ite_self]
          exact State.relockPass_of_unlocked (by rw [latch]; decide)
        rw [show levelState .opened = .opened from rfl, reading, hBefore, hChecked, whole, ← hx, free]
        have same : (b == .locked && LatchState.opened == .opened && (s.ac[a].motion.atRest && s.lc[l].solenoid == .off))
            = (some b == some .locked && s.ac[a].motion.atRest && s.lc[l].solenoid == .off || (false && (s.st.drive.isNone || inside))) := by
          rw [Bool.false_and, Bool.or_false, show (LatchState.opened == .opened) = true from rfl, Bool.and_true, ← Bool.and_assoc]
          rfl
        rw [same]
        exact State.conclude_settles quiet
      | none =>
        have hBefore : before = none := hb
        have hChecked : checked = s.lc[l].checkDue := by show (s.lc[l].checkDue && before.isNone) = _; rw [hBefore]; exact Bool.and_true _
        have over' : (s.lc[l].checkDue && (none : Option LatchState).isSome) = false := Bool.and_false _
        have made : (if s.lc[l].checkDue = true then (s.firstRead l .opened).checkLatch l .opened else s.firstRead l .opened)
            = State.loses { s with lc := s.lc.set l { s.lc[l] with state := .opened, firstReading := false, stateBefore := none, checkDue := false } } a
                (s.lc[l].checkDue && (s.st.drive.isNone || inside)) := by
          cases due : s.lc[l].checkDue with
          | true =>
            have good : (!(s.st.drive.isSome && ((LatchState.opened == .locked && inside) || (LatchState.opened == .opened && !inside)))) = (true && (s.st.drive.isNone || inside)) := by
              rw [show (LatchState.opened == .locked) = false from rfl, show (LatchState.opened == .opened) = true from rfl]
              cases s.st.drive <;> cases inside <;> rfl
            rw [if_pos rfl, State.checkLatch_firstRead, ← good]
          | false => rw [if_neg (by decide), Bool.false_and, State.loses_false, State.firstRead_undue due]
        have reading : s.firstReading l .opened = State.loses
            { s with lc := s.lc.set l { s.lc[l] with state := .opened, firstReading := false, stateBefore := none, checkDue := false } } a
                (s.lc[l].checkDue && (s.st.drive.isNone || inside)) := by
          rw [State.firstReading_fresh hb, made]
          generalize hx : State.loses _ a _ = x
          have latch : x.lc[l].state = .opened := by rw [← hx]; exact congrArg Latch.state (s.setLatch_get l _)
          rw [State.sensorTest_safe (s := x) (l := l) (.inl (by rw [latch]; decide)), State.relockPass_of_unlocked (by rw [latch]; decide)]
        rw [show levelState .opened = .opened from rfl, reading, hBefore, hChecked, over']
        exact State.conclude_settles quiet
    · subst closed
      rw [effect, shape]
      cases hb : s.lc[l].stateBefore with
      | some b =>
        have hBefore : before = some b := hb
        have hChecked : checked = false := by show (s.lc[l].checkDue && before.isNone) = false; rw [hBefore]; exact Bool.and_false _
        have whole : (s.lc[l].checkDue && (some b).isSome) = s.lc[l].checkDue := Bool.and_true _
        have latch := s.firstRead_latch l .locked
        have reading : s.firstReading l .locked = s.firstRead l .locked := by
          have tested : (if b ≠ .locked then (s.firstRead l .locked).sensorTest (axisOfLatch l) else s.firstRead l .locked) = s.firstRead l .locked := by
            split
            next unlocked =>
              refine State.sensorTest_safe ?_
              rcases safe with e | e | e | e | e
              · rw [hChecked] at e; cases e
              · rw [hBefore] at e; exact absurd (Option.some.inj e) unlocked
              · exact .inr (.inl e)
              · exact .inr (.inr (.inl e))
              · exact .inr (.inr (.inr (.inr e)))
            next => rfl
          rw [State.firstReading_compared hb, show (LatchState.locked == .opened) = false from rfl, Bool.and_false, Bool.false_and]
          dsimp only
          rw [State.loses_false, tested, State.relockPass_none (by rw [latch]; exact other)]
        rw [show levelState .closed = .locked from rfl, reading, hBefore, hChecked, whole, Bool.false_and, State.loses_false]
        exact State.conclude_settles quiet
      | none =>
        have hBefore : before = none := hb
        have hChecked : checked = s.lc[l].checkDue := by show (s.lc[l].checkDue && before.isNone) = _; rw [hBefore]; exact Bool.and_true _
        have over' : (s.lc[l].checkDue && (none : Option LatchState).isSome) = false := Bool.and_false _
        have made : (if s.lc[l].checkDue = true then (s.firstRead l .locked).checkLatch l .locked else s.firstRead l .locked)
            = State.loses { s with lc := s.lc.set l { s.lc[l] with state := .locked, firstReading := false, stateBefore := none, checkDue := false } } a
                (s.lc[l].checkDue && !inside) := by
          cases due : s.lc[l].checkDue with
          | true =>
            have good : (!(s.st.drive.isSome && ((LatchState.locked == .locked && inside) || (LatchState.locked == .opened && !inside)))) = (true && !inside) := by
              rw [show (LatchState.locked == .locked) = true from rfl, show (LatchState.locked == .opened) = false from rfl]
              have known : inside = true → s.st.drive.isSome = true := State.lockWindow_drive
              cases hIn : inside with
              | true => rw [known hIn]; rfl
              | false => cases s.st.drive <;> rfl
            rw [if_pos rfl, State.checkLatch_firstRead, ← good]
          | false => rw [if_neg (by decide), Bool.false_and, State.loses_false, State.firstRead_undue due]
        have reading : s.firstReading l .locked = State.loses
            { s with lc := s.lc.set l { s.lc[l] with state := .locked, firstReading := false, stateBefore := none, checkDue := false } } a
                (s.lc[l].checkDue && !inside) := by
          rw [State.firstReading_fresh hb, made]
          generalize hy : ({ s with lc := s.lc.set l { s.lc[l] with state := .locked, firstReading := false, stateBefore := none, checkDue := false } } : State) = y
          have latch : (y.loses a (s.lc[l].checkDue && !inside)).lc[l].relock = s.lc[l].relock := by
            show y.lc[l].relock = _
            rw [← hy]
            exact (congrArg Latch.relock (s.setLatch_get l _)).trans rfl
          have tested : (y.loses a (s.lc[l].checkDue && !inside)).sensorTest (axisOfLatch l) = y.loses a (s.lc[l].checkDue && !inside) := by
            refine State.sensorTest_safe ?_
            cases hIn : inside with
            | true => exact .inr (.inr (.inr (.inr (by rw [← hy]; exact hIn))))
            | false =>
              cases due : s.lc[l].checkDue with
              | true => exact .inr (.inl (y.loses_notValid a))
              | false =>
                rw [Bool.false_and, State.loses_false, ← hy]
                rcases safe with e | e | e | e | e
                · rw [hChecked, due] at e; cases e
                · rw [hBefore] at e; cases e
                · exact .inr (.inl e)
                · exact .inr (.inr (.inl e))
                · rw [hIn] at e; cases e
          rw [tested, State.relockPass_none (by rw [latch]; exact other)]
        rw [show levelState .closed = .locked from rfl, reading, hBefore, hChecked, over']
        exact State.conclude_settles quiet

/-- Settles O50: the fault of a LOCKED reading, and no reading while it holds. -/
theorem sensorFaults : Obligations.SensorFaults := by
  intro s l awake a
  have latchOf (x : State) : (x.faulted a l).lc[l] = { x.lc[l] with state := .unknown, sensorFault := true, firstReading := false } :=
    (Machine.setSlot_get ..).trans (if_pos rfl)
  refine ⟨fun fault quiet v => ?_, fun whole later opened valid drive outside still moving other => ?_, fun quiet whole valid drive outside rest reading => ?_⟩
  · have effect : s.effect (.latchDebounce l v) = s := State.latchReading_same (.inl fault)
    refine ⟨_, exec_eq _ s, ?_⟩
    rw [effect]
    exact State.conclude_settles quiet
  · generalize hv : ({ s with lc := s.lc.set l { s.lc[l] with state := .locked } } : State) = v
    have latch : v.lc[l] = { s.lc[l] with state := .locked } := by rw [← hv]; exact s.setLatch_get l _
    have ac : v.ac = s.ac := by rw [← hv]
    have faulty : v.sensorFaulty a = true := by
      rw [State.sensorFaulty_iff rfl, latch, ac, ← hv]
      exact ⟨rfl, whole, valid, drive, still, outside⟩
    have effect : s.effect (.latchDebounce l .closed) = v.sensorTest a := by
      have read : s.effect (.latchDebounce l .closed) = (v.sensorTest a).relockPass l := by
        rw [← hv, ← State.latchChange_locked]
        exact State.latchReading_change awake whole later (v := .closed) (by rw [opened]; decide)
      rw [read]
      refine State.relockPass_of_unlocked ?_
      rw [State.sensorTest_faulty_eq rfl faulty]
      by_cases driving : v.ac[a].motion.driving = true
      · rw [if_pos driving, State.enterBraking_lc, latchOf]
        exact fun h => by cases h
      · rw [if_neg driving, latchOf]
        exact fun h => by cases h
    rw [State.sensorTest_faulty_eq rfl faulty, ac] at effect
    have demoted : (v.faulted a l).validity[a] = .unverified := (State.setValidity_get ..).trans (if_pos rfl)
    have own : (v.faulted a l).ac[a] = { s.ac[a] with lockedOut := true } := (v.faulted_chan a l).trans (by rw [ac])
    refine ⟨_, exec_eq _ s, ?_⟩
    rw [effect]
    by_cases driving : s.ac[a].motion.driving = true
    · rw [if_pos driving]
      generalize hu : v.faulted a l = u at *
      have follows := (u.enterBraking a .lockedOut none).conclude_follows
      have rests := follows.at_rest (a := a) (.inl (State.enterBraking_motion ..))
      obtain ⟨keepsValidity, _, keepsLatch⟩ := follows.axis a rests.motion
      have lc : (u.enterBraking a .lockedOut none).conclude.lc[l] = { v.lc[l] with state := .unknown, sensorFault := true, firstReading := false } := by
        rw [keepsLatch l rfl, State.enterBraking_lc, ← hu, latchOf]
      refine ⟨by rw [lc], by rw [lc], ?_, by rw [keepsValidity, State.enterBraking_validity, demoted], fun m hm _ => ?_⟩
      · rw [rests.but_move, State.enterBraking_chan, own]; rfl
      · have brakes := State.enterBraking_brakes (s := u) (a := a) ((congrArg Channel.move own).trans hm) .lockedOut none
        rw [own] at brakes
        exact brakes
    · rw [if_neg driving]
      have follows := (v.faulted a l).conclude_follows
      have motion : (v.faulted a l).ac[a].motion = .braking ∨ (v.faulted a l).ac[a].motion = .dwell := by
        rw [own]
        show s.ac[a].motion = .braking ∨ s.ac[a].motion = .dwell
        cases h : s.ac[a].motion with
        | idle => exact absurd h moving
        | releasing => exact absurd h still
        | starting => rw [h] at driving; exact absurd rfl driving
        | running => rw [h] at driving; exact absurd rfl driving
        | braking => exact .inl rfl
        | dwell => exact .inr rfl
      have rests := follows.at_rest motion
      obtain ⟨keepsValidity, _, keepsLatch⟩ := follows.axis a rests.motion
      refine ⟨by rw [keepsLatch l rfl, latchOf], by rw [keepsLatch l rfl, latchOf], by rw [rests.but_move, own], by rw [keepsValidity, demoted],
        fun _ _ h => absurd h driving⟩
  · generalize hx : (if s.lc[l].firstReading = true then none else s.lc[l].stateBefore) = before
    generalize hv : ({ s with lc := s.lc.set l { s.lc[l] with state := .locked, firstReading := false, stateBefore := before } } : State) = v
    have latch : v.lc[l] = { s.lc[l] with state := .locked, firstReading := false, stateBefore := before } := by rw [← hv]; exact s.setLatch_get l _
    have still : v.ac[a].motion.driving = false := by
      rw [← hv]
      show s.ac[a].motion.driving = false
      rcases rest with e | e | e <;> rw [e] <;> rfl
    have faulty : v.sensorFaulty a = true := by
      rw [State.sensorFaulty_iff rfl, latch, ← hv]
      refine ⟨rfl, whole, valid, drive, ?_, outside⟩
      rcases rest with e | e | e <;> rw [e] <;> decide
    have reads : s.effect (.latchDebounce l .closed) = (v.sensorTest a).relockPass l := by
      rcases reading with ⟨later, opened⟩ | ⟨first, other, undue⟩
      · have same : ({ s.lc[l] with state := .locked } : Latch) = { s.lc[l] with state := .locked, firstReading := false, stateBefore := before } := by
          rw [← hx, if_neg (by rw [later]; decide), ← later]
        rw [← hv, ← same, ← State.latchChange_locked]
        exact State.latchReading_change awake whole later (v := .closed) (by rw [opened]; decide)
      · have gone : before = none := by rw [← hx, if_pos first]
        have whole' : s.effect (.latchDebounce l .closed) = s.firstReading l .locked := State.latchReading_first awake whole first .closed
        have read : s.firstRead l .locked = v := by rw [← hv, gone]; rfl
        rw [whole']
        cases hb : s.lc[l].stateBefore with
        | some b =>
          rw [State.firstReading_compared hb, show (LatchState.locked == .opened) = false from rfl, Bool.and_false, Bool.false_and]
          dsimp only
          rw [State.loses_false, if_pos (fun e => other (hb.trans (congrArg some e))), read]
        | none => rw [State.firstReading_fresh hb, undue hb, if_neg (by decide), read]
    have effect : s.effect (.latchDebounce l .closed) = v.faulted a l := by
      rw [reads, State.sensorTest_faulty_eq rfl faulty, if_neg (by rw [still]; decide)]
      exact State.relockPass_of_unlocked (by rw [latchOf]; exact fun h => by cases h)
    have same : v.faulted a l = { s with
        lc := s.lc.set l { s.lc[l] with state := .unknown, sensorFault := true, firstReading := false, stateBefore := before }
        ac := s.ac.set a { s.ac[a] with lockedOut := true }
        validity := s.validity.set a .unverified } := by
      unfold State.faulted
      rw [State.modLatch_eq, latch, ← hv]
      show ({ s with lc := (s.lc.set l _).set l _, ac := _, validity := _ } : State) = _
      rw [State.setLatch_set]
      rfl
    refine ⟨_, exec_eq _ s, ?_⟩
    rw [effect, same]
    exact State.conclude_settles quiet

end Sys2Proof
end

section
/-! The scan (3.5): what a walk leaves of an axis that has no entry on it, the first entry's decision, and the tests of one entry. -/

namespace Sys2Proof
namespace Machine

/-! ## What the decision of another entry leaves of an axis -/

/-- A has no entry waiting; its grant and its channel stay, the work raised stays raised, and so does a write in progress. -/
structure State.Aside (a : Axis) (u t : State) : Prop where
  wait : (∀ x ∈ u.da.wait, x.axis ≠ a) → ∀ x ∈ t.da.wait, x.axis ≠ a
  grant : t.da.grants[a] = u.da.grants[a]
  chan : t.ac[a] = u.ac[a]
  raised : ∀ w ∈ u.raised, w ∈ t.raised
  write : u.st.write.isSome = true → t.st.write = u.st.write

theorem State.Aside.refl (a : Axis) (s : State) : State.Aside a s s := ⟨id, rfl, rfl, fun _ => id, fun _ => rfl⟩

theorem State.Aside.trans {a : Axis} {u v t : State} (h : State.Aside a u v) (k : State.Aside a v t) : State.Aside a u t :=
  ⟨fun f => k.wait (h.wait f), k.grant.trans h.grant, k.chan.trans h.chan, fun w m => k.raised w (h.raised w m), fun e => (k.write (by rw [h.write e]; exact e)).trans (h.write e)⟩

theorem State.Aside.removed {a : Axis} (s : State) (b : Axis) (l : List Task) : State.Aside a s ((s.dropEntry b).emit l) :=
  ⟨fun f x m => f x ((List.mem_filter.1 m).1), rfl, rfl, fun _ m => List.mem_append_left _ m, fun _ => rfl⟩

theorem State.Aside.raiseBypass {a : Axis} (s : State) (l : List Axis) : State.Aside a s (s.raiseBypass l) := by
  refine ⟨fun f x m => ?_, rfl, rfl, fun _ => id, fun _ => rfl⟩
  obtain ⟨y, from_wait, rfl⟩ := List.mem_map.1 m
  have same : (if l.contains y.axis then { y with bypass := min 3 (y.bypass + 1) } else y).axis = y.axis := by split <;> rfl
  rw [same]
  exact f y from_wait

theorem State.decideRelock_raised (s : State) (a : Axis) (passed : Bool) : ∀ w ∈ s.raised, w ∈ (s.decideRelock a passed).raised := by
  intro w m
  unfold State.decideRelock
  split
  next => exact m
  next =>
    split
    next =>
      dsimp only
      cases passed <;> split
      all_goals first
        | exact m
        | exact List.mem_append_left _ m
    next => exact m

theorem State.grantLatch_raised (s : State) (a : Axis) (k : MoveKind) : (s.grantLatch a k).raised = s.raised := by
  unfold State.grantLatch
  split
  next => rfl
  next =>
    split
    next => rfl
    next => rfl
    next => split <;> rfl

theorem State.takeLeg_raised (s : State) (l : Option Leg) (v : Bool) : (s.takeLeg l v).raised = s.raised := by
  unfold State.takeLeg
  split
  next => split <;> rfl
  next => rfl

theorem State.startMarkerWrite_raised (s : State) : s.startMarkerWrite.raised = s.raised := by
  unfold State.startMarkerWrite
  split
  next => rfl
  next => split <;> rfl

theorem State.startMove_raised (s : State) (a : Axis) (g : Grant) : ∀ w ∈ s.raised, w ∈ (s.startMove a g).raised := by
  intro w m
  unfold State.startMove
  split
  next => exact m
  next =>
    dsimp only
    split
    all_goals
      simp only [State.modHeat_raised, State.grantLatch_raised, State.modChan_raised]
      exact State.decideRelock_raised s a _ w m

theorem State.grantEntry_raised (s : State) (e : WaitEntry) (t st tr : Option Nat) : ∀ w ∈ s.raised, w ∈ (s.grantEntry e t st tr).raised := by
  intro w m
  have kept : ∀ (g : Option Grant) l v, w ∈ (((s.dropEntry e.axis).setGrant e.axis g).takeLeg l v).raised := by
    intro g l v; rw [State.takeLeg_raised]; exact m
  unfold State.grantEntry
  split
  next => exact m
  next =>
    dsimp only
    split
    next => rw [State.startMarkerWrite_raised]; exact kept _ _ _
    next => exact State.startMove_raised _ _ _ w (kept _ _ _)

theorem State.startMarkerWrite_free {s : State} (free : s.st.write = none) :
    ∃ w, s.startMarkerWrite.st.write = some w ∧ w.kind = .marker ∧ w.bytes = s.st.markerBytes := by
  unfold State.startMarkerWrite
  rw [free]
  exact ⟨_, rfl, rfl, rfl⟩

/-- A grant takes its entry off the list and sets the grant of its axis (R52, R53). -/
theorem State.grantEntry_da (s : State) (e : WaitEntry) (t st tr : Option Nat) {d : DriveAxis} (drive : s.driveAxis e.axis = some d) :
    (s.grantEntry e t st tr).da.wait = s.da.wait.filter (fun x => x.axis != e.axis)
      ∧ ∀ b : Axis, (s.grantEntry e t st tr).da.grants[b] = if b = e.axis then some (s.newGrant e d t st tr) else s.da.grants[b] := by
  obtain ⟨_, arbiter, _⟩ := State.grantEntry_spec s e t st tr drive
  rw [arbiter]
  refine ⟨?wait, fun b => ?grant⟩
  case wait =>
    unfold State.takeLeg
    split
    next => split <;> rfl
    next => rfl
  case grant => rw [State.takeLeg_grants, State.setGrant_get]; rfl

theorem State.Aside.granted {a : Axis} (s : State) (e : WaitEntry) (t st tr : Option Nat) (other : e.axis ≠ a) : State.Aside a s (s.grantEntry e t st tr) := by
  cases drive : s.driveAxis e.axis with
  | none =>
    have same : s.grantEntry e t st tr = s := by unfold State.grantEntry; rw [drive]
    rw [same]
    exact .refl a s
  | some d =>
    obtain ⟨chans, _⟩ := State.grantEntry_spec s e t st tr drive
    obtain ⟨wait, grants⟩ := State.grantEntry_da s e t st tr drive
    refine ⟨fun f x m => ?_, ?_, chans a other.symm, State.grantEntry_raised s e t st tr,
      (State.grantEntry_but (ok := fun _ => True) s e t st tr).rest.write⟩
    · rw [wait] at m
      exact f x ((List.mem_filter.1 m).1)
    · rw [grants a, if_neg other.symm]

theorem State.entryOf_axis {s : State} {a : Axis} {e : WaitEntry} (h : s.entryOf a = some e) : e.axis = a := by
  have found := List.find?_some h
  exact beq_iff_eq.1 found

/-- A walk over entries of other axes leaves an axis with no entry aside (R55). -/
theorem scanWalk_aside {a : Axis} : ∀ (l : List WaitEntry) (halted : Bool) (passed : List Axis) (s : State), (∀ x ∈ l, x.axis ≠ a) →
    State.Aside a s (scanWalk l halted passed s)
  | [], _, _, s, _ => .refl a s
  | e0 :: rest, halted, passed, s, others => by
    have tail : ∀ x ∈ rest, x.axis ≠ a := fun x m => others x (.tail _ m)
    have here : ((s.entryOf e0.axis).getD e0).axis ≠ a := by
      cases entry : s.entryOf e0.axis with
      | none => exact others e0 (.head _)
      | some e => show e.axis ≠ a; rw [State.entryOf_axis entry]; exact others e0 (.head _)
    unfold scanWalk
    dsimp only
    split
    next => exact (State.Aside.removed s _ _).trans (scanWalk_aside rest _ _ _ tail)
    next =>
      split
      next => exact scanWalk_aside rest _ _ _ tail
      next =>
        split
        next => exact scanWalk_aside rest _ _ _ tail
        next => exact (State.Aside.removed s _ _).trans (scanWalk_aside rest _ _ _ tail)
        next => exact ((State.Aside.granted s _ _ _ _ here).trans (State.Aside.raiseBypass _ _)).trans (scanWalk_aside rest _ _ _ tail)

/-! ## The first entry -/

theorem State.entryOf_first {s : State} {e : WaitEntry} {rest : List WaitEntry} (wait : s.da.wait = e :: rest) : s.entryOf e.axis = some e := by
  unfold State.entryOf
  rw [wait]
  exact List.find?_cons_of_pos (beq_self_eq_true e.axis)

/-- With no grant held, a scan begins with the first entry of the list as it stands. -/
theorem State.scan_eq_walk {s : State} (held : ∀ a : Axis, s.heldGrant a = none) : s.scan = scanWalk s.da.wait false [] s := by
  have same : s.scanHeld = s := State.each_same (fun a _ => by rw [held a])
  unfold State.scan
  dsimp only
  rw [same]

theorem State.dropEntry_first {s : State} {e : WaitEntry} {rest : List WaitEntry} (wait : s.da.wait = e :: rest) (alone : ∀ x ∈ rest, x.axis ≠ e.axis) :
    s.da.wait.filter (fun x => x.axis != e.axis) = rest := by
  rw [wait, List.filter_cons_of_neg (by simp), List.filter_eq_self]
  exact fun x m => bne_iff_ne.2 (alone x m)

/-- What a scan leaves of an axis once it has handed the first entry back with why. -/
theorem State.removed_first {s : State} {e : WaitEntry} {rest : List WaitEntry} {why : Removal}
    (alone : ∀ x ∈ rest, x.axis ≠ e.axis) (scan : s.scan = scanWalk rest false [] ((s.dropEntry e.axis).emit [.removed e why])) :
    (∀ x ∈ s.scan.da.wait, x.axis ≠ e.axis) ∧ Task.removed e why ∈ s.scan.raised
      ∧ s.scan.da.grants[e.axis] = s.da.grants[e.axis] ∧ s.scan.ac[e.axis] = s.ac[e.axis] := by
  have walk := scanWalk_aside rest false [] ((s.dropEntry e.axis).emit [.removed e why]) alone
  rw [scan]
  refine ⟨walk.wait (fun x m => ?_), walk.raised _ (List.mem_append_right _ (.head _)), walk.grant, walk.chan⟩
  exact bne_iff_ne.1 (List.mem_filter.1 m).2

theorem State.scan_terminal {s : State} {e : WaitEntry} {rest : List WaitEntry} {c : Code} {p : Option Nat} (wait : s.da.wait = e :: rest)
    (held : ∀ a : Axis, s.heldGrant a = none) (fails : s.terminalTest e = some (c, p)) :
    s.scan = scanWalk rest false [] ((s.dropEntry e.axis).emit [.removed e (.terminal c p)]) := by
  rw [State.scan_eq_walk held, wait]
  conv => lhs; unfold scanWalk
  dsimp only
  rw [State.entryOf_first wait]
  simp only [Option.getD_some, fails]

theorem State.scan_removes {s : State} {e : WaitEntry} {rest : List WaitEntry} {why : Removal} (wait : s.da.wait = e :: rest)
    (held : ∀ a : Axis, s.heldGrant a = none) (passes : s.terminalTest e = none) (decided : s.decideEntry e = .remove why) :
    s.scan = scanWalk rest false [] ((s.dropEntry e.axis).emit [.removed e why]) := by
  rw [State.scan_eq_walk held, wait]
  conv => lhs; unfold scanWalk
  dsimp only
  rw [State.entryOf_first wait]
  simp only [Option.getD_some, passes, decided, Bool.false_eq_true, if_false]

theorem State.scan_grants {s : State} {e : WaitEntry} {rest : List WaitEntry} {t st tr : Option Nat} (wait : s.da.wait = e :: rest)
    (held : ∀ a : Axis, s.heldGrant a = none) (passes : s.terminalTest e = none) (decided : s.decideEntry e = .grant t st tr) :
    s.scan = scanWalk rest false [] ((s.grantEntry e t st tr).raiseBypass []) := by
  rw [State.scan_eq_walk held, wait]
  conv => lhs; unfold scanWalk
  dsimp only
  rw [State.entryOf_first wait]
  simp only [Option.getD_some, passes, decided, Bool.false_eq_true, if_false, List.any_nil]

/-! ## The channel that a grant reaches -/

/-- The channel as a granted move leaves it: IDLE for RELEASING or STARTING, with the fresh move (R19). -/
theorem State.startMove_get (s : State) (a : Axis) (g : Grant) {d : DriveAxis} (drive : s.driveAxis a = some d) :
    (s.startMove a g).ac[a].motion = (if s.latchLocked a then .releasing else .starting)
      ∧ (s.startMove a g).ac[a].stray = 0 ∧ (s.startMove a g).ac[a].lastDir = g.entry.dir
      ∧ ∃ c, (s.startMove a g).ac[a].move = some (g.toMove c d) := by
  unfold State.startMove
  rw [drive]
  dsimp only
  split
  all_goals
    simp only [State.modHeat_ac, State.grantLatch_ac, State.modChan_get, if_true]
    exact ⟨trivial, trivial, trivial, _, rfl⟩

theorem State.latchLocked_congr {s t : State} (lc : t.lc = s.lc) (a : Axis) : t.latchLocked a = s.latchLocked a := by
  unfold State.latchLocked State.latch
  rw [lc]

theorem State.grantEntry_started {s : State} (e : WaitEntry) (t st tr : Option Nat) {d : DriveAxis} (drive : s.driveAxis e.axis = some d)
    (marker : s.sp.marker = false) :
    (s.grantEntry e t st tr).ac[e.axis].motion = (if s.latchLocked e.axis then .releasing else .starting)
      ∧ (s.grantEntry e t st tr).ac[e.axis].stray = 0 ∧ (s.grantEntry e t st tr).ac[e.axis].lastDir = e.dir
      ∧ ∃ c, (s.grantEntry e t st tr).ac[e.axis].move = some ((s.newGrant e d t st tr).toMove c d) := by
  generalize hu : ((s.dropEntry e.axis).setGrant e.axis (some (s.newGrant e d t st tr))).takeLeg d.commonLeg (neededLevel d e.dir) = u
  have lc : u.lc = s.lc := by rw [← hu]; exact (State.takeLeg_rest _ _ _).2
  have map : u.driveAxis e.axis = some d := by
    unfold State.driveAxis at drive ⊢
    rw [← drive, ← hu, State.takeLeg_st]
    rfl
  have granted : s.grantEntry e t st tr = (u.startMove e.axis (s.newGrant e d t st tr)).markGranted e.slot e.axis := by
    unfold State.grantEntry
    rw [drive, ← hu]
    exact if_neg (by rw [marker]; exact Bool.false_ne_true)
  rw [granted, State.markGranted_ac, ← State.latchLocked_congr lc]
  exact State.startMove_get u e.axis (s.newGrant e d t st tr) map

theorem State.grantEntry_held {s : State} (e : WaitEntry) (t st tr : Option Nat) {d : DriveAxis} (drive : s.driveAxis e.axis = some d)
    (marker : s.sp.marker = true) (free : s.st.write = none) :
    ∃ w, (s.grantEntry e t st tr).st.write = some w ∧ w.kind = .marker ∧ w.bytes = s.st.markerBytes := by
  generalize hu : ((s.dropEntry e.axis).setGrant e.axis (some (s.newGrant e d t st tr))).takeLeg d.commonLeg (neededLevel d e.dir) = u
  have store : u.st = s.st := by rw [← hu, State.takeLeg_st]; rfl
  have granted : s.grantEntry e t st tr = u.startMarkerWrite := by
    unfold State.grantEntry
    rw [drive, ← hu]
    exact if_pos marker
  rw [granted, ← store]
  exact State.startMarkerWrite_free (by rw [store]; exact free)

/-! ## The tests of one entry (R57, R58) -/

theorem neededLevel_eq (d : DriveAxis) (dir : Dir) : neededLevel d dir = if dir = .positive then d.sense else !d.sense := by
  cases dir <;> cases h : d.sense <;> simp [neededLevel, h]

theorem State.waitTest_iff (s : State) (e : WaitEntry) :
    s.waitTest e = true ↔ ∃ c, s.st.drive = some c ∧ s.ac[e.axis].motion = .idle ∧ s.reservedTotal + c.axis[e.axis].startRes ≤ c.bTotal
      ∧ (∀ l, c.axis[e.axis].commonLeg = some l → s.legSum l + c.axis[e.axis].startRes ≤ c.lMax[l]
        ∧ (s.da.legs[l] = none ∨ s.da.legs[l] = some (if e.dir = .positive then c.axis[e.axis].sense else !c.axis[e.axis].sense)))
      ∧ s.sp.power = .active ∧ s.sp.cond = .normal ∧ (s.st.rules.isSome = true ∨ ∀ a : Axis, s.da.grants[a] = none) := by
  unfold State.waitTest
  cases drive : s.st.drive with
  | none => exact ⟨fun h => absurd h Bool.false_ne_true, fun ⟨c, h, _⟩ => absurd h (by simp)⟩
  | some c =>
    have grants : axes.all (fun a => s.da.grants[a].isNone) = true ↔ ∀ a : Axis, s.da.grants[a] = none := by simp
    simp only [Option.some.injEq, Bool.and_eq_true, beq_iff_eq, decide_eq_true_eq, Bool.or_eq_true, grants, exists_eq_left', ← neededLevel_eq]
    cases leg : c.axis[e.axis].commonLeg with
    | none => simp only [reduceCtorEq, false_implies, implies_true, true_and, and_true, and_assoc]
    | some l =>
      simp only [Option.some.injEq, forall_eq', Bool.and_eq_true, decide_eq_true_eq, and_assoc]
      cases s.da.legs[l] with
      | none => simp only [true_or, true_and]
      | some v => simp only [beq_iff_eq, reduceCtorEq, Option.some.injEq, false_or]

theorem State.decideEntry_of_wait {s : State} {e : WaitEntry} (fails : s.waitTest e = false) : s.decideEntry e = .wait := by
  unfold State.decideEntry
  rw [fails]
  rfl

theorem State.decideEntry_homing {s : State} {e : WaitEntry} (passes : s.waitTest e = true) (kind : e.kind = .homing) :
    s.decideEntry e = if s.homingClear e.axis then .grant none none (some (s.travelLimit e.axis)) else .wait := by
  unfold State.decideEntry
  rw [passes, kind]
  rfl

theorem State.decideEntry_scene {s : State} {e : WaitEntry} {x : Nat} (passes : s.waitTest e = true) (kind : e.kind = .scene) (target : e.target = some x) :
    s.decideEntry e = if s.within e.axis x then .grant (some x) (some x) none else .remove .deferred := by
  unfold State.decideEntry
  rw [passes, kind, target]
  rfl

theorem State.decideEntry_hold {s : State} {e : WaitEntry} {v : Nat × Nat} (passes : s.waitTest e = true) (kind : e.kind = .hold)
    (env : s.envelope e.axis = some v) :
    s.decideEntry e = if s.tolerance e.axis < dist (edgeOf e.dir v) s.ac[e.axis].position then .grant none (some (edgeOf e.dir v)) none else .remove .limited := by
  have limit : s.atLimit e.axis e.dir = decide (dist (edgeOf e.dir v) s.ac[e.axis].position ≤ s.tolerance e.axis) := by
    unfold State.atLimit; rw [env]
  unfold State.decideEntry
  rw [passes, kind, env]
  show (if s.atLimit e.axis e.dir then _ else _) = _
  rw [limit]
  by_cases near : dist (edgeOf e.dir v) s.ac[e.axis].position ≤ s.tolerance e.axis
  case pos => rw [if_pos (decide_eq_true near), if_neg (Nat.not_lt.2 near)]
  case neg => rw [if_neg (by simpa using near), if_pos (Nat.lt_of_not_le near)]

theorem State.decideEntry_backOff {s : State} {e : WaitEntry} {v : Nat × Nat} {x : Nat} (passes : s.waitTest e = true) (kind : e.kind = .backOff)
    (env : s.envelope e.axis = some v) (target : e.target = some x) :
    s.decideEntry e = if s.tolerance e.axis < dist (clip x v) s.ac[e.axis].position then .grant (some (clip x v)) (some (clip x v)) none
      else .remove .madeWithoutMotion := by
  unfold State.decideEntry
  rw [passes, kind, env, target]
  rfl

theorem State.homingClear_iff (s : State) (a : Axis) :
    s.homingClear a = true ↔ ∀ b : Axis, b ≠ a → s.shareRule a b = true → s.da.grants[b] = none := by
  unfold State.homingClear
  simp only [List.all_eq_true, mem_axes, forall_const, Bool.or_eq_true, beq_iff_eq, Bool.not_eq_true', Option.isNone_iff_eq_none]
  refine forall_congr' (fun b => ?_)
  cases s.shareRule a b <;> simp [Decidable.or_iff_not_imp_left]

theorem edgeOf_mem {v : Nat × Nat} (ordered : v.1 ≤ v.2) (dir : Dir) : v.1 ≤ edgeOf dir v ∧ edgeOf dir v ≤ v.2 := by
  cases dir with
  | positive => exact ⟨ordered, Nat.le_refl _⟩
  | negative => exact ⟨Nat.le_refl _, ordered⟩

theorem clip_mem {v : Nat × Nat} (ordered : v.1 ≤ v.2) (t : Nat) : v.1 ≤ clip t v ∧ clip t v ≤ v.2 := by
  unfold clip
  omega

/-- Every stop point lies in the envelope (R58). -/
theorem State.stop_mem_envelope {s : State} {e : WaitEntry} {d : DriveAxis} {t st tr : Option Nat} (drive : s.driveAxis e.axis = some d)
    (order : d.softLo ≤ d.softHi) (notHoming : e.kind ≠ .homing) (decided : s.decideEntry e = .grant t st tr) :
    ∃ v z, s.envelope e.axis = some v ∧ st = some z ∧ v.1 ≤ z ∧ z ≤ v.2 := by
  have ordered : ∀ v, s.envelope e.axis = some v → v.1 ≤ v.2 := fun v env =>
    have ⟨low, high⟩ := State.position_mem_envelope drive order env
    Nat.le_trans low high
  unfold State.decideEntry at decided
  split at decided
  next => cases decided
  next =>
    split at decided
    next homing => exact absurd homing notHoming
    next =>
      split at decided
      next z _ =>
        split at decided
        next within =>
          cases decided
          obtain ⟨v, env, low, high⟩ := (State.within_iff s e.axis z).1 within
          exact ⟨v, z, env, rfl, low, high⟩
        next => cases decided
      next => cases decided
    next =>
      split at decided
      next v env =>
        split at decided
        next => cases decided
        next =>
          cases decided
          exact ⟨v, _, env, rfl, edgeOf_mem (ordered v env) e.dir⟩
      next => cases decided
    next =>
      split at decided
      next v z env _ =>
        split at decided
        next =>
          cases decided
          exact ⟨v, _, env, rfl, clip_mem (ordered v env) z⟩
        next => cases decided
      next => cases decided

end Machine

open Machine

/-- Settles O13: a scan only grants what passes the budget and leg tests, and otherwise at most lowers a grant. -/
theorem scanKeepsBudget : Obligations.ScanKeepsBudget := by
  intro s d drive
  have within := (State.scan_but (ok := fun _ => True) s).within (fun _ => id) d drive
  exact ⟨within.total, within.legs⟩

/-- Settles O14: the scan drops the first entry with its task raised, and the walk over the rest leaves its axis aside. -/
theorem terminalRemoval : Obligations.TerminalRemoval := by
  intro s e rest c p wait alone held fails
  exact State.removed_first alone (State.scan_terminal wait held fails)

/-- Settles O15: the grant of the first entry by what it makes of the arbiter and of its channel, which the walk over the rest leaves aside. -/
theorem firstEntryGranted : Obligations.FirstEntryGranted := by
  refine ⟨?granted, ?removed, ?tests⟩
  case granted =>
    intro s e rest d target stop travel wait alone held drive passes decided
    have scan := State.scan_grants wait held passes decided
    generalize hu : (s.grantEntry e target stop travel).raiseBypass [] = u at scan
    obtain ⟨chans, _, _, kind⟩ := State.grantEntry_spec s e target stop travel drive
    obtain ⟨list, grants⟩ := State.grantEntry_da s e target stop travel drive
    have walk : State.Aside e.axis u s.scan := by rw [scan]; exact scanWalk_aside rest false [] u alone
    have only : (s.grantEntry e target stop travel).da.wait = rest := by rw [list]; exact State.dropEntry_first wait alone
    have bypass := State.Aside.raiseBypass (a := e.axis) (s.grantEntry e target stop travel) []
    rw [hu] at bypass
    have own : s.scan.ac[e.axis] = (s.grantEntry e target stop travel).ac[e.axis] := walk.chan.trans bypass.chan
    refine ⟨walk.wait (bypass.wait (by rw [only]; exact alone)), ⟨_, walk.grant.trans (bypass.grant.trans ((grants _).trans (if_pos rfl))), rfl, rfl, rfl, rfl, rfl, rfl⟩,
      fun marker => ⟨?_, fun free => ?_⟩, fun marker => ?_, fun last => ?_, fun notHoming order => State.stop_mem_envelope drive order notHoming decided⟩
    · rw [own]
      rcases kind with ⟨_, same, _⟩ | ⟨off, _⟩
      · rw [same]
      · rw [marker] at off; cases off
    · obtain ⟨w, write, what⟩ := State.grantEntry_held e target stop travel drive marker free
      have store : u.st.write = (s.grantEntry e target stop travel).st.write := bypass.write (by rw [write]; rfl)
      exact ⟨w, (walk.write (by rw [store, write]; rfl)).trans (store.trans write), what⟩
    · obtain ⟨motion, stray, dir, c, move⟩ := State.grantEntry_started e target stop travel drive marker
      rw [own]
      exact ⟨motion, stray, dir, _, move, rfl, rfl, rfl, rfl, rfl, rfl, rfl, rfl, rfl, rfl, rfl⟩
    · subst last
      have done : s.scan = u := scan
      rw [done, ← hu]
      refine ⟨?_, fun b other => chans b other⟩
      show (s.grantEntry e target stop travel).da.wait.map _ = []
      rw [only]
      rfl
  case removed =>
    intro s e rest why wait alone held passes decided
    exact State.removed_first alone (State.scan_removes wait held passes decided)
  case tests =>
    intro s e
    refine ⟨State.waitTest_iff s e, State.decideEntry_of_wait, fun passes => ?_⟩
    refine ⟨fun x => State.decideEntry_scene passes, fun v kind env => ?_, fun v x => State.decideEntry_backOff passes, fun d kind drive clear => ?_,
      fun b kind other shares granted => ?_⟩
    · have decided := State.decideEntry_hold passes kind env
      unfold edgeOf at decided
      exact decided
    · have limit : s.travelLimit e.axis = d.softHi - d.softLo + 2000 := by
        unfold State.travelLimit; rw [State.softRange_of_drive drive]; rfl
      rw [State.decideEntry_homing passes kind, ← limit]
      exact if_pos ((s.homingClear_iff e.axis).2 clear)
    · rw [State.decideEntry_homing passes kind]
      exact if_neg (fun clear => granted ((s.homingClear_iff e.axis).1 clear b other shares))

end Sys2Proof
end

section
/-! What stops leave of the units outside the channels; the soft reset, the store's writes, Service Mode, park and wake (10.4, 10.5; 12.3, 12.4). -/

namespace Sys2Proof
namespace Machine

/-! ## What a stop leaves outside the channels -/

/-- Nothing but channels, latches, heat, validity, grants and the levels of legs is touched, and no pad's entry is raised. -/
structure State.InChannels (u t : State) : Prop where
  jm : t.jm = u.jm
  wait : t.da.wait = u.da.wait
  arrival : t.da.arrival = u.da.arrival
  legFault : t.da.legFault = u.da.legFault
  iu : t.iu = u.iu
  sp : t.sp = u.sp
  st : t.st = u.st
  np : t.np = u.np
  ps : t.ps = u.ps
  picks : t.picks = u.picks
  pending : t.pending = u.pending
  heat : ∀ a : Axis, t.tw[a].heat = u.tw[a].heat
  entries : ∀ p : Pad, Task.padEntry p ∈ t.raised → Task.padEntry p ∈ u.raised

theorem State.InChannels.refl (s : State) : s.InChannels s := ⟨rfl, rfl, rfl, rfl, rfl, rfl, rfl, rfl, rfl, rfl, rfl, fun _ => rfl, fun _ => id⟩

theorem State.InChannels.trans {u v t : State} (h : u.InChannels v) (k : v.InChannels t) : u.InChannels t :=
  ⟨k.jm.trans h.jm, k.wait.trans h.wait, k.arrival.trans h.arrival, k.legFault.trans h.legFault, k.iu.trans h.iu, k.sp.trans h.sp, k.st.trans h.st,
    k.np.trans h.np, k.ps.trans h.ps, k.picks.trans h.picks, k.pending.trans h.pending, fun a => (k.heat a).trans (h.heat a), fun p e => h.entries p (k.entries p e)⟩

theorem State.InChannels.of {u t : State} {ac lc tw validity grants legs}
    (h : t = { u with ac := ac, lc := lc, tw := tw, validity := validity, da := { u.da with grants := grants, legs := legs } })
    (heat : ∀ a : Axis, tw[a].heat = u.tw[a].heat := by exact fun _ => rfl) : u.InChannels t := by
  subst h
  exact ⟨rfl, rfl, rfl, rfl, rfl, rfl, rfl, rfl, rfl, rfl, rfl, heat, fun _ => id⟩

theorem State.InChannels.emit {s : State} {l : List Task} (h : ∀ p : Pad, Task.padEntry p ∉ l) : s.InChannels (s.emit l) :=
  ⟨rfl, rfl, rfl, rfl, rfl, rfl, rfl, rfl, rfl, rfl, rfl, fun _ => rfl, fun p e => (List.mem_append.1 e).resolve_right (h p)⟩

theorem State.InChannels.each {α : Type} {f : State → α → State} (h : ∀ (s : State) (x : α), s.InChannels (f s x)) : ∀ (l : List α) (s : State), s.InChannels (s.each l f)
  | [], s => .refl s
  | x :: l, s => (h s x).trans (State.InChannels.each h l (f s x))

theorem State.InChannels.ite {c : Prop} [Decidable c] {u v w : State} (hv : u.InChannels v) (hw : u.InChannels w) : u.InChannels (if c then v else w) := by
  split
  next => exact hv
  next => exact hw

/-- A change of an axis's wear and cooling timer keeps its heat. -/
theorem setThermal_heat {v : Vector Thermal 7} {a : Axis} {x : Thermal} (h : x.heat = v[a].heat) (b : Axis) : (v.set a x)[b].heat = v[b].heat := by
  rw [Machine.setSlot_get]
  split
  next e => rw [e, h]
  next => rfl

theorem State.freeLeg_inChannels (s : State) (l : Option Leg) : s.InChannels (s.freeLeg l) := .of (s.freeLeg_same l)

theorem State.withdraw_inChannels (s : State) (a : Axis) : s.InChannels (s.withdraw a) := by
  have cleared : s.InChannels (s.setGrant a none) := .of rfl
  exact cleared.trans (State.freeLeg_inChannels _ _)

theorem State.enterBraking_inChannels (s : State) (a : Axis) (code : Code) (pred : Option Nat) : s.InChannels (s.enterBraking a code pred) := by
  unfold State.enterBraking
  refine .trans ?_ (.emit (fun p h => by simp at h))
  refine .trans ?_ (State.freeLeg_inChannels _ _)
  exact .of rfl (fun b => setThermal_heat (by rfl) b)

theorem State.sensorTest_inChannels (s : State) (a : Axis) : s.InChannels (s.sensorTest a) := by
  cases h : s.sensorFaulty a with
  | false => rw [State.sensorTest_sound_eq h]; exact .refl s
  | true =>
    obtain ⟨l, hl⟩ := State.sensorFaulty_latch h
    have faulted : s.InChannels (s.faulted a l) := .of rfl
    rw [State.sensorTest_faulty_eq hl h]
    exact .ite (faulted.trans (State.enterBraking_inChannels _ _ _ _)) faulted

theorem Channel.moveEnd_no_entry (c : Channel) (a : Axis) (p : Pad) : Task.padEntry p ∉ c.moveEnd a := by
  unfold Channel.moveEnd
  split
  next =>
    split
    next => simp
    next => simp
  next => simp

theorem State.claimCheck_no_entry (s : State) (a : Axis) (p : Pad) : Task.padEntry p ∉ s.claimCheck a := by
  unfold State.claimCheck
  split
  next => simp
  next => simp

theorem State.enterDwell_inChannels (s : State) (a : Axis) : s.InChannels (s.enterDwell a) := by
  cases hm : s.ac[a].move with
  | none =>
    unfold State.enterDwell
    rw [hm]
    refine .trans (.of rfl) (.emit (fun p h => ?_))
    rcases List.mem_append.1 h with h | h
    · exact s.claimCheck_no_entry a p h
    · simp at h
  | some m =>
    rw [State.enterDwell_eq hm]
    refine .trans ((State.InChannels.of (s.dwelled_same a m) (fun b => setThermal_heat (by rfl) b)).trans (State.sensorTest_inChannels _ a)) (.emit (fun p h => ?_))
    rcases List.mem_append.1 h with h | h
    · rcases List.mem_append.1 h with h | h
      · exact Channel.moveEnd_no_entry _ a p h
      · exact s.claimCheck_no_entry a p h
    · simp at h

theorem State.stopAxis_inChannels (s : State) (a : Axis) (code : Code) (pred : Option Nat) : s.InChannels (s.stopAxis a code pred) := by
  unfold State.stopAxis
  split
  next =>
    dsimp only
    have flagged : s.InChannels (if code = .overcurrent then s.modChan a (fun c => { c with overcurrent := true }) else s) := .ite (.of rfl) (.refl s)
    refine flagged.trans (.ite ?_ (State.enterBraking_inChannels _ _ _ _))
    generalize (if code = .overcurrent then s.modChan a (fun c => { c with overcurrent := true }) else s) = u
    have dropped : u.InChannels (u.dropSolenoid a) := by
      rw [State.dropSolenoid_same]
      exact .of rfl
    have marked (f : Move → Move) : (u.dropSolenoid a).InChannels ((u.dropSolenoid a).modMove a f) := .of rfl
    exact (dropped.trans (marked _)).trans (State.enterDwell_inChannels _ a)
  next => exact .refl s

/-! ## Work with no job to reach -/

/-- No job, no entry and no held grant: work that an event raises here finds nothing to do. -/
structure State.Bare (s : State) : Prop where
  slots : ∀ j : Slot, s.jm.slots[j] = none
  scenes : s.jm.scenes = []
  wait : s.da.wait = []
  held : ∀ a : Axis, s.heldGrant a = none

/-- Any work but a pad's entry. -/
def Task.NoEntry (t : Task) : Prop := ∀ p : Pad, t ≠ .padEntry p

theorem State.emit_nil (s : State) : s.emit [] = s := by
  unfold State.emit
  rw [List.append_nil]

theorem State.Bare.idles {s : State} (h : s.Bare) : s.Idles Task.NoEntry := by
  have idle {t : Task} (same : s.runTask t = s) : ∃ l, (∀ u ∈ l, Task.NoEntry u) ∧ s.runTask t = s.emit l :=
    ⟨[], fun _ m => (by cases m), by rw [same, State.emit_nil]⟩
  have stopped (j : Slot) : s.runningJob j = none := by unfold State.runningJob; rw [h.slots j]
  intro t other
  cases t with
  | scan =>
    refine idle ?_
    show s.scan = s
    exact State.scan_of_idle h.wait h.held
  | moveEnd e => exact idle (show s.takeMoveEnd e = s by unfold State.takeMoveEnd; rw [h.slots])
  | removed e why => exact idle (show s.takeRemoved e why = s by unfold State.takeRemoved; rw [h.slots])
  | relock a j passed =>
    have fails : s.relockFails a j = s := by unfold State.relockFails; rw [h.slots]
    cases passed with
    | true =>
      refine ⟨[.phaseCheck j, .doneCheck j], fun u m => ?_, ?_⟩
      · have := List.mem_cons.1 m
        intro p e
        subst e
        simp at m
      · show (s.emit [.phaseCheck j]).emit [.doneCheck j] = _
        unfold State.emit
        simp
    | false =>
      refine ⟨[.doneCheck j], fun u m p e => ?_, ?_⟩
      · subst e
        simp at m
      · show (s.relockFails a j).emit [.doneCheck j] = _
        rw [fails]
  | retest =>
    refine idle ?_
    show s.retest = s
    unfold State.retest
    rw [h.scenes]
    exact State.emit_nil _
  | retestRows j l => exact idle (show s.retestWalk j l = s by unfold State.retestWalk; rw [stopped])
  | phaseRows j l => exact idle (show s.walkPhase j l = s by unfold State.walkPhase; rw [stopped])
  | phaseCheck j => exact idle (show s.phaseCheck j = s by unfold State.phaseCheck; rw [stopped])
  | blockedTest j => exact idle (show s.blockedTest j = s by unfold State.blockedTest; rw [stopped])
  | homeNext j => exact idle (show s.homeNext j = s by unfold State.homeNext; rw [stopped])
  | resumeRows j l => exact idle (show s.resumeWalk j l = s by unfold State.resumeWalk; rw [stopped])
  | resumeHoming j => exact idle (show s.resumeHoming j = s by unfold State.resumeHoming; rw [stopped])
  | doneCheck j => exact idle (show s.doneCheck j = s by unfold State.doneCheck; rw [h.slots])
  | padEntry p => exact absurd rfl (other p)

theorem State.Bare.settles {s : State} (h : s.Bare) (entries : ∀ p : Pad, Task.padEntry p ∉ s.raised) :
    State.Settles { s with raised := [] } s.conclude := by
  have bare : State.Bare { s with raised := [] } := ⟨h.slots, h.scenes, h.wait, h.held⟩
  have same : s.conclude = State.conclude { s with raised := [] } :=
    State.conclude_of_idle (s := { s with raised := [] }) rfl bare.idles (l := s.raised) (fun t m p e => entries p (e ▸ m))
  rw [same]
  exact State.conclude_settles rfl

/-! ## The soft reset -/

theorem State.Bare.inChannels {u t : State} (h : u.Bare) (k : u.InChannels t) (held : ∀ a : Axis, t.heldGrant a = none) : t.Bare :=
  ⟨fun j => by rw [k.jm]; exact h.slots j, by rw [k.jm]; exact h.scenes, by rw [k.wait]; exact h.wait, held⟩

theorem State.Bare.congr {u t : State} (h : u.Bare) (jm : t.jm.slots = u.jm.slots ∧ t.jm.scenes = u.jm.scenes)
    (da : t.da.wait = u.da.wait ∧ t.da.grants = u.da.grants) : t.Bare := by
  refine ⟨fun j => by rw [jm.1]; exact h.slots j, by rw [jm.2]; exact h.scenes, by rw [da.1]; exact h.wait, fun a => ?_⟩
  rw [State.heldGrant_eq, da.2, ← State.heldGrant_eq]
  exact h.held a

/-- Held grants are withdrawn from every axis of a list. -/
theorem State.withdrawn_held : ∀ (l : List Axis) (s : State) (b : Axis), b ∈ l ∨ s.heldGrant b = none →
    (s.each l (fun t a => if (t.heldGrant a).isSome then t.withdraw a else t)).heldGrant b = none
  | [], _, b, h => h.resolve_left (List.not_mem_nil)
  | a :: l, s, b, h => by
    have gone : (s.withdraw a).heldGrant a = none := by
      rw [State.heldGrant_eq]
      show ((s.setGrant a none).freeLeg (s.grantLeg a)).da.grants[a].filter (fun g => g.held) = none
      rw [State.freeLeg_grants, State.setGrant_get, if_pos rfl]
      rfl
    have kept (free : s.heldGrant b = none) : (s.withdraw a).heldGrant b = none := by
      by_cases e : b = a
      · rw [e]; exact gone
      · rw [State.heldGrant_eq] at free ⊢
        show ((s.setGrant a none).freeLeg (s.grantLeg a)).da.grants[b].filter (fun g => g.held) = none
        rw [State.freeLeg_grants, State.setGrant_get, if_neg e]
        exact free
    refine State.withdrawn_held l _ b ?_
    by_cases later : b ∈ l
    · exact .inl later
    · refine .inr ?_
      show (if (s.heldGrant a).isSome then s.withdraw a else s).heldGrant b = none
      by_cases e : b = a
      · subst e
        split
        next => exact gone
        next none => simpa using none
      · have free := h.resolve_left (fun m => (List.mem_cons.1 m).elim e later)
        split
        next => exact kept free
        next => exact free

/-- The jobs, the claims, the wait list and the flags as a soft reset leaves them, before the held grants are withdrawn. -/
def State.jobless (s : State) : State :=
  { s with jm := .reset, ac := s.ac.map Channel.softReset, da := { s.da with wait := [], arrival := 0 } }

theorem State.dropJobs_inChannels (s : State) : s.jobless.InChannels s.dropJobs :=
  State.InChannels.each (fun t a => .ite (t.withdraw_inChannels a) (.refl t)) axes s.jobless

theorem State.dropJobs_ac (s : State) : s.dropJobs.ac = s.ac.map Channel.softReset := by
  refine (State.each_ac (fun (t : State) (a : Axis) => if (t.heldGrant a).isSome then t.withdraw a else t) (fun t a => ?_) axes s.jobless).trans rfl
  split
  next => exact t.withdraw_ac a
  next => rfl

theorem State.dropJobs_bare (s : State) : s.dropJobs.Bare := by
  have slot (j : Slot) : JobManager.reset.slots[j] = none := Vector.getElem_replicate ..
  have fields := s.dropJobs_inChannels
  exact ⟨fun j => by rw [fields.jm]; exact slot j, by rw [fields.jm]; rfl, by rw [fields.wait]; rfl,
    fun a => State.withdrawn_held axes s.jobless a (.inl (mem_axes a))⟩

theorem State.stopAll_inChannels (s : State) : s.InChannels s.stopAll := .each (fun t a => t.stopAxis_inChannels a _ _) _ s

theorem State.stopAll_held (s : State) (h : ∀ a : Axis, s.heldGrant a = none) : ∀ a : Axis, s.stopAll.heldGrant a = none :=
  State.each_keeps (q := fun t => ∀ a : Axis, t.heldGrant a = none) _ (fun t a k => (t.stopAxis_only a _ _).no_held k) _ s h

/-! ## The reload -/

theorem State.scanOnChange_eq (s : State) (before : List (List Bool)) : s.scanOnChange before = s ∨ s.scanOnChange before = s.emit [.scan] := by
  unfold State.scanOnChange
  split
  next => exact .inl rfl
  next => exact .inr rfl

/-- The state after a reload that found these areas, before the scan that a changed predicate starts (R189). -/
def State.reloaded (s : State) (st : StoreCtl) : State :=
  let s1 := { s with
    st := { st with service := false, serviceTimer := .stopped, leavePending := false }
    sp := { s.sp with marker := match st.learned with | some x => x.marker | none => false } }
  { s1 with
    da := { s1.da with legFault := Vector.ofFn (fun l => s1.da.legFault[l] && s1.isCommonLeg l) }
    tw := s1.tw.map s1.reheat }

theorem State.leaveService_eq (s : State) :
    s.leaveService = s.reloaded (loadStore s.st) ∨ s.leaveService = (s.reloaded (loadStore s.st)).emit [.scan] := by
  unfold State.leaveService
  generalize loadStore s.st = st
  exact State.scanOnChange_eq (s.reloaded st) _

theorem State.Bare.resetUnits {u : State} (h : u.Bare) : u.resetUnits.Bare := h.congr ⟨rfl, rfl⟩ ⟨rfl, rfl⟩
theorem State.Bare.resetPort {u : State} (h : u.Bare) : u.resetPort.Bare := h.congr ⟨rfl, rfl⟩ ⟨rfl, rfl⟩
theorem State.Bare.reloaded {u : State} (h : u.Bare) (st : StoreCtl) : (u.reloaded st).Bare := h.congr ⟨rfl, rfl⟩ ⟨rfl, rfl⟩
theorem State.Bare.emit {u : State} (h : u.Bare) (l : List Task) : (u.emit l).Bare := h.congr ⟨rfl, rfl⟩ ⟨rfl, rfl⟩
theorem State.Bare.setAnswer {u : State} (h : u.Bare) (r : Role) (x : Option Answer) : (u.setAnswer r x).Bare := h.congr ⟨rfl, rfl⟩ ⟨rfl, rfl⟩

theorem State.jobless_raised (u : State) : u.jobless.raised = u.raised := rfl
theorem State.resetUnits_raised (u : State) : u.resetUnits.raised = u.raised := rfl
theorem State.resetPort_raised (u : State) : u.resetPort.raised = u.raised := rfl
theorem State.reloaded_raised (u : State) (st : StoreCtl) : (u.reloaded st).raised = u.raised := rfl

/-- A reload is done at once, or raises a scan. -/
theorem State.reloadInService_eq (u : State) : u.reloadInService = u
    ∨ ∃ l, (∀ p : Pad, Task.padEntry p ∉ l) ∧ u.reloadInService = (u.reloaded (loadStore u.st)).emit l := by
  unfold State.reloadInService
  split
  next =>
    refine .inr ?_
    rcases u.leaveService_eq with e | e
    · exact ⟨[], fun p m => (by cases m), by rw [e, State.emit_nil]⟩
    · exact ⟨[.scan], fun p m => (by simp at m), e⟩
  next => exact .inl rfl

/-- The state of a soft reset before its answer. -/
def State.afterReset (s : State) : State := s.dropJobs.stopAll.resetUnits.reloadInService.resetPort

theorem State.softResetNow_answer (s : State) (tag : BitVec 4) :
    s.softResetNow tag = s.afterReset.answer .service .softReset tag (.bare .done) := s.softResetNow_eq tag

theorem State.afterReset_bare (s : State) : s.afterReset.Bare := by
  have dropped := s.dropJobs_bare
  have reset := (dropped.inChannels s.dropJobs.stopAll_inChannels (State.stopAll_held _ dropped.held)).resetUnits
  refine State.Bare.resetPort ?_
  rcases s.dropJobs.stopAll.resetUnits.reloadInService_eq with e | ⟨l, _, e⟩
  · rw [e]; exact reset
  · rw [e]; exact (reset.reloaded _).emit l

theorem State.afterReset_entries {s : State} (quiet : s.Quiet) (p : Pad) : Task.padEntry p ∉ s.afterReset.raised := by
  have stopped : Task.padEntry p ∉ s.dropJobs.stopAll.resetUnits.raised := by
    rw [State.resetUnits_raised]
    intro m
    have dropped := s.dropJobs.stopAll_inChannels.entries p m
    have before := s.dropJobs_inChannels.entries p dropped
    rw [State.jobless_raised, quiet] at before
    cases before
  unfold State.afterReset
  rcases s.dropJobs.stopAll.resetUnits.reloadInService_eq with e | ⟨l, none, e⟩
  · rw [State.resetPort_raised, e]; exact stopped
  · rw [State.resetPort_raised, e, State.emit_work, List.mem_append, State.reloaded_raised]
    exact fun m => m.elim stopped (none p)

/-- A soft reset raises no work that finds anything to do (R112). -/
theorem State.softResetNow_settles {s : State} (quiet : s.Quiet) (tag : BitVec 4) :
    State.Settles { s.softResetNow tag with raised := [] } (s.softResetNow tag).conclude := by
  obtain ⟨y, answered⟩ := s.afterReset.answer_eq .service .softReset tag (.bare .done)
  rw [State.softResetNow_answer, answered]
  exact (s.afterReset_bare.setAnswer .service (some y)).settles (fun p => by
    rw [State.setAnswer_raised]
    exact State.afterReset_entries quiet p)

end Machine
end Sys2Proof
end

section
/-! The soft reset, the ends of the store's writes, Service Mode's end, park and wake (10.4, 10.5; 12.3, 12.4). -/

namespace Sys2Proof
namespace Machine

/-! ## A soft reset's parts -/

theorem State.enterDwell_overcurrent (s : State) (a : Axis) : (s.enterDwell a).ac[a].overcurrent = s.ac[a].overcurrent := by
  cases hm : s.ac[a].move with
  | none =>
    unfold State.enterDwell
    rw [hm]
    dsimp only
    rw [State.emit_ac, State.setGrant_ac, State.modChan_get, if_pos rfl]
  | some m =>
    rw [State.enterDwell_chan hm]
    rfl

/-- A stop with another outcome than OVERCURRENT leaves the overcurrent flag (R33). -/
theorem State.stopAxis_keeps_overcurrent (s : State) (a : Axis) {code : Code} (other : code ≠ .overcurrent) (pred : Option Nat) (b : Axis) :
    (s.stopAxis a code pred).ac[b].overcurrent = s.ac[b].overcurrent := by
  by_cases e : b = a
  case neg => rw [(s.stopAxis_only a code pred).ac b e]
  case pos =>
    subst e
    unfold State.stopAxis
    split
    next =>
      dsimp only
      split
      next =>
        generalize hv : (s.dropSolenoid b).modMove b _ = v
        have chan : v.ac[b].overcurrent = s.ac[b].overcurrent := by
          rw [← hv]
          show (State.modChan _ b _).ac[b].overcurrent = _
          rw [State.modChan_get, if_pos rfl, State.dropSolenoid_same]
        exact (v.enterDwell_overcurrent b).trans chan
      next => rw [State.enterBraking_chan]; rfl
    next => rfl

/-- What the stop requests of a soft reset make of a channel (R44). -/
theorem State.stopAll_get (s : State) (a : Axis) : s.stopAll.ac[a].motion.stoppable = false ∧ s.stopAll.ac[a].overcurrent = s.ac[a].overcurrent
    ∧ s.ac[a].Loose s.stopAll.ac[a] := by
  have loose : s.ac[a].Loose s.stopAll.ac[a] :=
    (State.each_but (ok := fun _ => True) (p := noAxis) _ s.stoppableAxes s (fun t b _ => State.stopAxis_but t b .stopped none)).loose a
  refine ⟨?_, ?_, loose⟩
  · obtain ⟨moving, still⟩ := State.stops_get .stopped none s.stoppableAxes s a
    by_cases h : a ∈ s.stoppableAxes
    · obtain ⟨v, _, run⟩ := moving h
      exact run ▸ v.stopAxis_stops a .stopped none
    · have rests : s.ac[a].motion.stoppable = false := by
        refine Classical.byContradiction (fun k => ?_)
        exact h (List.mem_filter.2 ⟨mem_axes a, by simpa using k⟩)
      exact still h ▸ rests
  · exact State.each_keeps (q := fun t => t.ac[a].overcurrent = s.ac[a].overcurrent) _
      (fun t b k => (t.stopAxis_keeps_overcurrent b (by decide) none a).trans k) _ s rfl

theorem State.reloaded_jm (s : State) (st : StoreCtl) : (s.reloaded st).jm = s.jm := rfl
theorem State.resetPort_jm (s : State) : s.resetPort.jm = s.jm := rfl
theorem State.resetUnits_jm (s : State) : s.resetUnits.jm = s.jm := rfl

theorem State.afterReset_jm (s : State) : s.afterReset.jm = .reset := by
  have units : s.dropJobs.stopAll.resetUnits.jm = .reset := by
    rw [State.resetUnits_jm, s.dropJobs.stopAll_inChannels.jm, s.dropJobs_inChannels.jm]
    rfl
  unfold State.afterReset
  rw [State.resetPort_jm]
  rcases s.dropJobs.stopAll.resetUnits.reloadInService_eq with e | ⟨l, _, e⟩
  · rw [e, units]
  · rw [e, State.emit_jm, State.reloaded_jm, units]

theorem State.resetUnits_ac (s : State) : s.resetUnits.ac = s.ac := rfl
theorem State.resetUnits_lc (s : State) : s.resetUnits.lc = s.lc.map Latch.softReset := rfl
theorem State.resetUnits_da (s : State) : s.resetUnits.da = s.da := rfl
theorem State.resetUnits_tw (s : State) : s.resetUnits.tw = s.tw := rfl
theorem State.resetUnits_iu (s : State) : s.resetUnits.iu = .reset := rfl
theorem State.resetUnits_st (s : State) :
    s.resetUnits.st = { s.st with serviceTimer := .stopped, leavePending := false, resetQueued := none, markerQueued := false } := rfl

theorem State.resetPort_st (s : State) : s.resetPort.st = s.st := rfl
theorem State.jobless_st (s : State) : s.jobless.st = s.st := rfl

theorem State.stopped_st (s : State) : s.dropJobs.stopAll.st = s.st := by
  rw [s.dropJobs.stopAll_inChannels.st, s.dropJobs_inChannels.st, State.jobless_st]

/-- Outside Service Mode the state after a soft reset has no reload in it. -/
theorem State.afterReset_off {s : State} (off : s.st.service = false) : s.afterReset = s.dropJobs.stopAll.resetUnits.resetPort := by
  unfold State.afterReset State.reloadInService
  rw [if_neg]
  rw [State.resetUnits_st, State.stopped_st, off]
  decide

/-- A write in progress and a queued reset after a soft reset (R190). -/
theorem State.afterReset_write (s : State) : s.afterReset.st.write = s.st.write ∧ s.afterReset.st.resetQueued = none := by
  have units : s.dropJobs.stopAll.resetUnits.st.write = s.st.write ∧ s.dropJobs.stopAll.resetUnits.st.resetQueued = none := by
    rw [State.resetUnits_st, State.stopped_st]
    exact ⟨rfl, rfl⟩
  unfold State.afterReset
  rw [State.resetPort_st]
  rcases s.dropJobs.stopAll.resetUnits.reloadInService_eq with e | ⟨l, _, e⟩
  · rw [e]; exact units
  · have loaded (st : StoreCtl) : (loadStore st).write = st.write ∧ (loadStore st).resetQueued = st.resetQueued := by
      unfold loadStore
      dsimp only
      split
      next => exact ⟨rfl, rfl⟩
      next => exact ⟨rfl, rfl⟩
    have reload (u : State) (st : StoreCtl) : ((u.reloaded st).emit l).st.write = st.write ∧ ((u.reloaded st).emit l).st.resetQueued = st.resetQueued := ⟨rfl, rfl⟩
    rw [e, (reload _ _).1, (reload _ _).2, (loaded _).1, (loaded _).2]
    exact units

theorem Latch.softReset_fields (l : Latch) : l.softReset.solenoid = .off ∧ l.softReset.relock = .none
    ∧ (l.softReset.sensorFault = false → l.softReset.state = .unknown ∧ l.softReset.firstReading = true) := by
  unfold Latch.softReset Latch.drop
  cases l.sensorFault <;> simp

/-- What a soft reset settles into, in Service Mode or out of it. -/
theorem State.softReset_ends {s : State} (quiet : s.Quiet) (tag : BitVec 4) :
    ∃ y, State.Settles { s.afterReset.setAnswer .service (some y) with raised := [] } (s.softResetNow tag).conclude := by
  obtain ⟨y, answered⟩ := s.afterReset.answer_eq .service .softReset tag (.bare .done)
  refine ⟨y, ?_⟩
  have settles := State.softResetNow_settles quiet tag
  rw [State.softResetNow_answer, answered] at settles ⊢
  exact settles

theorem State.softReset_answers {s : State} (quiet : s.Quiet) (tag : BitVec 4) :
    (s.softResetNow tag).conclude.Answers .service .softReset tag .done (Config.absentDetail 13 0) := by
  have answered (u : State) : State.Answers { u.answer .service .softReset tag (.bare .done) with raised := [] } .service .softReset tag .done (Config.absentDetail 13 0) :=
    u.answer_answers .service .softReset tag (.bare .done)
  have settles := State.softResetNow_settles quiet tag
  rw [State.softResetNow_answer] at settles ⊢
  exact State.Answers.settles settles (answered _)

end Machine

open Machine

/-- Settles O29: the state that a soft reset settles into, part by part. -/
theorem softResetClears : Obligations.SoftResetClears := by
  intro s id tag quiet hears idle off
  have effect : s.effect (.softReset id tag) = s.softResetNow tag := by
    rw [State.effect_softReset hears, State.heard_off off]
    unfold State.reqSoftReset
    rw [State.gate_eq_none rfl rfl]
    dsimp only
    unfold State.softReset
    rw [if_neg (by rw [idle]; decide)]
  obtain ⟨y, settles⟩ := State.softReset_ends quiet tag
  have answers := State.softReset_answers quiet tag
  have jm := s.afterReset_jm
  have bare := s.afterReset_bare
  rw [State.afterReset_off off] at settles jm bare
  have stopped := s.dropJobs.stopAll_inChannels
  have dropped := s.dropJobs_inChannels
  have store := s.stopped_st
  have chans := s.dropJobs.stopAll_get
  have chan (a : Axis) : s.dropJobs.ac[a] = s.ac[a].softReset := by rw [State.dropJobs_ac]; exact Vector.getElem_map ..
  have legs : s.dropJobs.stopAll.da.legFault = s.da.legFault := stopped.legFault.trans dropped.legFault
  have heat (a : Axis) : s.dropJobs.stopAll.tw[a].heat = s.tw[a].heat := (stopped.heat a).trans (dropped.heat a)
  generalize s.dropJobs.stopAll = v at settles jm bare store chans legs heat
  generalize ht : (s.softResetNow tag).conclude = t at settles answers
  obtain ⟨attended, scenes, services, doneList⟩ := settles.lists
  have wait : v.da.wait = [] := bare.wait
  refine ⟨t, by rw [exec_eq, effect, ht], fun j => ?_, ?_, ?_, ?_, ?_, fun a => ⟨?_, ?_⟩, fun l => ?_, ?_, ?_, ?_, by rw [settles.iu]; rfl, by rw [settles.iu]; rfl, ?_,
    fun p => ?_, answers⟩
  · rw [settles.slots]; exact bare.slots j
  · rw [attended]; exact congrArg JobManager.attended jm
  · rw [scenes]; exact congrArg JobManager.scenes jm
  · rw [services]; exact congrArg JobManager.services jm
  · rw [doneList]; exact congrArg JobManager.doneList jm
  · rw [settles.claims]
    exact (congrArg (fun m : JobManager => m.claims[a]) jm).trans (Vector.getElem_replicate ..)
  · obtain ⟨still, current, loose⟩ := chans a
    rw [chan a] at current loose
    obtain ⟨limit, stall, obstruction⟩ := loose.flags
    rw [settles.ac, settles.tw]
    exact ⟨still, limit, stall, obstruction, current, loose.position, loose.lockedOut, loose.trims.1, loose.trims.2, heat a⟩
  · have latch : t.lc[l] = v.lc[l].softReset := by rw [settles.lc]; exact Vector.getElem_map ..
    rw [latch]
    exact Latch.softReset_fields _
  · rw [settles.da]; exact wait
  · rw [settles.da]
    show (if v.da.wait.isEmpty then 0 else v.da.arrival) = 0
    rw [wait]
    rfl
  · rw [settles.da]; exact legs
  · rw [settles.st, ← store]
    rfl
  · rw [settles.lastPad]
    exact (congrArg (fun m : JobManager => m.lastPad[padNo p]) jm).trans (Vector.getElem_replicate ..)

end Sys2Proof
end

section
/-! The ends of the store's writes, Service Mode's end, park and wake (10.4, 10.5; 12.2, 12.3). -/

namespace Sys2Proof
namespace Machine

/-! ## Reading after a write, of any store -/

theorem memRead_memPut_other {a x : Nat} (other : x ≠ a) (b : Byte) : ∀ m : List Host.Cell, memRead (memPut m a b) x = memRead m x
  | [] => by
    unfold memPut
    split
    next => rfl
    next => exact if_neg other.symm
  | (k, v) :: rest => by
    unfold memPut
    split
    next =>
      split
      next => rfl
      next => exact if_neg other.symm
    next =>
      split
      next same =>
        subst same
        have skip : memRead ((a, v) :: rest) x = memRead rest x := if_neg other.symm
        split
        next => exact skip.symm
        next => exact (if_neg other.symm : memRead ((a, b) :: rest) x = memRead rest x).trans skip.symm
      next =>
        unfold memRead
        rw [memRead_memPut_other other b rest]

/-- A byte that no write of a list addresses stays as it was (R188). -/
theorem memRead_memWriteAll_other {x : Nat} : ∀ (l : List (Nat × Byte)) (m : List Host.Cell), (∀ b, (x, b) ∉ l) → memRead (memWriteAll m l) x = memRead m x
  | [], _, _ => rfl
  | (a, b) :: rest, m, h => by
    have other : x ≠ a := fun e => h b (e ▸ .head _)
    refine (memRead_memWriteAll_other rest (memWrite m a b) (fun c k => h c (.tail _ k))).trans ?_
    unfold memWrite
    split
    next => exact memRead_memPut_other other b m
    next => rfl

/-- The four bytes of a chunk after they have been written. -/
theorem chunkBytes_memWriteAll {m : List Host.Cell} (good : Memory.wf m = true) {n : Nat} (range : n ≤ 511) (b0 b1 b2 b3 : Byte) :
    chunkBytes (memWriteAll m [(4 * n, b0), (4 * n + 1, b1), (4 * n + 2, b2), (4 * n + 3, b3)]) n = [b0, b1, b2, b3] := by
  have size : Config.storeBytes = 2048 := rfl
  have good1 := memWrite_wf (4 * n) b0 good
  have good2 := memWrite_wf (4 * n + 1) b1 good1
  have good3 := memWrite_wf (4 * n + 2) b2 good2
  unfold chunkBytes memWriteAll memWriteAll memWriteAll memWriteAll memWriteAll
  simp only [memRead_memWrite good3 (show 4 * n + 3 < Config.storeBytes by omega), memRead_memWrite good2 (show 4 * n + 2 < Config.storeBytes by omega),
    memRead_memWrite good1 (show 4 * n + 1 < Config.storeBytes by omega), memRead_memWrite good (show 4 * n < Config.storeBytes by omega)]
  simp

/-! ## The end of a service write -/

/-- The state as a service write ends, before what waited for it. -/
def State.written (s : State) (w : StoreWrite) : State := (s.writeStore w).answer .service .storeWrite w.tag (.bare .done)

theorem State.written_eq (s : State) (w : StoreWrite) : ∃ y, s.written w = (s.writeStore w).setAnswer .service (some y) := State.answer_eq ..

theorem State.serviceWritten_eq {s : State} {w : StoreWrite} (write : s.st.write = some w) (service : w.kind = .service) :
    s.serviceWritten = match s.st.resetQueued with
      | some t => (s.written w).softResetNow t
      | none => if s.st.markerQueued then (s.written w).startMarkerWrite else s.written w := by
  have store : (s.written w).st = (s.writeStore w).st := by
    obtain ⟨y, e⟩ := s.written_eq w
    rw [e]
    rfl
  unfold State.serviceWritten
  rw [write]
  dsimp only
  rw [if_neg (by rw [service]; decide)]
  show (match (s.written w).st.resetQueued with
    | some t => (s.written w).softResetNow t
    | none => if (s.written w).st.markerQueued then (s.written w).startMarkerWrite else s.written w) = _
  rw [store]
  rfl

theorem State.startMarkerWrite_st {s : State} (free : s.st.write = none) : ∃ v, v.kind = .marker
    ∧ s.startMarkerWrite = { s with st := { s.st with write := some v, markerQueued := false } } := by
  unfold State.startMarkerWrite
  rw [free]
  exact ⟨_, rfl, rfl⟩

theorem State.afterReset_memory (s : State) : s.afterReset.st.memory = s.st.memory := by
  have units : s.dropJobs.stopAll.resetUnits.st.memory = s.st.memory := by rw [State.resetUnits_st, State.stopped_st]
  have reload (u : State) (st : StoreCtl) (l : List Task) : ((u.reloaded st).emit l).st.memory = st.memory := rfl
  unfold State.afterReset
  rw [State.resetPort_st]
  rcases s.dropJobs.stopAll.resetUnits.reloadInService_eq with e | ⟨l, _, e⟩
  · rw [e, units]
  · rw [e, reload, loadStore_memory, units]

/-! ## Held grants at the end of the marker write (R168) -/

/-- What a held grant's start leaves outside its channel, and of every latch's reading. -/
structure State.Releases (s t : State) : Prop where
  st : t.st = s.st
  sp : t.sp = s.sp
  wait : t.da.wait = s.da.wait
  validity : t.validity = s.validity
  iu : t.iu = s.iu
  raised : t.raised = s.raised
  relock : ∀ l : LatchNo, t.lc[l].relock = s.lc[l].relock

theorem State.Releases.refl (s : State) : s.Releases s := ⟨rfl, rfl, rfl, rfl, rfl, rfl, fun _ => rfl⟩

theorem State.Releases.trans {s u t : State} (h : s.Releases u) (k : u.Releases t) : s.Releases t :=
  ⟨k.st.trans h.st, k.sp.trans h.sp, k.wait.trans h.wait, k.validity.trans h.validity, k.iu.trans h.iu, k.raised.trans h.raised,
    fun l => (k.relock l).trans (h.relock l)⟩

/-- A grant at its latch keeps the latch's reading and its relock check, and every other latch. -/
theorem State.grantLatch_latch (s : State) (a : Axis) (k : MoveKind) (l : LatchNo) :
    (s.grantLatch a k).lc[l].relock = s.lc[l].relock ∧ (s.grantLatch a k).lc[l].state = s.lc[l].state := by
  have kept (n : LatchNo) (f : Latch → Latch) (h : ∀ x, (f x).relock = x.relock ∧ (f x).state = x.state) :
      (s.modLatch n f).lc[l].relock = s.lc[l].relock ∧ (s.modLatch n f).lc[l].state = s.lc[l].state := by
    rw [State.modLatch_get]
    split
    next e => subst e; exact h _
    next => exact ⟨rfl, rfl⟩
  unfold State.grantLatch
  split
  next => exact ⟨rfl, rfl⟩
  next =>
    split
    next => exact kept _ _ (fun _ => ⟨rfl, rfl⟩)
    next => exact kept _ _ (fun _ => ⟨rfl, rfl⟩)
    next =>
      split
      next => exact kept _ _ (fun _ => ⟨rfl, rfl⟩)
      next => exact kept _ _ (fun _ => ⟨rfl, rfl⟩)

theorem State.grantLatch_same (s : State) (a : Axis) (k : MoveKind) : s.grantLatch a k = { s with lc := (s.grantLatch a k).lc } := by
  unfold State.grantLatch
  split
  next => rfl
  next =>
    split
    next => rfl
    next => rfl
    next => split <;> rfl

theorem State.decideRelock_quiet {s : State} (settled : ∀ l : LatchNo, s.lc[l].relock ≠ .pending) (a : Axis) (passed : Bool) : s.decideRelock a passed = s := by
  cases hl : latchOf a with
  | none => unfold State.decideRelock; rw [hl]
  | some l =>
    have axis := latchOf_eq_some_iff.1 hl
    subst axis
    exact State.decideRelock_none (settled l) passed

theorem State.startMove_releases {s : State} (settled : ∀ l : LatchNo, s.lc[l].relock ≠ .pending) (a : Axis) (g : Grant) :
    s.Releases (s.startMove a g) ∧ ∀ l : LatchNo, (s.startMove a g).lc[l].state = s.lc[l].state := by
  unfold State.startMove
  split
  next => exact ⟨.refl s, fun _ => rfl⟩
  next =>
    dsimp only
    rw [State.decideRelock_quiet settled]
    generalize hu : s.modChan a _ = u
    have chan : s.Releases u := by rw [← hu]; exact ⟨rfl, rfl, rfl, rfl, rfl, rfl, fun _ => rfl⟩
    have lc : u.lc = s.lc := by rw [← hu]; rfl
    have latch : u.Releases (u.grantLatch a g.entry.kind) := by
      rw [State.grantLatch_same]
      exact ⟨rfl, rfl, rfl, rfl, rfl, rfl, fun l => (u.grantLatch_latch a g.entry.kind l).1⟩
    have state (l : LatchNo) : (u.grantLatch a g.entry.kind).lc[l].state = s.lc[l].state := by rw [(u.grantLatch_latch a g.entry.kind l).2, lc]
    split
    next => exact ⟨chan.trans latch, state⟩
    next =>
      have warm (v : State) (f : Thermal → Thermal) : v.Releases (v.modHeat a f) := ⟨rfl, rfl, rfl, rfl, rfl, rfl, fun _ => rfl⟩
      exact ⟨(chan.trans latch).trans (warm _ _), state⟩

/-- The state in which a held grant's move starts. -/
def State.unheld (s : State) (a : Axis) (g : Grant) : State := s.setGrant a (some { g with held := false })

theorem State.releaseHeld_some {s : State} {a : Axis} {g : Grant} (held : s.heldGrant a = some g) :
    s.releaseHeld a = ((s.unheld a g).startMove a { g with held := false }).markGranted g.entry.slot a := by
  unfold State.releaseHeld
  rw [held]
  rfl

/-- One axis at the end of the marker write: its held grant starts its move, and nothing else is touched. -/
theorem State.releaseHeld_releases {s : State} (settled : ∀ l : LatchNo, s.lc[l].relock ≠ .pending) (a : Axis) :
    s.Releases (s.releaseHeld a) ∧ (∀ l : LatchNo, (s.releaseHeld a).lc[l].state = s.lc[l].state)
      ∧ ∀ b : Axis, b ≠ a → (s.releaseHeld a).ac[b] = s.ac[b] ∧ (s.releaseHeld a).da.grants[b] = s.da.grants[b] := by
  cases held : s.heldGrant a with
  | none =>
    rw [State.releaseHeld_of_none held]
    exact ⟨.refl s, fun _ => rfl, fun _ _ => ⟨rfl, rfl⟩⟩
  | some g =>
    have calm : ∀ l : LatchNo, (s.unheld a g).lc[l].relock ≠ .pending := settled
    obtain ⟨starts, state⟩ := State.startMove_releases calm a { g with held := false }
    have lifted : s.Releases (s.unheld a g) := ⟨rfl, rfl, rfl, rfl, rfl, rfl, fun _ => rfl⟩
    have marked (u : State) : u.Releases (u.markGranted g.entry.slot a) := ⟨rfl, rfl, rfl, rfl, rfl, rfl, fun _ => rfl⟩
    rw [State.releaseHeld_some held]
    refine ⟨(lifted.trans starts).trans (marked _), state, fun b other => ⟨?_, ?_⟩⟩
    · rw [State.markGranted_ac, State.startMove_other _ _ _ b other]
      rfl
    · show ((s.unheld a g).startMove a { g with held := false }).da.grants[b] = _
      rw [State.startMove_da]
      show (s.setGrant a (some { g with held := false })).da.grants[b] = _
      rw [State.setGrant_get, if_neg other]

/-- A held grant has reached its channel: the grant is held no more and its fresh move has started (R19, R168). -/
def State.Started (s t : State) (a : Axis) (g : Grant) : Prop :=
  t.da.grants[a] = some { g with held := false } ∧ t.ac[a].motion = (if s.latchLocked a then .releasing else .starting)
    ∧ t.ac[a].lastDir = g.entry.dir ∧ t.ac[a].stray = 0
    ∧ ∃ m, t.ac[a].move = some m ∧ m.kind = g.entry.kind ∧ m.dir = g.entry.dir ∧ m.stop = g.stop ∧ m.job = some g.entry.slot ∧ m.samples = 0
      ∧ m.pending = none

theorem State.releaseHeld_started {s : State} {a : Axis} {g : Grant} {d : DriveAxis} (held : s.heldGrant a = some g) (drive : s.driveAxis a = some d) :
    s.Started (s.releaseHeld a) a g := by
  have map : (s.unheld a g).driveAxis a = some d := drive
  obtain ⟨motion, stray, dir, c, move⟩ := State.startMove_get (s.unheld a g) a { g with held := false } map
  rw [State.releaseHeld_some held]
  refine ⟨?_, motion, dir, stray, _, move, rfl, rfl, rfl, rfl, rfl, rfl⟩
  show ((s.unheld a g).startMove a { g with held := false }).da.grants[a] = _
  rw [State.startMove_da]
  exact (State.setGrant_get ..).trans (if_pos rfl)

theorem State.heldGrant_congr {s t : State} {a : Axis} (h : t.da.grants[a] = s.da.grants[a]) : t.heldGrant a = s.heldGrant a := by
  rw [State.heldGrant_eq, State.heldGrant_eq, h]

theorem State.latchLocked_of_states {s t : State} (h : ∀ l : LatchNo, t.lc[l].state = s.lc[l].state) (a : Axis) : t.latchLocked a = s.latchLocked a := by
  cases hl : latchOf a with
  | none => unfold State.latchLocked; rw [State.latch_none hl, State.latch_none hl]
  | some l =>
    unfold State.latchLocked
    rw [State.latch_eq (latchOf_eq_some_iff.1 hl), State.latch_eq (latchOf_eq_some_iff.1 hl)]
    exact congrArg (· == LatchState.locked) (h l)

/-- The held grants of a list of axes reach their channels, one after another (R168). -/
theorem State.releaseAll_releases : ∀ (l : List Axis) (s : State), l.Nodup → (∀ n : LatchNo, s.lc[n].relock ≠ .pending) → s.st.drive.isSome = true →
    s.Releases (s.each l State.releaseHeld)
      ∧ (∀ a ∈ l, ∀ g, s.heldGrant a = some g → s.Started (s.each l State.releaseHeld) a g)
      ∧ ∀ a : Axis, a ∉ l ∨ s.heldGrant a = none →
        (s.each l State.releaseHeld).ac[a] = s.ac[a] ∧ (s.each l State.releaseHeld).da.grants[a] = s.da.grants[a]
  | [], s, _, _, _ => ⟨.refl s, fun _ m => (by cases m), fun _ _ => ⟨rfl, rfl⟩⟩
  | b :: l, s, distinct, settled, drive => by
    obtain ⟨fresh, distinct'⟩ := List.nodup_cons.1 distinct
    obtain ⟨first, state, others⟩ := State.releaseHeld_releases settled b
    obtain ⟨rest, started, kept⟩ := State.releaseAll_releases l (s.releaseHeld b) distinct' (fun n => by rw [first.relock]; exact settled n)
      (by rw [first.st]; exact drive)
    show s.Releases ((s.releaseHeld b).each l State.releaseHeld) ∧ (∀ a ∈ b :: l, ∀ g, s.heldGrant a = some g → s.Started ((s.releaseHeld b).each l State.releaseHeld) a g)
      ∧ ∀ a : Axis, a ∉ b :: l ∨ s.heldGrant a = none → ((s.releaseHeld b).each l State.releaseHeld).ac[a] = s.ac[a]
        ∧ ((s.releaseHeld b).each l State.releaseHeld).da.grants[a] = s.da.grants[a]
    refine ⟨first.trans rest, fun a m g held => ?_, fun a h => ?_⟩
    · rcases List.mem_cons.1 m with rfl | later
      · obtain ⟨d, map⟩ : ∃ d, s.driveAxis a = some d := by
          obtain ⟨c, hc⟩ := Option.isSome_iff_exists.1 drive
          exact ⟨c.axis[a], by unfold State.driveAxis; rw [hc]; rfl⟩
        obtain ⟨chan, grant⟩ := kept a (.inl fresh)
        have done := State.releaseHeld_started held map
        unfold State.Started at done ⊢
        rw [chan, grant]
        exact done
      · have other : a ≠ b := fun e => fresh (e ▸ later)
        have same : (s.releaseHeld b).heldGrant a = some g := (State.heldGrant_congr (others a other).2).trans held
        have done := started a later g same
        unfold State.Started at done ⊢
        rw [State.latchLocked_of_states state] at done
        exact done
    · by_cases e : a = b
      · subst e
        have none : s.heldGrant a = none := h.resolve_left (fun k => k (.head _))
        rw [State.releaseHeld_of_none none] at kept ⊢
        exact kept a (.inl fresh)
      · obtain ⟨chan, grant⟩ := others a e
        have later : a ∉ l ∨ (s.releaseHeld b).heldGrant a = none := by
          refine h.imp (fun k m => k (.tail _ m)) (fun k => ?_)
          rw [State.heldGrant_congr grant]
          exact k
        obtain ⟨chan', grant'⟩ := kept a later
        exact ⟨chan'.trans chan, grant'.trans grant⟩

end Machine

open Machine

/-- Settles O51: a service write's end by what waits for it: a soft reset, a marker write, or nothing. -/
theorem serviceWriteEnds : Obligations.ServiceWriteEnds := by
  intro s w quiet write service
  have effect : s.effect .storeWriteComplete = s.serviceWritten := rfl
  rw [State.serviceWritten_eq write service] at effect
  obtain ⟨y, answer⟩ := s.written_eq w
  have quiet' : (s.written w).Quiet := by rw [answer]; exact quiet
  have answered : (s.written w).Answers .service .storeWrite w.tag .done (Config.absentDetail 12 0) := State.answer_answers ..
  have bytes (t : State) (memory : t.st.memory = memWriteAll s.st.memory w.bytes) :
      t.st.memory = memWriteAll s.st.memory w.bytes ∧ (∀ k, (∀ b, (k, b) ∉ w.bytes) → memRead t.st.memory k = memRead s.st.memory k)
      ∧ (∀ n b0 b1 b2 b3, n ≤ 511 → s.StoreGood → w.bytes = [(4 * n, b0), (4 * n + 1, b1), (4 * n + 2, b2), (4 * n + 3, b3)] →
        chunkBytes t.st.memory n = [b0, b1, b2, b3]) := by
    rw [memory]
    exact ⟨rfl, fun k none => memRead_memWriteAll_other w.bytes s.st.memory none, fun n b0 b1 b2 b3 range good e => e ▸ chunkBytes_memWriteAll good range b0 b1 b2 b3⟩
  cases queued : s.st.resetQueued with
  | some tag =>
    rw [queued] at effect
    obtain ⟨y', settles⟩ := State.softReset_ends quiet' tag
    have answers := State.softReset_answers quiet' tag
    have jm := (s.written w).afterReset_bare.slots
    obtain ⟨idle, unqueued⟩ := (s.written w).afterReset_write
    have memory := (s.written w).afterReset_memory
    generalize (s.written w).afterReset = u at settles jm idle unqueued memory
    generalize ht : ((s.written w).softResetNow tag).conclude = t at settles answers
    have st : t.st = u.st := settles.st
    obtain ⟨m1, m2, m3⟩ := bytes t (by rw [st, memory, answer]; rfl)
    refine ⟨t, by rw [exec_eq, effect, ht], m1, m2, m3, fun h => (by cases h), fun k e => ?_⟩
    cases e
    refine ⟨by rw [st, idle, answer]; rfl, by rw [st, unqueued], fun j => by rw [settles.slots]; exact jm j, answers⟩
  | none =>
    rw [queued] at effect
    dsimp only at effect
    cases marker : s.st.markerQueued with
    | true =>
      rw [marker, if_pos rfl] at effect
      obtain ⟨v, kind, start⟩ := State.startMarkerWrite_st (s := s.written w) (by rw [answer]; rfl)
      obtain ⟨t, run, settles⟩ := exec_settles effect (by rw [start]; exact quiet')
      rw [start] at settles
      have st : t.st = { (s.written w).st with write := some v, markerQueued := false } := settles.st
      obtain ⟨m1, m2, m3⟩ := bytes t (by rw [st, answer]; rfl)
      refine ⟨t, run, m1, m2, m3, fun _ => ⟨State.Answers.settles settles answered, by rw [settles.ac, answer]; rfl, by rw [settles.lc, answer]; rfl, by rw [settles.slots, answer]; rfl,
        by rw [settles.iu, answer]; rfl, by rw [settles.validity, answer]; rfl, by rw [settles.tw, answer]; rfl, by rw [settles.sp, answer]; rfl, fun h => (by cases h), fun _ => ?_⟩,
        fun k e => (by cases e)⟩
      exact ⟨v, by rw [st], kind, by rw [st]⟩
    | false =>
      rw [marker, if_neg (by decide)] at effect
      obtain ⟨t, run, settles⟩ := exec_settles effect quiet'
      have st : t.st = (s.written w).st := settles.st
      obtain ⟨m1, m2, m3⟩ := bytes t (by rw [st, answer]; rfl)
      refine ⟨t, run, m1, m2, m3, fun _ => ⟨State.Answers.settles settles answered, by rw [settles.ac, answer]; rfl, by rw [settles.lc, answer]; rfl, by rw [settles.slots, answer]; rfl,
        by rw [settles.iu, answer]; rfl, by rw [settles.validity, answer]; rfl, by rw [settles.tw, answer]; rfl, by rw [settles.sp, answer]; rfl, fun _ => ?_, fun h => (by cases h)⟩,
        fun k e => (by cases e)⟩
      rw [st, answer]
      rfl

/-- Settles O52: the marker goes to 0, and the held grants start one axis after another. -/
theorem markerWriteEnds : Obligations.MarkerWriteEnds := by
  intro s w quiet write marker unqueued drive settled
  let u : State := { s.writeStore w with sp := { s.sp with marker := false } }
  have effect : s.effect .markerWriteComplete = u.each axes State.releaseHeld := by
    show s.markerWritten = _
    unfold State.markerWritten
    rw [write]
    dsimp only
    rw [if_neg (by rw [marker]; decide)]
    show (match s.st.resetQueued with | some t => u.softResetNow t | none => u.each axes State.releaseHeld) = _
    rw [unqueued]
  obtain ⟨keeps, started, kept⟩ := State.releaseAll_releases axes u (by decide) settled drive
  generalize u.each axes State.releaseHeld = v at effect keeps started kept
  obtain ⟨t, run, settles⟩ := exec_settles effect (keeps.raised.trans quiet)
  have grants : t.da.grants = v.da.grants := by rw [settles.da]
  refine ⟨t, run, ?_, ?_, fun a g held => ?_, fun a none => ?_, ?_, ?_, ?_⟩
  · rw [settles.st, keeps.st]; rfl
  · rw [settles.sp, keeps.sp]
  · have done := started a (mem_axes a) g held
    unfold State.Started at done
    rw [settles.ac, grants]
    exact done
  · rw [settles.ac, grants]
    exact kept a (.inr none)
  · rw [settles.da]; exact keeps.wait
  · rw [settles.validity, keeps.validity]; rfl
  · rw [settles.iu, keeps.iu]; rfl

end Sys2Proof
end

section
/-! Service Mode's end, park and wake (10.4; 12.2, 12.3). -/

namespace Sys2Proof
namespace Machine

/-! ## The reload -/

/-- A load takes its areas from the memory alone (R184). -/
theorem loadStore_timers (st : StoreCtl) (service : Bool) (timer : Timer) (pending : Bool) :
    loadStore { st with service := service, serviceTimer := timer, leavePending := pending }
      = { loadStore st with service := service, serviceTimer := timer, leavePending := pending } := by
  unfold loadStore
  dsimp only
  split
  next => rfl
  next => rfl

/-- What a leave of Service Mode leaves in the store's control block, the channels, the heat monitor and the leg faults (R51, R160, R184, R189). -/
def State.Left (s t : State) : Prop :=
  t.st.service = false ∧ t.st.serviceTimer = .stopped ∧ t.st.leavePending = false
    ∧ t.st.memory = s.st.memory ∧ t.st.drive = (loadStore s.st).drive ∧ t.st.rules = (loadStore s.st).rules
    ∧ t.st.seats = (loadStore s.st).seats ∧ t.st.arrangements = (loadStore s.st).arrangements
    ∧ t.st.partners = (loadStore s.st).partners ∧ t.st.report = (loadStore s.st).report
    ∧ (∀ a : Axis, s.ac[a].Follows t.ac[a] ∧ t.tw[a].heat = s.tw[a].heat
      ∧ t.tw[a].hot = (if t.heatLimit ≤ s.tw[a].heat then true else if s.tw[a].heat ≤ t.heatResume then false else s.tw[a].hot))
    ∧ (∀ l : Leg, t.da.legFault[l] = (s.da.legFault[l] && t.isCommonLeg l))

theorem State.isCommonLeg_congr {s t : State} (h : t.st.drive = s.st.drive) (l : Leg) : t.isCommonLeg l = s.isCommonLeg l := by
  unfold State.isCommonLeg State.driveAxis
  rw [h]

theorem State.heatLevels_congr {s t : State} (h : t.st.drive = s.st.drive) : t.heatLimit = s.heatLimit ∧ t.heatResume = s.heatResume := by
  unfold State.heatLimit State.heatResume
  rw [h]
  exact ⟨rfl, rfl⟩

/-- A reload over any areas, and what of it the work of the event leaves. -/
theorem State.reloaded_follows {s u t : State} {st : StoreCtl} (same : u.st = (s.reloaded st).st ∧ u.ac = (s.reloaded st).ac ∧ u.tw = (s.reloaded st).tw
    ∧ u.da.legFault = (s.reloaded st).da.legFault) (follows : u.Follows t) :
    t.st.service = false ∧ t.st.serviceTimer = .stopped ∧ t.st.leavePending = false
    ∧ t.st.memory = st.memory ∧ t.st.drive = st.drive ∧ t.st.rules = st.rules ∧ t.st.seats = st.seats ∧ t.st.arrangements = st.arrangements
    ∧ t.st.partners = st.partners ∧ t.st.report = st.report
    ∧ (∀ a : Axis, s.ac[a].Follows t.ac[a] ∧ t.tw[a].heat = s.tw[a].heat
      ∧ t.tw[a].hot = (if t.heatLimit ≤ s.tw[a].heat then true else if s.tw[a].heat ≤ t.heatResume then false else s.tw[a].hot))
    ∧ (∀ l : Leg, t.da.legFault[l] = (s.da.legFault[l] && t.isCommonLeg l)) := by
  obtain ⟨store, ac, tw, legs⟩ := same
  have control := follows.st
  rw [store] at control
  have drive : t.st.drive = st.drive := by rw [control]; rfl
  refine ⟨by rw [control]; rfl, by rw [control]; rfl, by rw [control]; rfl, by rw [control]; rfl, drive, by rw [control]; rfl, by rw [control]; rfl,
    by rw [control]; rfl, by rw [control]; rfl, by rw [control]; rfl, fun a => ?_, fun l => ?_⟩
  · obtain ⟨heat, hot, _⟩ := follows.heat a
    obtain ⟨limit, resume⟩ := State.heatLevels_congr (s := s.reloaded st) (t := t) drive
    have warm : (s.reloaded st).tw[a] = (s.reloaded st).reheat s.tw[a] := Vector.getElem_map ..
    rw [tw, warm] at heat hot
    refine ⟨?_, heat, ?_⟩
    · have chan := follows.ac a
      rw [ac] at chan
      exact chan
    · rw [hot, limit, resume]
      rfl
  · rw [follows.legFault, legs, State.isCommonLeg_congr (s := s.reloaded st) (t := t) drive]
    exact Vector.getElem_ofFn ..

/-- A leave of Service Mode, whatever else but the store's control block, the channels, the heat monitor and the leg faults its event changes. -/
theorem State.left_of_follows {s u t : State} (same : ∃ l x, u = { (s.reloaded (loadStore s.st)).emit l with jm := x }) (follows : u.Follows t) : s.Left t := by
  obtain ⟨l, x, rfl⟩ := same
  have parts (st : StoreCtl) (u : State) (e : u = { (s.reloaded st).emit l with jm := x }) : u.st = (s.reloaded st).st ∧ u.ac = (s.reloaded st).ac
      ∧ u.tw = (s.reloaded st).tw ∧ u.da.legFault = (s.reloaded st).da.legFault := by
    subst e
    exact ⟨rfl, rfl, rfl, rfl⟩
  have left := State.reloaded_follows (parts (loadStore s.st) _ rfl) follows
  rw [loadStore_memory] at left
  exact left

theorem State.leaveService_emits (s : State) : ∃ l, s.leaveService = (s.reloaded (loadStore s.st)).emit l := by
  rcases s.leaveService_eq with e | e
  · exact ⟨[], by rw [e, State.emit_nil]⟩
  · exact ⟨_, e⟩

theorem State.leaveService_ends (s : State) : s.Left s.leaveService.conclude := by
  obtain ⟨l, e⟩ := s.leaveService_emits
  exact State.left_of_follows ⟨l, s.leaveService.jm, by rw [e]⟩ s.leaveService.conclude_follows

theorem State.Left.congr {s u t : State} (h : u.Left t) (ac : u.ac = s.ac) (tw : u.tw = s.tw) (legs : u.da.legFault = s.da.legFault)
    {service : Bool} {timer : Timer} {pending : Bool} (st : u.st = { s.st with service := service, serviceTimer := timer, leavePending := pending }) : s.Left t := by
  unfold State.Left at h ⊢
  rw [ac, tw, legs, st, loadStore_timers] at h
  exact h

/-! ## The parts that no event's end looks at -/

/-- The park-quiet timer and the pages do not count in what an event settles into (R165, R175). -/
theorem State.Settles.quietTimer {u t : State} {timer : Timer} {pages : Vector Page 6}
    (h : State.Settles { u with sp := { u.sp with parkQuiet := timer }, np := { u.np with pages := pages } } t) : u.Settles t :=
  ⟨h.ac, h.lc, h.da, h.slots, h.lists, h.claims, h.answers, h.lastPad, h.iu, h.validity, h.tw, h.sp, h.st, h.port, h.ps, h.picks, h.quiet, h.pending⟩

end Machine

open Machine

/-- Settles O26: the reload of each way out of Service Mode, and the leave that waits. -/
theorem serviceEnds : Obligations.ServiceEnds := by
  intro s id tag on left
  have idle (free : s.noJob = true) (none : s.st.write = none) : s.storeIdle = true := by
    unfold State.storeIdle
    rw [free, none]
    rfl
  refine ⟨fun hears free none => ?_, fun running free none => ?_, fun waits free none => ?_, fun quiet running busy => ?_⟩
  · generalize hu : s.heard .service = u
    have heard : u = { s with st := { s.st with service := true, serviceTimer := .start, leavePending := false } } := by
      rw [← hu, State.heard_service]
      unfold State.serviceActivity
      rw [if_pos on, ← on]
    have effect : s.effect (.leaveService id tag) = u.leaveService.answerDone .service .leaveService tag (pairDetail u.leaveService.validityByte 0#8) := by
      rw [State.effect_leaveService hears, hu]
      have rests : u.storeIdle = true := by rw [heard]; exact idle free none
      unfold State.reqLeaveService
      rw [State.gate_eq_none rfl rfl]
      dsimp only
      rw [if_neg (by rw [heard]; exact Bool.false_ne_true), if_neg (by rw [rests]; decide)]
    obtain ⟨l, e⟩ := u.leaveService_emits
    have answers (v : State) : ∃ y, v.answerDone .service .leaveService tag (pairDetail v.validityByte 0#8) = v.setAnswer .service (some y)
        ∧ (v.answerDone .service .leaveService tag (pairDetail v.validityByte 0#8)).Answers .service .leaveService tag .done (pairDetail v.validityByte 0#8) := by
      obtain ⟨y, answer⟩ := v.answer_eq .service .leaveService tag { code := .done, failing := Option.none, detail := some (pairDetail v.validityByte 0#8) }
      exact ⟨y, answer, v.answer_answers ..⟩
    obtain ⟨y, answer, answered⟩ := answers u.leaveService
    rw [answer] at effect answered
    generalize hv : u.leaveService = v at effect e answered
    have follows := (v.setAnswer .service (some y)).conclude_follows
    refine ⟨_, (exec_eq _ s).trans (congrArg (fun v => Host.Outcome.next v.conclude) effect), ?_, ?_⟩
    · have left : u.Left (v.setAnswer .service (some y)).conclude := State.left_of_follows ⟨l, (v.setAnswer .service (some y)).jm, by rw [← e]; rfl⟩ follows
      exact left.congr (by rw [heard]) (by rw [heard]) (by rw [heard]) (by rw [heard])
    · have report : (v.setAnswer .service (some y)).conclude.st.report = v.st.report := by rw [follows.st]; rfl
      have done := State.Answers.follows follows answered
      unfold State.validityByte at done
      rw [← report] at done
      exact done
  · refine ⟨_, exec_eq _ s, ?_⟩
    have effect : s.effect .serviceTimeout = s.leaveService := by
      show s.serviceTimedOut = _
      unfold State.serviceTimedOut
      rw [on, running, if_neg (by decide), if_pos (idle free none)]
    rw [effect]
    exact s.leaveService_ends
  · refine ⟨_, exec_eq _ s, ?_⟩
    have effect : s.effect .serviceDeferredLeave = s.leaveService := by
      show s.deferredLeave = _
      unfold State.deferredLeave
      rw [on, waits, idle free none]
      rfl
    rw [effect]
    exact s.leaveService_ends
  · have waits : s.storeIdle = false := by
      unfold State.storeIdle
      rcases busy with h | h
      · rw [h]; rfl
      · rw [Option.isNone_eq_false_iff.2 h, Bool.and_false]
    have effect : s.effect .serviceTimeout = { s with st := { s.st with leavePending := true, serviceTimer := s.st.serviceTimer.hold } } := by
      show s.serviceTimedOut = _
      unfold State.serviceTimedOut
      rw [if_neg (by rw [on, running]; decide), if_neg (by rw [waits]; decide)]
    exact exec_settles effect quiet

/-- Settles O56: park entry, the end of its write, and the wake, each as the state it settles into. -/
theorem parkAndWake : Obligations.ParkAndWake := by
  intro s quiet woken
  have wakes (u : State) (h : u.Quiet) : (woken u).Settles u.enterWaking.conclude :=
    State.Settles.quietTimer (State.conclude_settles (s := u.enterWaking) h)
  refine ⟨fun running free => ?_, fun w write park => ?_, fun x => ?_⟩
  · have effect : s.effect .parkEntry = s.enterPark := by
      show s.parkNow = _
      unfold State.parkNow
      rw [running, free]
      rfl
    have write : (if s.st.learnedArea.isSome then some { kind := .park, bytes := s.parkBytes, tag := 0#4, timer := .start } else none : Option StoreWrite)
        = s.st.learnedArea.map (fun _ => { kind := .park, bytes := s.parkBytes, tag := 0#4, timer := .start }) := by
      cases s.st.learnedArea <;> rfl
    obtain ⟨t, run, settles⟩ := exec_settles effect quiet
    refine ⟨t, run, State.Settles.quietTimer (timer := .stopped) (pages := s.np.pages) ?_⟩
    rw [← write]
    exact settles
  · intro u
    have effect : s.effect .parkWriteComplete = if u.sp.wakePending then u.enterWaking else u := by
      show s.parkWritten = _
      unfold State.parkWritten
      rw [write]
      exact if_neg (by rw [park]; decide)
    refine ⟨_, exec_eq _ s, fun awake => ?_, fun pending => ?_⟩
    · rw [effect, if_neg (by show ¬ s.sp.wakePending = true; rw [awake]; decide)]
      exact State.conclude_settles (s := u) quiet
    · rw [effect, if_pos pending]
      exact wakes u quiet
  · have effect : s.effect (.wakeEvent x) = s.wake := rfl
    refine ⟨_, exec_eq _ s, fun awake => ?_, fun park busy => ?_, fun park free => ?_⟩
    · rw [effect, State.wake_awake awake]
      exact State.conclude_settles quiet
    · rw [effect, State.wake, if_neg (not_not_intro park), if_pos busy]
      exact State.conclude_settles quiet
    · rw [effect, State.wake, if_neg (not_not_intro park), if_neg (by rw [free]; decide)]
      exact wakes s quiet

end Sys2Proof
end

section
/-! The supply's pause (10.3, 10.6): what a pause makes of the latches, the held grants and the channels. -/

namespace Sys2Proof
namespace Machine

variable {p : Axis → Prop} {ok : Pad → Prop}

/-! ## Steps that State.FollowsBut allows beside its own -/

/-- The same change of every latch before and after. -/
theorem State.FollowsBut.mapLatch {u t : State} (h : State.FollowsBut p ok u t) (f : Latch → Latch) :
    State.FollowsBut p ok { u with lc := u.lc.map f } { t with lc := t.lc.map f } := by
  refine ⟨h.loose, h.goesOn, h.starts, h.idle, h.leaves, fun a ha e => ?_, h.grants, fun a ha hu e g e1 e2 => ?_, fun hp d e => ?_, h.spare, h.wait, ?_⟩
  · obtain ⟨validity, heat, latch⟩ := h.axis a ha e
    refine ⟨validity, heat, fun l hl => ?_⟩
    show (t.lc.map f)[l] = (u.lc.map f)[l]
    rw [Fin.getElem_fin, Fin.getElem_fin, Vector.getElem_map, Vector.getElem_map]
    exact congrArg f (latch l hl)
  · have q := h.holds a ha hu e g e1 e2
    exact ⟨q.grant, q.leg, q.alone⟩
  · have q := h.within hp d e
    exact ⟨q.total, q.legs⟩
  · have r := h.rest
    exact ⟨r.heat, r.jm, r.legFault, r.iu, r.sp, r.st, r.write, r.port, r.conds, r.pressed, r.entries, r.pending⟩

/-- A state with its arrival counter beyond its range: nothing is asked of the wait lists that follow it. -/
def State.unnumbered (s : State) : State := { s with da := { s.da with arrival := 65536 } }

theorem State.unnumbered_wait (s : State) : ¬ s.unnumbered.da.WaitGood := fun h => absurd h.2.2.2 (show ¬ 65536 ≤ 65535 by decide)

theorem State.FollowsBut.unnumbered {u t : State} (h : State.FollowsBut p ok u t) : State.FollowsBut p ok u.unnumbered t := by
  refine ⟨h.loose, h.goesOn, h.starts, h.idle, h.leaves, h.axis, h.grants, fun a ha hu e g e1 e2 => ?_, fun hp d e => ?_, h.spare,
    fun k => absurd k u.unnumbered_wait, ?_⟩
  · have q := h.holds a ha hu e g e1 e2
    exact ⟨q.grant, q.leg, q.alone⟩
  · have q := h.within hp d e
    exact ⟨q.total, q.legs⟩
  · have r := h.rest
    exact ⟨r.heat, r.jm, r.legFault, r.iu, r.sp, r.st, r.write, r.port, r.conds, r.pressed, r.entries, r.pending⟩

/-- Any wait list, where nothing is asked of it. -/
theorem State.FollowsBut.rewait {u t : State} (h : State.FollowsBut p ok u t) (bad : ¬ u.da.WaitGood) (l : List WaitEntry) (n : Nat) :
    State.FollowsBut p ok u { t with da := { t.da with wait := l, arrival := n } } := by
  refine ⟨h.loose, h.goesOn, h.starts, h.idle, h.leaves, h.axis, h.grants, fun a ha hu e g e1 e2 => ?_, fun hp d e => ?_, h.spare,
    fun k => absurd k bad, ?_⟩
  · have q := h.holds a ha hu e g e1 e2
    exact ⟨q.grant, q.leg, q.alone⟩
  · have q := h.within hp d e
    exact ⟨q.total, q.legs⟩
  · have r := h.rest
    exact ⟨r.heat, r.jm, r.legFault, r.iu, r.sp, r.st, r.write, r.port, r.conds, r.pressed, r.entries, r.pending⟩

/-- What follows a state does not look at its arrival counter. -/
theorem State.Follows.of_unnumbered {u t : State} (h : u.unnumbered.Follows t) : u.Follows t :=
  ⟨h.ac, h.starts, h.idle, h.leaves, h.axis, h.grants, h.heat, h.jobs, h.free, h.kept, h.conds, h.pads, h.doneList, h.answers, h.legFault, h.iu, h.sp,
    h.st, h.write, h.port, h.pressed, h.pending⟩

/-! ## Held grants given back (R168) -/

theorem State.giveBack_follows {u t : State} (h : State.FollowsBut p ok u t) (bad : ¬ u.da.WaitGood) (a : Axis) : State.FollowsBut p ok u (t.giveBack a) := by
  unfold State.giveBack
  split
  next held => exact (h.trans (State.withdraw_but t a held)).rewait bad _ _
  next => exact h

theorem State.giveBack_ac (s : State) (a : Axis) : (s.giveBack a).ac = s.ac := by
  unfold State.giveBack
  split
  next => exact s.withdraw_ac a
  next => rfl

theorem State.giveBack_lc (s : State) (a : Axis) : (s.giveBack a).lc = s.lc := by
  unfold State.giveBack
  split
  next =>
    show ((s.setGrant a none).freeLeg (s.grantLeg a)).lc = s.lc
    rw [State.freeLeg_same]
    rfl
  next => rfl

theorem State.giveBack_sp (s : State) (a : Axis) : (s.giveBack a).sp = s.sp := by
  unfold State.giveBack
  split
  next => exact (s.withdraw_inChannels a).sp
  next => rfl

theorem State.giveBacks_follows {u : State} (bad : ¬ u.da.WaitGood) : ∀ (l : List Axis) (t : State), State.FollowsBut p ok u t →
    State.FollowsBut p ok u (t.each l State.giveBack)
  | [], _, h => h
  | a :: l, t, h => State.giveBacks_follows bad l (t.giveBack a) (State.giveBack_follows h bad a)

/-! ## The pause (R163) -/

/-- The state in which a pause has stopped what moves, in the order that the draws give. -/
def State.pauseStops (s : State) : State :=
  let s1 : State := { s with sp := { s.sp with cond := .pausedWindow, window := .start } }
  (s1.shuffled s1.stoppableAxes).2.each (s1.shuffled s1.stoppableAxes).1 (fun t a => t.stopAxis a .paused none)

theorem State.startPause_eq (s : State) :
    s.startPause = State.each { s.pauseStops with lc := s.pauseStops.lc.map Latch.drop } axes State.giveBack := rfl

theorem State.pauseStops_but (s : State) :
    State.FollowsBut noAxis ok { s with sp := { s.sp with cond := .pausedWindow, window := .start } } s.pauseStops :=
  (State.shuffled_but _ _).trans (State.each_but _ _ _ (fun t a _ => State.stopAxis_but t a .paused none))

/-- Every channel as the stop requests of a pause leave it. -/
theorem State.pauseStops_get (s : State) (a : Axis) : s.pauseStops.ac[a].motion.stoppable = false
    ∧ ∀ m, s.ac[a].motion.driving = true → s.ac[a].move = some m → s.pauseStops.ac[a].BrakesWith m .paused s.ac[a].position := by
  let s1 : State := { s with sp := { s.sp with cond := .pausedWindow, window := .start } }
  have listed : a ∈ (s1.shuffled s1.stoppableAxes).1 ↔ s.ac[a].motion.stoppable = true := by
    rw [mem_shuffled]
    exact List.mem_filter.trans ⟨fun h => h.2, fun h => ⟨mem_axes a, h⟩⟩
  obtain ⟨moving, still⟩ := State.stops_get .paused none (s1.shuffled s1.stoppableAxes).1 (s1.shuffled s1.stoppableAxes).2 a
  refine ⟨?_, fun m driving hm => ?_⟩
  · by_cases h : s.ac[a].motion.stoppable = true
    · obtain ⟨v, _, run⟩ := moving (listed.2 h)
      exact (congrArg (fun c : Channel => c.motion.stoppable) run).trans (v.stopAxis_stops a .paused none)
    · exact (congrArg (fun c : Channel => c.motion.stoppable) (still (fun k => h (listed.1 k)))).trans (Bool.not_eq_true _ ▸ h)
  · obtain ⟨v, chan, run⟩ := moving (listed.2 (Motion.stoppable_of_driving driving))
    have chan' : v.ac[a] = s.ac[a] := chan
    have brake : s.pauseStops.ac[a] = s.ac[a].brake .paused none := by
      refine run.trans ?_
      rw [State.stopAxis_driving (by rw [chan']; exact driving), if_neg (by decide), chan']
    rw [brake]
    exact Channel.brake_brakesWith hm .paused none

/-- A part of the event in which no axis leaves IDLE: every channel that drives nothing keeps its latch. -/
theorem State.Follows.keeps_stopped {u t : State} (h : u.Follows t) (paused : u.sp.cond ≠ .normal) {a : Axis} (stopped : u.ac[a].motion.stoppable = false) :
    t.ac[a].motion = u.ac[a].motion ∧ u.KeepsAxis t a := by
  have same : t.ac[a].motion = u.ac[a].motion := by
    by_cases idle : u.ac[a].motion = .idle
    · refine Classical.byContradiction (fun other => ?_)
      exact paused (h.leaves a idle (fun e => other (e.trans idle.symm))).2.1
    · have rest : u.ac[a].motion = .braking ∨ u.ac[a].motion = .dwell := by
        cases k : u.ac[a].motion <;> simp_all [Motion.stoppable]
      exact (h.at_rest rest).motion
  exact ⟨same, h.axis a same⟩

theorem outOfBand_iff (mv : Nat) : outOfBand mv = true ↔ mv < 9000 ∨ 18000 < mv := by
  unfold outOfBand
  rw [Bool.or_eq_true, decide_eq_true_eq, decide_eq_true_eq]
  exact Iff.rfl

theorem outOfBand_eq_false {mv : Nat} (low : 9000 ≤ mv) (high : mv ≤ 18000) : outOfBand mv = false :=
  Bool.eq_false_iff.2 (fun h => ((outOfBand_iff mv).1 h).elim (Nat.not_lt.2 low) (Nat.not_lt.2 high))

theorem State.supplyLow_brownOut {s : State} {mv : Nat} (low : mv < 6000) : s.supplyLow mv = s.powerOn mv := if_pos low

theorem State.supplyLow_level {s : State} {mv : Nat} (high : 6000 ≤ mv) : s.supplyLow mv = if s.sp.cond = .normal && outOfBand mv then s.startPause else s :=
  if_neg (Nat.not_lt.2 high)

end Machine

open Machine

/-- Settles O53: the stop requests, the solenoids and the held grants of a pause; the work of its event starts nothing. -/
theorem supplyPauses : Obligations.SupplyPauses := by
  intro s mv
  have pauses : s.effect (.supplyPause mv) = s.supplyLow mv := rfl
  refine ⟨fun low => ?_, fun high out normal => ?_, fun high quiet other => ?_⟩
  · have reset : s.effect (.powerOnReset mv) = s.powerOn mv := rfl
    have back : s.effect (.supplyResume mv) = s.powerOn mv := if_pos low
    rw [exec_eq, exec_eq, exec_eq, pauses, reset, back, State.supplyLow_brownOut low]
    exact ⟨rfl, rfl⟩
  · have band : outOfBand mv = true := (outOfBand_iff mv).2 out
    have effect : s.effect (.supplyPause mv) = s.startPause := by
      rw [pauses, State.supplyLow_level high, normal, band]
      rfl
    let u : State := { s with sp := { s.sp with cond := .pausedWindow, window := .start }, lc := s.lc.map Latch.drop }
    have stops := (s.pauseStops_but (ok := fun q => Task.padEntry q ∈ u.unnumbered.raised)).mapLatch Latch.drop
    have given := State.giveBacks_follows u.unnumbered_wait axes _ (State.FollowsBut.unnumbered (u := u) stops)
    rw [← State.startPause_eq] at given
    have ac : s.startPause.ac = s.pauseStops.ac := by
      rw [State.startPause_eq]
      exact State.each_ac _ (fun t b => t.giveBack_ac b) _ _
    have lc : s.startPause.lc = s.pauseStops.lc.map Latch.drop := by
      rw [State.startPause_eq]
      exact State.each_keeps (q := fun t => t.lc = s.pauseStops.lc.map Latch.drop) _ (fun t b k => (t.giveBack_lc b).trans k) _ _ rfl
    have cond : s.startPause.sp.cond ≠ .normal := by
      have sp := given.rest.sp
      rw [sp]
      exact fun e => by cases e
    have follows := s.startPause.conclude_follows
    have stopped (a : Axis) : s.startPause.ac[a].motion.stoppable = false := by rw [ac]; exact (s.pauseStops_get a).1
    refine ⟨_, (exec_eq _ s).trans (congrArg (fun v => Host.Outcome.next v.conclude) effect), given.concludes.of_unnumbered, fun l => ?_, fun a => ⟨?_, fun m driving hm => ?_⟩⟩
    · obtain ⟨_, _, _, latch⟩ := follows.keeps_stopped cond (stopped (axisOfLatch l))
      have dropped : s.startPause.lc[l] = s.pauseStops.lc[l].drop := by rw [lc]; exact Vector.getElem_map ..
      rw [latch l rfl, dropped]
      exact ⟨rfl, rfl⟩
    · obtain ⟨motion, _⟩ := follows.keeps_stopped cond (stopped a)
      unfold Channel.Stopped
      rw [motion]
      exact stopped a
    · have brakes : s.startPause.ac[a].BrakesWith m .paused s.ac[a].position := by
        rw [ac]
        exact (s.pauseStops_get a).2 m driving hm
      exact brakes.same (follows.at_rest (.inl brakes.1))
  · have effect : s.effect (.supplyPause mv) = s := by
      rw [pauses, State.supplyLow_level high, if_neg]
      rcases other with h | h
      · simp [h]
      · simp [outOfBand_eq_false h.1 h.2]
    exact exec_ignored effect quiet

end Sys2Proof
end

section
/-! Jobs ended from outside (6.3, 6.5): what a halt makes of its slot, of the wait list and of the channels, and the stop requests. -/

namespace Sys2Proof
namespace Machine

/-! ## Work taken back -/

/-- What a job's dropped work leaves: the wait list without its entries (R54, R109). -/
theorem State.dropWork_inChannels (s : State) (f : WaitEntry → Bool) : (s.setWait (s.da.wait.filter (fun e => !(f e)))).InChannels (s.dropWork f) := by
  unfold State.dropWork
  split
  next none =>
    have kept : s.da.wait.filter (fun e => !(f e)) = s.da.wait := by
      refine List.filter_eq_self.2 (fun e he => ?_)
      have quiet : ¬ (s.da.wait.any f = true) := fun h => by simp [State.hasWork, h] at none
      simpa using fun h => quiet (List.any_eq_true.2 ⟨e, he, h⟩)
    rw [kept]
    exact .refl s
  next =>
    refine .trans (.each (fun t a => ?_) axes _) (.emit (by simp))
    split
    next => exact .ite (t.withdraw_inChannels a) (.refl t)
    next => exact .refl t

/-! ## One slot changed -/

theorem State.modJob_modJob (s : State) (j : Slot) (f g : Job → Job) : (s.modJob j f).modJob j g = s.modJob j (fun x => g (f x)) := by
  have slot : (s.modJob j f).jm.slots[j] = s.jm.slots[j].map f := (s.modJob_get j j f).trans (if_pos rfl)
  have twice : (s.modJob j f).modJob j g = (s.modJob j f).setSlot j ((s.jm.slots[j].map f).map g) := congrArg (fun x : Option Job => (s.modJob j f).setSlot j (x.map g)) slot
  rw [twice, Option.map_map]
  unfold State.modJob State.setSlot
  simp only [Vector.set_set]
  rfl

theorem State.mem_jobAxes {s : State} {x : Job} {j : Slot} {spare : Bool} {a : Axis} :
    a ∈ s.jobAxes x j spare ↔ AxisSet.has x.claimed a = true ∧ s.ac[a].motion.stoppable = true
      ∧ ∃ m, s.ac[a].move = some m ∧ m.job = some j ∧ (spare = true → m.kind = .backOff → m.rank ≠ 0) := by
  unfold State.jobAxes
  rw [List.mem_filter, AxisSet.mem_list_iff]
  refine and_congr_right (fun _ => ?_)
  rw [Bool.and_eq_true]
  refine and_congr_right (fun _ => ?_)
  cases s.ac[a].move with
  | none => simp
  | some m =>
    cases spare with
    | false => simp
    | true => simp [Decidable.imp_iff_not_or]

/-- An answer leaves every job's record. -/
theorem State.answer_slots (s : State) (r : Role) (k : ReqKind) (tag : BitVec 4) (x : Refused) : (s.answer r k tag x).jm.slots = s.jm.slots := by
  obtain ⟨y, put⟩ := s.answer_eq r k tag x
  rw [put]
  rfl

/-! ## A halt -/

/-- The record of an ACTIVE job that is ended from outside (R93, R101, R109, R130). -/
def Job.halted (s : State) (j : Slot) (outcome : Option Code) (y : Job) : Job :=
  { y with
    state := .ending
    finished := true
    holdTimer := y.holdTimer.hold
    outcome := y.outcome.or outcome
    scene := y.scene.map (s.stopScene j)
    homing := y.homing.map (fun h => { h with stage := .idle }) }

/-- The state in which the job has ended and its waiting work is gone, before the stops of its axes. -/
def State.halted (s : State) (j : Slot) (outcome : Option Code) : State :=
  (s.modJob j (Job.halted s j outcome)).dropWork (fun e => e.slot == j)

theorem State.haltJob_eq {s : State} {j : Slot} {x : Job} (hx : s.jm.slots[j] = some x) (active : x.state = .active) (code : Code) (outcome : Option Code) :
    s.haltJob j code outcome =
      ((s.halted j outcome).each ((s.halted j outcome).jobAxes x j false) (fun t a => t.stopAxis a code none)).emit [.doneCheck j] := by
  unfold State.haltJob State.overHoming State.modHoming
  rw [hx]
  dsimp only
  rw [if_neg (fun h => h active), State.modJob_modJob]
  rfl

theorem State.haltJob_ended {s : State} {j : Slot} (ended : ∀ x, s.jm.slots[j] = some x → x.state ≠ .active) (code : Code) (outcome : Option Code) :
    s.haltJob j code outcome = s := by
  unfold State.haltJob
  split
  next => rfl
  next x hx => exact if_pos (ended x hx)

theorem State.halted_ac (s : State) (j : Slot) (outcome : Option Code) : (s.halted j outcome).ac = s.ac := State.dropWork_ac _ _

/-- A halt changes its own slot and takes the job's entries off the wait list (R101, R109). -/
theorem State.haltJob_inChannels {s : State} {j : Slot} {x : Job} (hx : s.jm.slots[j] = some x) (active : x.state = .active) (code : Code) (outcome : Option Code) :
    ((s.modJob j (Job.halted s j outcome)).setWait (s.da.wait.filter (fun e => e.slot != j))).InChannels (s.haltJob j code outcome) := by
  rw [State.haltJob_eq hx active]
  exact ((State.dropWork_inChannels _ _).trans (.each (fun t a => t.stopAxis_inChannels a code none) _ _)).trans (.emit (by simp))

theorem State.haltJob_slots {s : State} {j : Slot} {x : Job} (hx : s.jm.slots[j] = some x) (active : x.state = .active) (code : Code) (outcome : Option Code)
    (k : Slot) : (s.haltJob j code outcome).jm.slots[k] = if k = j then some (Job.halted s j outcome x) else s.jm.slots[k] := by
  have slot : (s.haltJob j code outcome).jm.slots[k] = (s.modJob j (Job.halted s j outcome)).jm.slots[k] :=
    congrArg (fun u : JobManager => u.slots[k]) (State.haltJob_inChannels hx active code outcome).jm
  rw [slot, State.modJob_get, hx]
  rfl

/-- The axes that a halt does not stop stay as they are (R109). -/
theorem State.haltJob_other {s : State} {j : Slot} {a : Axis} (other : s.ac[a].motion.stoppable = false ∨ ∀ m, s.ac[a].move = some m → m.job ≠ some j)
    (code : Code) (outcome : Option Code) : (s.haltJob j code outcome).ac[a] = s.ac[a] := by
  by_cases active : ∃ x, s.jm.slots[j] = some x ∧ x.state = .active
  · obtain ⟨x, hx, active⟩ := active
    rw [State.haltJob_eq hx active, State.emit_ac, (State.stops_get code none _ (s.halted j outcome) a).2, State.halted_ac]
    rw [State.mem_jobAxes, State.halted_ac]
    rintro ⟨_, moving, m, hm, job, _⟩
    exact other.elim (fun still => by rw [still] at moving; cases moving) (fun own => own m hm job)
  · rw [State.haltJob_ended (fun x hx h => active ⟨x, hx, h⟩)]

/-- An axis that the job's move drives or releases receives a stop request (R27, R109). -/
theorem State.haltJob_stops {s : State} {j : Slot} {x : Job} (hx : s.jm.slots[j] = some x) (active : x.state = .active) {a : Axis} {m : Move}
    (claimed : AxisSet.has x.claimed a = true) (hm : s.ac[a].move = some m) (job : m.job = some j) (moving : s.ac[a].motion.stoppable = true)
    (code : Code) (outcome : Option Code) :
    ∃ v : State, v.ac[a] = s.ac[a] ∧ (s.haltJob j code outcome).ac[a] = (v.stopAxis a code none).ac[a] := by
  have listed : a ∈ (s.halted j outcome).jobAxes x j false := by
    rw [State.mem_jobAxes, State.halted_ac]
    exact ⟨claimed, moving, m, hm, job, fun h => by cases h⟩
  obtain ⟨v, chan, run⟩ := (State.stops_get code none _ (s.halted j outcome) a).1 listed
  rw [State.halted_ac] at chan
  refine ⟨v, chan, ?_⟩
  rw [State.haltJob_eq hx active, State.emit_ac]
  exact run

theorem State.haltJob_motion {s : State} {j : Slot} {x : Job} (hx : s.jm.slots[j] = some x) (active : x.state = .active) {a : Axis} {m : Move}
    (claimed : AxisSet.has x.claimed a = true) (hm : s.ac[a].move = some m) (job : m.job = some j) (moving : s.ac[a].motion.stoppable = true)
    (code : Code) (outcome : Option Code) :
    (s.haltJob j code outcome).ac[a].motion = .braking ∨ (s.haltJob j code outcome).ac[a].motion = .dwell := by
  obtain ⟨v, chan, run⟩ := State.haltJob_stops hx active claimed hm job moving code outcome
  rw [run]
  exact v.stopAxis_motion a code none (by rw [chan]; exact moving)

/-! ## Several halts in one event -/

/-- A job that has ended stays as it is through the stops of jobs (R109). -/
theorem State.stopJobs_keep {k : Slot} {y : Job} (ended : y.state ≠ .active) : ∀ (l : List Slot) (s : State), s.jm.slots[k] = some y →
    (s.each l State.stopJob).jm.slots[k] = some y
  | [], _, h => h
  | j :: l, s, h => by
    refine State.stopJobs_keep ended l (s.stopJob j) ?_
    show (s.haltJob j .stopped (some .stopped)).jm.slots[k] = some y
    by_cases active : ∃ x, s.jm.slots[j] = some x ∧ x.state = .active
    · obtain ⟨x, hx, active⟩ := active
      rw [State.haltJob_slots hx active, if_neg, h]
      rintro rfl
      exact ended (Option.some.inj (h.symm.trans hx) ▸ active)
    · rw [State.haltJob_ended (fun x hx e => active ⟨x, hx, e⟩), h]

theorem State.stopJobs_but {ok : Pad → Prop} (l : List Slot) (s : State) : State.FollowsBut noAxis ok s (s.each l State.stopJob) :=
  State.each_but _ l s (fun t j _ => State.haltJob_but t j _ _)

/-- A channel that brakes or dwells goes on so through the stops of jobs. -/
theorem State.FollowsBut.rests {ok : Pad → Prop} {u t : State} (h : State.FollowsBut noAxis ok u t) {a : Axis}
    (rest : u.ac[a].motion = .braking ∨ u.ac[a].motion = .dwell) : u.ac[a].SameMove t.ac[a] := by
  rcases h.goesOn a id (by rcases rest with e | e <;> rw [e] <;> decide) with same | ⟨moving, _⟩
  · exact same
  · rcases rest with e | e <;> rw [e] at moving <;> cases moving

/-- The stop of another job leaves an ACTIVE job and the channels of its moves (R109). -/
theorem State.stopJob_other {s : State} {j k : Slot} (other : k ≠ j) : (s.stopJob j).jm.slots[k] = s.jm.slots[k]
    ∧ ∀ (a : Axis) (m : Move), s.ac[a].move = some m → m.job = some k → (s.stopJob j).ac[a] = s.ac[a] := by
  refine ⟨?_, fun a m hm job => State.haltJob_other (.inr (fun n hn e => ?_)) .stopped (some .stopped)⟩
  · show (s.haltJob j .stopped (some .stopped)).jm.slots[k] = _
    by_cases going : ∃ y, s.jm.slots[j] = some y ∧ y.state = .active
    · obtain ⟨y, hy, going⟩ := going
      rw [State.haltJob_slots hy going, if_neg other]
    · rw [State.haltJob_ended (fun y hy e => going ⟨y, hy, e⟩)]
  · rw [hm] at hn
    cases hn
    exact other (Option.some.inj (job.symm.trans e))

/-- What an ACTIVE job has become once it has been stopped among others: its outcome is its own or STOPPED, and its axes have come to rest (R109). -/
theorem State.stopJobs_get {k : Slot} {x : Job} (active : x.state = .active) (l : List Slot) : ∀ s : State, k ∈ l → s.jm.slots[k] = some x →
    (∃ y, (s.each l State.stopJob).jm.slots[k] = some y ∧ y.state ≠ .active ∧ y.outcome = x.outcome.or (some .stopped) ∧ y.source = x.source)
      ∧ ∀ (a : Axis) (m : Move), AxisSet.has x.claimed a = true → s.ac[a].move = some m → m.job = some k → s.ac[a].motion.stoppable = true →
        (s.each l State.stopJob).ac[a].motion = .braking ∨ (s.each l State.stopJob).ac[a].motion = .dwell := by
  induction l with
  | nil => exact fun _ mem => absurd mem List.not_mem_nil
  | cons j l ih =>
    intro s mem hx
    rw [show s.each (j :: l) State.stopJob = (s.stopJob j).each l State.stopJob from rfl]
    by_cases own : k = j
    · subst own
      have slot : (s.stopJob k).jm.slots[k] = some (Job.halted s k (some .stopped) x) := by
        show (s.haltJob k .stopped (some .stopped)).jm.slots[k] = _
        rw [State.haltJob_slots hx active, if_pos rfl]
      refine ⟨⟨_, State.stopJobs_keep (fun h => (by cases h)) l _ slot, fun h => (by cases h), rfl, rfl⟩, fun a m claimed hm job moving => ?_⟩
      have rest : (s.stopJob k).ac[a].motion = .braking ∨ (s.stopJob k).ac[a].motion = .dwell :=
        State.haltJob_motion hx active claimed hm job moving .stopped (some .stopped)
      rw [((State.stopJobs_but (ok := fun _ => True) l (s.stopJob k)).rests rest).motion]
      exact rest
    · obtain ⟨slot, chans⟩ := State.stopJob_other (s := s) own
      obtain ⟨record, axes⟩ := ih (s.stopJob j) ((List.mem_cons.1 mem).resolve_left own) (slot.trans hx)
      refine ⟨record, fun a m claimed hm job moving => ?_⟩
      have chan := chans a m hm job
      exact axes a m claimed (chan ▸ hm) job (chan ▸ moving)

/-- The stops of jobs leave every job where it stands (R92). -/
theorem State.stopJobs_source (k : Slot) : ∀ (l : List Slot) (s : State) (y : Job), (s.each l State.stopJob).jm.slots[k] = some y →
    ∃ x, s.jm.slots[k] = some x ∧ x.source = y.source
  | [], _, y, h => ⟨y, h, rfl⟩
  | j :: l, s, y, h => by
    obtain ⟨x, hx, source⟩ := State.stopJobs_source k l (s.stopJob j) y h
    have slot : (s.haltJob j .stopped (some .stopped)).jm.slots[k] = some x := hx
    by_cases going : ∃ z, s.jm.slots[j] = some z ∧ z.state = .active
    · obtain ⟨z, hz, going⟩ := going
      rw [State.haltJob_slots hz going] at slot
      by_cases own : k = j
      · subst own
        rw [if_pos rfl] at slot
        cases slot
        exact ⟨z, hz, source⟩
      · rw [if_neg own] at slot
        exact ⟨x, slot, source⟩
    · rw [State.haltJob_ended (fun z hz e => going ⟨z, hz, e⟩)] at slot
      exact ⟨x, slot, source⟩

/-- A partner's job that has ended in an event goes on as one that has ended (R93, R103). -/
theorem State.Follows.jobEnded {u t : State} (h : u.Follows t) {k : Slot} {x y : Job} {q : Role} {code : Code} (hy : u.jm.slots[k] = some y)
    (source : y.source = .partner q) (ended : y.state ≠ .active) (outcome : y.outcome = x.outcome.or (some code)) : t.JobEnded k x code := by
  obtain ⟨z, hz, follows⟩ := h.jobs k y hy ⟨q, source⟩
  refine ⟨z, hz, follows.ended ended, fun none => ?_⟩
  rw [none] at outcome
  exact (follows.decided (by rw [outcome]; rfl)).1.trans outcome

/-- A pad's job that has ended in an event (R105). -/
theorem State.Follows.padEnded {u t : State} (h : u.Follows t) (placed : u.jm.PadsPlaced) {p : Pad} (entries : Task.padEntry p ∉ u.raised) {x y : Job} {code : Code}
    (hy : u.jm.slots[padSlot p] = some y) (source : y.source = .pad p) (ended : y.state ≠ .active) (outcome : y.outcome = x.outcome.or (some code)) :
    t.PadEnded p x code := by
  have given : y.outcome.isSome = true := by rw [outcome]; cases x.outcome <;> rfl
  rcases (h.pads placed p entries).job y hy source with ⟨z, hz, follows, _⟩ | ⟨free, c, last, kept⟩
  · refine .inl ⟨z, hz, follows.ended ended, fun none => ?_⟩
    rw [none] at outcome
    exact (follows.decided given).1.trans outcome
  · refine .inr ⟨free, c, last, fun none => ?_⟩
    rw [none] at outcome
    exact Option.some.inj ((kept given).symm.trans outcome)

/-- A stop request to a releasing channel brings it to DWELL, with the outcome it was to have where it had one (R27). -/
theorem State.stopAxis_releasing {s : State} {a : Axis} {m : Move} (releasing : s.ac[a].motion = .releasing) (hm : s.ac[a].move = some m) {code : Code}
    (other : code ≠ .overcurrent) (pred : Option Nat) :
    (s.stopAxis a code pred).ac[a].motion = .dwell ∧ (s.stopAxis a code pred).ac[a].lastOutcome = some (m.pending.getD code) := by
  let n : Move := { m with pending := m.pending.or (some code), pendingPred := if m.pending.isSome then m.pendingPred else pred }
  have stop : s.stopAxis a code pred = ((s.dropSolenoid a).modMove a (fun m =>
      { m with pending := m.pending.or (some code), pendingPred := if m.pending.isSome then m.pendingPred else pred })).enterDwell a := by
    unfold State.stopAxis
    rw [if_pos (by rw [releasing]; rfl), if_neg other]
    exact if_pos releasing
  have moved : ((s.dropSolenoid a).modMove a (fun m =>
      { m with pending := m.pending.or (some code), pendingPred := if m.pending.isSome then m.pendingPred else pred })).ac[a].move = some n := by
    have kept : (s.dropSolenoid a).ac = s.ac := by unfold State.dropSolenoid; split <;> rfl
    rw [State.modMove, State.modChan_get, if_pos rfl, kept, hm]
    rfl
  rw [stop]
  refine ⟨State.enterDwell_motion _ _, ?_⟩
  rw [State.enterDwell_chan moved]
  show some ((m.pending.or (some code)).getD .done) = _
  cases m.pending <;> rfl

/-! ## The work of an event, one piece at a time -/

/-- A quiet state's first piece of work, with what it raises itself before the rest (log 2). -/
theorem settle_emit {s u : State} (quiet : s.Quiet) {t : Task} {rest : List Task} (free : t.waitsFor rest = false) (task : s.runTask t = u) (n : Nat) :
    settle (n + 1) (s.emit (t :: rest)) = settle n (u.emit rest) := by
  have empty : { s with raised := [] } = s := by rw [← show s.raised = [] from quiet]
  have raised : (s.emit (t :: rest)).raised = t :: rest := by
    show s.raised ++ _ = _
    rw [show s.raised = [] from quiet]
    rfl
  have first : (s.emit (t :: rest)).settleOnce t rest = u.emit rest := by
    unfold State.settleOnce
    rw [if_neg (by rw [free]; decide)]
    show { ({ s with raised := [] } : State).runTask t with raised := (({ s with raised := [] } : State).runTask t).raised ++ rest } = _
    rw [empty, task]
    rfl
  conv => lhs; unfold settle; rw [raised]
  exact congrArg (settle n) first

theorem State.runTask_scan (s : State) : s.runTask .scan = s.scan := by unfold State.runTask; rfl

theorem State.runTask_doneCheck (s : State) (j : Slot) : s.runTask (.doneCheck j) = s.doneCheck j := by unfold State.runTask; rfl

/-- A scan that decides nothing, and then a DONE check that raises nothing, are all the work of an event. -/
theorem State.conclude_scan_doneCheck {s : State} (quiet : s.Quiet) (wait : s.da.wait = []) (held : ∀ a : Axis, s.heldGrant a = none) (j : Slot)
    (left : (s.doneCheck j).Quiet) : (s.emit [.scan, .doneCheck j]).conclude = (s.doneCheck j).conclude := by
  have run (n : Nat) : settle (n + 1 + 1) (s.emit [.scan, .doneCheck j]) = s.doneCheck j := by
    rw [settle_emit quiet rfl (s.runTask_scan.trans (State.scan_of_idle wait held)), settle_emit quiet rfl (s.runTask_doneCheck j), State.emit_nil,
      settle_quiet left]
  have fuel : Config.settleFuel = 3998 + 1 + 1 := rfl
  have settled : (s.emit [.scan, .doneCheck j]).settled = (s.doneCheck j).settled := by
    unfold State.settled
    rw [settle_quiet left, fuel, run]
  unfold State.conclude
  rw [settled]

/-! ## A hold that waits alone (R101, R110) -/

/-- A waiting entry that is all the arbiter has goes with its job, and the event has the DONE check left (R101, R109). -/
theorem State.haltJob_waiting {s : State} {j : Slot} {x : Job} {e : WaitEntry} (hx : s.jm.slots[j] = some x) (active : x.state = .active)
    (wait : s.da.wait = [e]) (own : e.slot = j) (held : ∀ b : Axis, s.heldGrant b = none)
    (still : ∀ b : Axis, AxisSet.has x.claimed b = true → s.ac[b].motion = .idle ∨ s.ac[b].motion = .dwell) (code : Code) (outcome : Option Code) :
    s.haltJob j code outcome = ((s.modJob j (Job.halted s j outcome)).setWait []).emit [.scan, .doneCheck j] := by
  have work : s.halted j outcome = ((s.modJob j (Job.halted s j outcome)).setWait []).emit [Task.scan] := by
    have waits : (s.modJob j (Job.halted s j outcome)).hasWork (fun e => e.slot == j) = true := by
      unfold State.hasWork
      rw [show (s.modJob j (Job.halted s j outcome)).da.wait = [e] from wait]
      simp [own]
    have left : (s.modJob j (Job.halted s j outcome)).da.wait.filter (fun e => !(e.slot == j)) = [] := by
      rw [show (s.modJob j (Job.halted s j outcome)).da.wait = [e] from wait]
      simp [own]
    unfold State.halted State.dropWork
    rw [waits, left]
    refine (if_neg (by decide)).trans (congrArg (fun t : State => t.emit [.scan]) (State.each_same (fun a _ => ?_)))
    rw [show ((s.modJob j (Job.halted s j outcome)).setWait []).heldGrant a = none from held a]
  have none : (s.halted j outcome).jobAxes x j false = [] := by
    refine List.eq_nil_iff_forall_not_mem.2 (fun a mem => ?_)
    rw [State.mem_jobAxes, State.halted_ac] at mem
    rcases still a mem.1 with e | e
    · exact absurd mem.2.1 (by rw [e]; decide)
    · exact absurd mem.2.1 (by rw [e]; decide)
  rw [State.haltJob_eq hx active, none, work]
  show { (s.modJob j (Job.halted s j outcome)).setWait [] with raised := (s.raised ++ [Task.scan]) ++ [Task.doneCheck j] } = _
  rw [List.append_assoc]
  rfl

theorem State.doneReady_iff {s : State} {j : Slot} {x : Job} : s.doneReady j x = true ↔ x.state ≠ .done ∧ (x.state = .ending ∨ x.finished = true)
    ∧ (∀ a : Axis, AxisSet.has x.claimed a = true → s.ac[a].motion = .idle ∨ s.ac[a].motion = .dwell)
    ∧ (∀ l : LatchNo, s.lc[l].relock = .pending → s.lc[l].relockJob ≠ some j) ∧ x.waitsPause = false := by
  have rest (m : Motion) : m.atRest = true ↔ m = .idle ∨ m = .dwell := by cases m <;> decide
  unfold State.doneReady
  simp [List.all_eq_true, rest, and_assoc, Decidable.imp_iff_not_or]

theorem State.doneCheck_ready {s : State} {j : Slot} {x : Job} (hx : s.jm.slots[j] = some x) (ready : s.doneReady j x = true) :
    s.doneCheck j = s.completeJob j x := by
  unfold State.doneCheck
  rw [hx]
  exact if_pos ready

/-- A partner's job reaches DONE: its slot joins the done list (R110). -/
theorem State.completeJob_partner {s : State} {j : Slot} {x : Job} {r : Role} (partner : x.source = .partner r) :
    (s.completeJob j x).jm.slots[j] = some (s.doneRecord x) ∧ (s.completeJob j x).jm.doneList = s.jm.doneList ++ [j] := by
  have record : (s.completeJob j x).jm
      = { s.jm.leave j with slots := (s.jm.leave j).slots.set j (some (s.doneRecord x)), doneList := (s.jm.leave j).doneList ++ [j] } := by
    unfold State.completeJob JobManager.complete
    dsimp only
    rw [show (s.doneRecord x).source = .partner r from partner]
  rw [record]
  exact ⟨(Machine.setSlot_get ..).trans (if_pos rfl), rfl⟩

theorem State.releaseAxes_motion (s : State) (j : Slot) (a : Axis) : (s.releaseAxes j).ac[a].motion = s.ac[a].motion := by
  unfold State.releaseAxes
  simp only [Fin.getElem_fin, Vector.getElem_map]

/-- The partner's ACTIVE hold on an axis (R99 to R101). -/
theorem State.activeHold_eq {s : State} {r : Role} {a : Axis} {j : Slot} (h : s.activeHold r a = some j) {x : Job} (hx : s.jm.slots[j] = some x) :
    x.state = .active ∧ x.kind = .hold ∧ x.source = .partner r ∧ x.axis = some a := by
  have test := List.find?_some h
  rw [hx] at test
  simpa [and_assoc] using test

end Machine

open Machine

/-- Settles O20: every job with the tag is stopped in its turn, and stays stopped through the work of the event. -/
theorem stopJobStops : Obligations.StopJobStops := by
  intro s id r tag b hears gate
  have effect := State.effect_stopJob hears tag b
  have tagged : (s.heard r).taggedJobs r (b.setWidth 4) = s.taggedJobs r (b.setWidth 4) := by
    unfold State.taggedJobs
    rw [State.heard_jm]
  refine ⟨fun j rest jobs => ?_, fun quiet none => ?_⟩
  · have reply : s.effect (.stopJob id tag b) = ((s.heard r).each (j :: rest) State.stopJob).answerDone r .stopJob tag (wordDetail j.val) := by
      rw [effect, State.reqStopJob, gate]
      dsimp only
      rw [tagged, jobs]
    generalize hv : (s.heard r).each (j :: rest) State.stopJob = v at reply
    have follows := (v.answerDone r .stopJob tag (wordDetail j.val)).conclude_follows
    refine ⟨_, exec_eq _ s, ?_, fun k mem x hx active => ?_⟩
    · rw [reply]
      exact State.Answers.follows follows (v.answer_answers ..)
    · obtain ⟨⟨y, hy, ended, outcome, source⟩, stopped⟩ := State.stopJobs_get active (j :: rest) (s.heard r) mem (by rw [State.heard_jm]; exact hx)
      rw [hv] at hy stopped
      have partner : x.source = .partner r := by
        have member : k ∈ s.taggedJobs r (b.setWidth 4) := jobs ▸ mem
        have test := (List.mem_filter.1 member).2
        rw [hx] at test
        simp only [Bool.and_eq_true, beq_iff_eq] at test
        exact test.1.1
      rw [reply]
      refine ⟨follows.jobEnded (y := y) ?_ (source.trans partner) ended outcome, fun a m claimed hm job moving => ?_⟩
      · rw [State.answerDone, v.answer_slots]
        exact hy
      · rw [State.heard_ac] at stopped
        have rest := stopped a m claimed hm job moving
        have same := follows.at_rest (a := a) (by rw [State.answerDone, State.answer_ac]; exact rest)
        rw [same.motion, State.answerDone, State.answer_ac]
        exact rest
  · refine exec_settles (effect.trans ?_) ((State.Quiet.heard quiet r).refuse ..)
    rw [State.reqStopJob, gate]
    dsimp only
    rw [tagged, none]

/-- Settles O21: every ACTIVE job of the class lists is stopped in its turn; a pad's may be over with the event. -/
theorem stopAllStops : Obligations.StopAllStops := by
  intro s id r tag hears allowed
  have reply : s.effect (.stopAll id tag) =
      ((s.heard r).each (s.jm.attended ++ s.jm.scenes ++ s.jm.services) State.stopJob).refuse r .stopAll tag .done := by
    rw [State.effect_stopAll hears, State.reqStopAll, State.gate_eq_none allowed rfl]
    dsimp only
    rw [State.heard_jm]
  have but := State.stopJobs_but (ok := fun q => Task.padEntry q ∈ (s.heard r).raised) (s.jm.attended ++ s.jm.scenes ++ s.jm.services) (s.heard r)
  have sources := fun k => State.stopJobs_source k (s.jm.attended ++ s.jm.scenes ++ s.jm.services) (s.heard r)
  have halts := fun (k : Slot) (x : Job) (active : x.state = .active) (mem : k ∈ s.jm.attended ++ s.jm.scenes ++ s.jm.services) (hx : s.jm.slots[k] = some x) =>
    State.stopJobs_get active _ (s.heard r) mem (by rw [State.heard_jm]; exact hx)
  rw [State.heard_jm] at sources
  rw [State.heard_ac] at halts
  generalize (s.heard r).each (s.jm.attended ++ s.jm.scenes ++ s.jm.services) State.stopJob = v at reply but sources halts
  have follows := (v.refuse r .stopAll tag .done).conclude_follows
  have slots : (v.refuse r .stopAll tag .done).jm.slots = v.jm.slots := v.answer_slots ..
  have chans : (v.refuse r .stopAll tag .done).ac = v.ac := v.answer_ac ..
  refine ⟨_, exec_eq _ s, ?_, fun k mem x hx active => ?_⟩
  · rw [reply]
    obtain ⟨y, hy, kind, same, code, _⟩ := State.Answers.follows follows (v.answer_answers ..)
    exact ⟨y, hy, kind, same, code⟩
  · obtain ⟨⟨y, hy, ended, outcome, source⟩, stopped⟩ := halts k x active mem hx
    rw [reply]
    refine ⟨fun q partner => follows.jobEnded (by rw [slots]; exact hy) (source.trans partner) ended outcome, fun p pad quiet placed => ?_,
      fun a m claimed hm job moving => ?_⟩
    · have own : k = padSlot p := placed k x p hx pad
      subst own
      refine follows.padEnded (fun j z q hz own => ?_) (fun mem => ?_) (by rw [slots]; exact hy) (source.trans pad) ended outcome
      · rw [slots] at hz
        obtain ⟨w, hw, same⟩ := sources j z hz
        exact placed j w q hw (same.trans own)
      · have raised : (v.refuse r .stopAll tag .done).raised = v.raised := State.putAnswer_raised ..
        rw [raised] at mem
        have early := but.rest.entries p mem
        rw [show (s.heard r).raised = [] from State.Quiet.heard quiet r] at early
        cases early
    · have rest := stopped a m claimed hm job moving
      rw [← chans] at rest
      rw [(follows.at_rest rest).motion]
      exact rest

/-- Settles O19: the halt of the hold, its stop, and the DONE check of a hold that still waited. -/
theorem releaseEndsHold : Obligations.ReleaseEndsHold := by
  intro s id r tag ab a hears arg gate
  have effect := State.effect_releaseMove hears tag ab
  have holds : (s.heard r).activeHold r a = s.activeHold r a := by
    unfold State.activeHold
    rw [State.heard_jm]
  refine ⟨fun j x hold hx => ?_, fun quiet none => ?_⟩
  · have halt : s.effect (.releaseMove id tag ab) = (s.heard r).haltJob j .done none := by
      rw [effect, State.reqRelease, arg]
      dsimp only
      rw [gate, holds, hold]
    obtain ⟨active, _, partner, _⟩ := State.activeHold_eq hold hx
    have hv : (s.heard r).jm.slots[j] = some x := by rw [State.heard_jm]; exact hx
    have chan : (s.heard r).ac[a] = s.ac[a] := by rw [State.heard_ac]
    have slot := (State.haltJob_slots hv active .done none j).trans (if_pos rfl)
    have follows := ((s.heard r).haltJob j .done none).conclude_follows
    obtain ⟨y, hy, ends⟩ := follows.jobs j _ slot ⟨r, partner⟩
    have early : (s.heard r).Follows ((s.heard r).haltJob j .done none).conclude := (State.haltJob_but (s.heard r) j .done none).concludes
    obtain ⟨z, hz, goesOn⟩ := early.jobs j x hv ⟨r, partner⟩
    have same : z = y := Option.some.inj (hz.symm.trans hy)
    subst same
    refine ⟨_, z, (exec_eq _ s).trans (by rw [halt]), early, hz, ends.ended (fun h => (by cases h)), goesOn, rfl, ?_, fun m claimed hm job => ⟨fun driving => ?_, fun releasing => ?_⟩,
      fun e quiet wait own held still unlocked undecided going => ?_⟩
    · rw [(State.haltJob_inChannels hv active .done none).wait, State.heard_da]
      rfl
    · obtain ⟨v, vchan, run⟩ := State.haltJob_stops hv active claimed (chan ▸ hm) job (chan ▸ Motion.stoppable_of_driving driving) .done none
      rw [chan] at vchan
      refine follows.brakes ?_
      rw [run, State.stopAxis_driving (by rw [vchan]; exact driving), if_neg (by decide), vchan]
      exact Channel.brake_brakesWith hm .done none
    · obtain ⟨v, vchan, run⟩ := State.haltJob_stops hv active claimed (chan ▸ hm) job (by rw [chan, releasing]; rfl) .done none
      rw [chan] at vchan
      obtain ⟨dwell, last⟩ := State.stopAxis_releasing (s := v) (vchan ▸ releasing) (vchan ▸ hm) (code := .done) (by decide) none
      rw [← run] at dwell last
      rw [(follows.at_rest (.inr dwell)).but_move]
      exact ⟨dwell, last⟩
    · have hq := State.Quiet.heard quiet r
      have heldNone : ∀ b : Axis, (s.heard r).heldGrant b = none := fun b => by
        unfold State.heldGrant
        rw [State.heard_da]
        exact held b
      have idle : ∀ b : Axis, AxisSet.has x.claimed b = true → (s.heard r).ac[b].motion = .idle ∨ (s.heard r).ac[b].motion = .dwell := by
        rw [State.heard_ac]
        exact still
      have waiting := State.haltJob_waiting hv active (by rw [State.heard_da]; exact wait) own heldNone idle .done none
      generalize hu : ((s.heard r).modJob j (Job.halted (s.heard r) j none)).setWait [] = u at waiting
      have uac : u.ac = s.ac := by rw [← hu]; exact s.heard_ac r
      have ujm : u.jm.slots[j] = some (Job.halted (s.heard r) j none x) := by
        rw [← hu]
        refine (State.modJob_get ..).trans ((if_pos rfl).trans ?_)
        rw [hv]
        rfl
      have ready : u.doneReady j (Job.halted (s.heard r) j none x) = true := by
        refine State.doneReady_iff.2 ⟨fun h => (by cases h), .inl rfl, fun b claimed => ?_, fun l => ?_, going⟩
        · rw [uac]
          exact still b claimed
        · rw [← hu]
          show (s.heard r).lc[l].relock = _ → (s.heard r).lc[l].relockJob ≠ _
          rw [State.heard_lc]
          exact unlocked l
      have check := State.doneCheck_ready ujm ready
      have uquiet : u.Quiet := by rw [← hu]; exact hq
      have settles : (u.completeJob j (Job.halted (s.heard r) j none x)).Settles ((s.heard r).haltJob j .done none).conclude := by
        rw [waiting, State.conclude_scan_doneCheck uquiet (by rw [← hu]; rfl) (by rw [← hu]; exact heldNone) j (by rw [check]; exact uquiet), check]
        exact State.conclude_settles uquiet
      obtain ⟨record, list⟩ := State.completeJob_partner (s := u) (j := j) (x := Job.halted (s.heard r) j none x) partner
      have final : z = u.doneRecord (Job.halted (s.heard r) j none x) := by
        rw [← settles.slots] at record
        exact Option.some.inj (hz.symm.trans record)
      refine ⟨?_, by rw [final]; rfl, ?_, ?_, fun b => ?_⟩
      · rw [settles.da, ← hu]
        rfl
      · rw [final]
        show some (((x.outcome.or none) : Option Code).getD .done) = _
        rw [undecided]
        rfl
      · obtain ⟨_, _, _, done⟩ := settles.lists
        rw [done, list, ← hu]
        show (s.heard r).jm.doneList ++ [j] = _
        rw [s.heard_jm]
      · rw [settles.ac, ← uac]
        exact State.releaseAxes_motion u j b
  · refine exec_settles (effect.trans ?_) ((State.Quiet.heard quiet r).refuse ..)
    rw [State.reqRelease, arg]
    dsimp only
    rw [gate, holds, none]

end Sys2Proof
end

section
/-! The job records that the sequencers write, and the entries they place (3.5, 6.1, 6.3, 7.3 to 7.6). -/

namespace Sys2Proof
namespace Machine

/-! ## Rows -/

/-- A change of every row that keeps its axis reaches the row of an axis alone (R113). -/
theorem find?_row_map {f : Row → Row} (axis : ∀ r, (f r).axis = r.axis) (a : Axis) (l : List Row) :
    (l.map f).find? (fun r => r.axis == a) = (l.find? (fun r => r.axis == a)).map f := by
  rw [List.find?_map]
  congr 2
  funext r
  exact congrArg (· == a) (axis r)

theorem Job.row_eq {x : Job} {sc : Scene} (scene : x.scene = some sc) (a : Axis) : x.row a = sc.rows.find? (fun r => r.axis == a) := by
  unfold Job.row
  rw [scene]

/-- A job whose rows are changed one by one (R113). -/
theorem Job.row_map {x y : Job} {f : Row → Row} (axis : ∀ r, (f r).axis = r.axis)
    (scene : y.scene.map Scene.rows = x.scene.map (fun sc => sc.rows.map f)) (a : Axis) : y.row a = (x.row a).map f := by
  cases hx : x.scene with
  | none =>
    have hy : y.scene = none := by simpa [hx] using scene
    unfold Job.row
    rw [hx, hy]
    rfl
  | some sc =>
    cases hy : y.scene with
    | none => rw [hx, hy] at scene; cases scene
    | some k =>
      rw [hx, hy] at scene
      rw [Job.row_eq hx, Job.row_eq hy, Option.some.inj scene, find?_row_map axis]

theorem Job.row_axis {x : Job} {a : Axis} {w : Row} (h : x.row a = some w) : w.axis = a := by
  unfold Job.row at h
  split at h
  next => simpa using List.find?_some h
  next => cases h

/-- The job with the row of an axis changed (R113). -/
def Job.modRow (x : Job) (a : Axis) (f : Row → Row) : Job := { x with scene := x.scene.map (fun sc => sc.modRow a f) }

theorem State.modRow_eq (s : State) (j : Slot) (a : Axis) (f : Row → Row) : s.modRow j a f = s.modJob j (fun x => x.modRow a f) := rfl

/-- The changed row of an axis. -/
theorem Job.modRow_row {x : Job} {a : Axis} {w : Row} (h : x.row a = some w) {f : Row → Row} (axis : ∀ r, (f r).axis = r.axis) :
    (x.modRow a f).row a = some (f w) := by
  have own := Job.row_axis h
  rw [Job.row_map (x := x) (y := x.modRow a f) (f := fun r => if r.axis = a then f r else r) (fun r => by rw [apply_ite Row.axis, axis, ite_self])
    (by unfold Job.modRow; rw [Option.map_map]; rfl), h]
  exact congrArg some (if_pos own)

/-- A job with its rows aborted has the aborted row of an axis (R125). -/
theorem Row.abort_axis (r : Row) : r.abort.axis = r.axis := by
  unfold Row.abort
  split <;> rfl

/-- An abort leaves a row that has ended, and one that is backing off (R125). -/
theorem Row.abort_of {r : Row} (h : r.state = .ended ∨ r.state = .backingOff) : r.abort = r := by
  unfold Row.abort
  rcases h with e | e <;> rw [e]

/-! ## The records -/

/-- The work of a job reported finished (R93, R101, R110). -/
def Job.finish (x : Job) : Job := if x.state = .done then x else { x with finished := true, state := .ending, holdTimer := x.holdTimer.hold }

/-- Nothing more is homed under the job (R109, R125, R152). -/
def Job.overHoming (x : Job) : Job := { x with homing := x.homing.map (fun h => { h with stage := .idle }) }

/-- An ACTIVE scene aborted at its first decisive outcome (R125). -/
def Job.aborted (x : Job) : Job :=
  let y : Job := { x with
    scene := x.scene.map (fun sc => { sc with rows := sc.rows.map Row.abort })
    homing := x.homing.map (fun h => { h with stage := .idle }) }
  if x.scene.elim 0 Scene.backOffs = 0 then y.finish else y

/-- A job that no decisive outcome has reached takes its first (R103, R125, R152). -/
def Job.decide (x : Job) (code : Code) (failing : Option Axis) (aux : Option Nat) : Job :=
  let y : Job := { x with outcome := some code, failing := failing, aux := aux }
  if x.state = .active then
    match x.cls with
    | .scene => y.aborted
    | .service => y.overHoming.finish
    | .attended => y
  else y

theorem Job.finish_outcome (x : Job) : x.finish.outcome = x.outcome ∧ x.finish.failing = x.failing ∧ x.finish.aux = x.aux ∧ x.finish.scene = x.scene
    ∧ x.finish.homing = x.homing ∧ x.finish.source = x.source := by
  unfold Job.finish
  split
  · exact ⟨rfl, rfl, rfl, rfl, rfl, rfl⟩
  · exact ⟨rfl, rfl, rfl, rfl, rfl, rfl⟩

theorem Job.finish_of {x : Job} (going : x.state ≠ .done) : x.finish = { x with finished := true, state := .ending, holdTimer := x.holdTimer.hold } :=
  if_neg going

theorem Job.aborted_fields (x : Job) : x.aborted.outcome = x.outcome ∧ x.aborted.failing = x.failing ∧ x.aborted.aux = x.aux
    ∧ x.aborted.scene = x.scene.map (fun sc => { sc with rows := sc.rows.map Row.abort }) ∧ x.aborted.homing = x.homing.map (fun h => { h with stage := .idle })
    ∧ x.aborted.source = x.source := by
  unfold Job.aborted
  dsimp only
  split
  · exact Job.finish_outcome _
  · exact ⟨rfl, rfl, rfl, rfl, rfl, rfl⟩

theorem Job.decide_fields (x : Job) (code : Code) (failing : Option Axis) (aux : Option Nat) :
    (x.decide code failing aux).outcome = some code ∧ (x.decide code failing aux).failing = failing ∧ (x.decide code failing aux).aux = aux
      ∧ (x.decide code failing aux).source = x.source := by
  unfold Job.decide
  dsimp only
  split
  · split
    · obtain ⟨outcome, fails, detail, _, _, source⟩ := Job.aborted_fields { x with outcome := some code, failing := failing, aux := aux }
      exact ⟨outcome, fails, detail, source⟩
    · obtain ⟨outcome, fails, detail, _, _, source⟩ := Job.finish_outcome
        ({ x with outcome := some code, failing := failing, aux := aux } : Job).overHoming
      exact ⟨outcome, fails, detail, source⟩
    · exact ⟨rfl, rfl, rfl, rfl⟩
  · exact ⟨rfl, rfl, rfl, rfl⟩

/-- The row of an ACTIVE scene that takes its decisive outcome, where an abort leaves it (R125). -/
theorem Job.decide_row {x : Job} {a : Axis} {w : Row} (row : x.row a = some w) (kept : w.state = .ended ∨ w.state = .backingOff) (code : Code)
    (failing : Option Axis) (aux : Option Nat) : (x.decide code failing aux).row a = some w := by
  have same {y : Job} (h : y.scene = x.scene) : y.row a = some w := by
    unfold Job.row at row ⊢
    rw [h]
    exact row
  unfold Job.decide
  dsimp only
  split
  · split
    · have map := Job.row_map (x := x) (y := ({ x with outcome := some code, failing := failing, aux := aux } : Job).aborted) (f := Row.abort) Row.abort_axis
        (by rw [(Job.aborted_fields _).2.2.2.1, Option.map_map]; rfl) a
      rw [map, row]
      exact congrArg some (Row.abort_of kept)
    · exact same (Job.finish_outcome _).2.2.2.1
    · exact same rfl
  · exact same rfl

/-- A scene with no back-off outstanding, and a homing job, are ENDING with their decisive outcome (R93, R125, R152). -/
theorem Job.decide_ending {x : Job} (active : x.state = .active)
    (ended : (x.cls = .scene ∧ ∀ sc, x.scene = some sc → sc.backOffs = 0) ∨ x.cls = .service) (code : Code) (failing : Option Axis) (aux : Option Nat) :
    (x.decide code failing aux).state = .ending := by
  have ends {y : Job} (h : y.state = .active) : y.finish.state = .ending := by
    rw [Job.finish_of (by rw [h]; decide)]
  unfold Job.decide
  dsimp only
  rw [if_pos active]
  rcases ended with ⟨scene, none⟩ | service
  · rw [scene]
    dsimp only [Job.aborted]
    rw [if_pos]
    · exact ends active
    · cases h : x.scene with
      | none => rfl
      | some sc => exact none sc h
  · rw [service]
    exact ends active

/-! ## The operations on one slot -/

theorem State.finishWork_jm (s : State) (j : Slot) : (s.finishWork j).jm = (s.modJob j Job.finish).jm := rfl

theorem State.abortScene_jm {s : State} {j : Slot} {x : Job} (hx : s.jm.slots[j] = some x) : (s.abortScene j).jm.slots[j] = some x.aborted
    ∧ ∀ k : Slot, k ≠ j → (s.abortScene j).jm.slots[k] = s.jm.slots[k] := by
  let y : Job := { x with
    scene := x.scene.map (fun sc => { sc with rows := sc.rows.map Row.abort })
    homing := x.homing.map (fun h => { h with stage := .idle }) }
  let u := (s.modScene j (fun sc => { sc with rows := sc.rows.map Row.abort })).overHoming j
  have base : ∀ k : Slot, u.jm.slots[k] = if k = j then some y else s.jm.slots[k] := by
    intro k
    show (((s.modJob j _).modJob j _)).jm.slots[k] = _
    rw [State.modJob_modJob, State.modJob_get, hx]
    rfl
  let w := u.dropWork (fun e => e.slot == j && !e.obstructed)
  let v := w.each (w.jobAxes x j true) (fun t a => t.stopAxis a .stopped none)
  have stops : v.jm = u.jm := by
    have dropped : w.jm = u.jm := (State.dropWork_inChannels u _).jm
    exact (State.InChannels.each (fun t a => t.stopAxis_inChannels a .stopped none) _ w).jm.trans dropped
  have slots : ∀ k : Slot, v.jm.slots[k] = if k = j then some y else s.jm.slots[k] := fun k => by rw [stops]; exact base k
  have finished : ∀ k : Slot, (v.finishWork j).jm.slots[k] = if k = j then some y.finish else s.jm.slots[k] := by
    intro k
    rw [State.finishWork_jm, State.modJob_get, slots, slots, if_pos rfl]
    split
    · rfl
    · rfl
  have run : s.abortScene j = if x.scene.elim 0 Scene.backOffs = 0 then v.finishWork j else v := by
    unfold State.abortScene
    rw [hx]
    dsimp only
    cases x.scene with
    | none => rfl
    | some sc => rfl
  have record : x.aborted = if x.scene.elim 0 Scene.backOffs = 0 then y.finish else y := rfl
  rw [run, record]
  split
  · exact ⟨(finished j).trans (if_pos rfl), fun k h => (finished k).trans (if_neg h)⟩
  · exact ⟨(slots j).trans (if_pos rfl), fun k h => (slots k).trans (if_neg h)⟩

theorem State.endHoming_jm {s : State} {j : Slot} {x : Job} (hx : s.jm.slots[j] = some x) :
    (s.endHoming j).jm.slots[j] = some x.overHoming.finish
      ∧ ∀ k : Slot, k ≠ j → (s.endHoming j).jm.slots[k] = s.jm.slots[k] := by
  have dropped : ((s.overHoming j).dropWork (fun e => e.slot == j)).jm = (s.overHoming j).jm := (State.dropWork_inChannels _ _).jm
  have slots : ∀ k : Slot, (s.endHoming j).jm.slots[k]
      = if k = j then some x.overHoming.finish else s.jm.slots[k] := by
    intro k
    unfold State.endHoming
    rw [State.finishWork_jm, State.modJob_get, dropped]
    show (if k = j then ((s.modJob j _).jm.slots[j]).map _ else (s.modJob j _).jm.slots[k]) = _
    rw [State.modJob_get, State.modJob_get, if_pos rfl, hx]
    split
    · rfl
    · rfl
  exact ⟨(slots j).trans (if_pos rfl), fun k h => (slots k).trans (if_neg h)⟩

/-- An undecided job takes a decisive outcome; every other slot stays (R103). -/
theorem State.takeOutcome_slot {s : State} {j : Slot} {x : Job} (hx : s.jm.slots[j] = some x) (going : x.state ≠ .done) (undecided : x.outcome = none)
    (code : Code) (failing : Option Axis) (aux : Option Nat) : (s.takeOutcome j code failing aux).jm.slots[j] = some (x.decide code failing aux)
      ∧ ∀ k : Slot, k ≠ j → (s.takeOutcome j code failing aux).jm.slots[k] = s.jm.slots[k] := by
  have hy : (s.modJob j (fun y => { y with outcome := some code, failing := failing, aux := aux })).jm.slots[j]
      = some { x with outcome := some code, failing := failing, aux := aux } := by
    rw [State.modJob_get, if_pos rfl, hx]
    rfl
  have other : ∀ k : Slot, k ≠ j → (s.modJob j (fun y => { y with outcome := some code, failing := failing, aux := aux })).jm.slots[k] = s.jm.slots[k] :=
    fun k h => (State.modJob_get ..).trans (if_neg h)
  unfold State.takeOutcome Job.decide
  rw [hx]
  dsimp only
  rw [if_neg (fun h => h.elim going (fun h => by rw [undecided] at h; cases h))]
  generalize s.modJob j (fun y => { y with outcome := some code, failing := failing, aux := aux }) = u at hy other ⊢
  generalize ({ x with outcome := some code, failing := failing, aux := aux } : Job) = z at hy ⊢
  by_cases active : x.state = .active
  · rw [if_pos active, if_pos active]
    cases x.cls with
    | scene =>
      obtain ⟨own, rest⟩ := State.abortScene_jm hy
      exact ⟨own, fun k h => (rest k h).trans (other k h)⟩
    | service =>
      obtain ⟨own, rest⟩ := State.endHoming_jm hy
      exact ⟨own, fun k h => (rest k h).trans (other k h)⟩
    | attended => exact ⟨hy, other⟩
  · rw [if_neg active, if_neg active]
    exact ⟨hy, other⟩

/-- A decided job, a DONE one, and a FREE slot take no outcome (R103). -/
theorem State.takeOutcome_same {s : State} {j : Slot} (ended : ∀ x, s.jm.slots[j] = some x → x.state = .done ∨ x.outcome.isSome = true) (code : Code)
    (failing : Option Axis) (aux : Option Nat) : s.takeOutcome j code failing aux = s := by
  unfold State.takeOutcome
  split
  · rfl
  · exact if_pos (ended _ ‹_›)

end Machine
end Sys2Proof
end

section
/-! The steps of scenes and homings: walks, re-tests, ends of moves, and the resume (7.3 to 7.6, 9.4). -/

namespace Sys2Proof
namespace Machine

/-! ## Entries placed on the wait list (R54) -/

theorem find?_insertEntry {e : WaitEntry} : ∀ {l : List WaitEntry}, l.find? (fun x => x.axis == e.axis) = none →
    (insertEntry e l).find? (fun x => x.axis == e.axis) = some e
  | [], _ => by simp [insertEntry]
  | y :: l, free => by
    unfold insertEntry
    split
    · simp
    · rw [List.find?_cons_of_neg (p := fun x : WaitEntry => x.axis == e.axis) (List.find?_eq_none.1 free y (.head _))]
      exact find?_insertEntry (List.find?_eq_none.2 (fun x hx => List.find?_eq_none.1 free x (.tail _ hx)))

theorem State.entryOf_eq_none_iff {s : State} {a : Axis} : s.entryOf a = none ↔ a ∉ s.da.wait.map WaitEntry.axis := by
  unfold State.entryOf
  simp

theorem State.nextArrival_axes (s : State) : s.nextArrival.2.map WaitEntry.axis = s.da.wait.map WaitEntry.axis := by
  unfold State.nextArrival
  split
  · exact renumber_axes _ _
  · rfl

/-- An axis without an entry has the placed one (R54). -/
theorem State.place_entryOf {s : State} {a : Axis} (free : s.entryOf a = none) (j : Slot) (rank : Nat) (k : MoveKind) (dir : Dir) (v : Speed) (t : Option Nat) :
    (s.place j a rank k dir v t).entryOf a = some
      { axis := a, slot := j, rank := rank, arrival := s.nextArrival.1, bypass := 0, kind := k, dir := dir, speed := v, target := t } := by
  have open_ : s.nextArrival.2.find? (fun x => x.axis == a) = none := by
    rw [State.entryOf_eq_none_iff, ← s.nextArrival_axes] at free
    simpa using free
  unfold State.place
  rw [free]
  exact find?_insertEntry (e := { axis := a, slot := j, rank := rank, arrival := s.nextArrival.1, bypass := 0, kind := k, dir := dir, speed := v, target := t })
    open_

theorem State.place_jm (s : State) (j : Slot) (a : Axis) (rank : Nat) (k : MoveKind) (dir : Dir) (v : Speed) (t : Option Nat) :
    (s.place j a rank k dir v t).jm = s.jm := by
  unfold State.place
  dsimp only
  split <;> rfl

theorem State.entryOf_congr {s t : State} (h : t.da.wait = s.da.wait) (a : Axis) : t.entryOf a = s.entryOf a := by
  unfold State.entryOf
  rw [h]

/-- An entry that a job's dropped work does not pick stays (R125). -/
theorem State.dropWork_entryOf {s : State} {a : Axis} {e : WaitEntry} (entry : s.entryOf a = some e) {f : WaitEntry → Bool} (kept : f e = false) :
    (s.dropWork f).entryOf a = some e := by
  have left : (s.dropWork f).da.wait = s.da.wait.filter (fun e => !(f e)) := (State.dropWork_inChannels s f).wait
  have found : s.da.wait.find? (fun e => e.axis == a) = some e := entry
  unfold State.entryOf
  rw [left]
  obtain ⟨own, before, after, list, earlier⟩ := List.find?_eq_some_iff_append.1 found
  rw [list, List.filter_append, List.filter_cons_of_pos (by rw [kept]; rfl), List.find?_append]
  have earlier : (before.filter (fun e => !(f e))).find? (fun e => e.axis == a) = none :=
    List.find?_eq_none.2 (fun x hx => by simpa using earlier x (List.mem_filter.1 hx).1)
  rw [earlier, List.find?_cons_of_pos (p := fun e : WaitEntry => e.axis == a) own]
  rfl

/-- A back-off after an obstruction stays on the wait list when its scene is decided (R125). -/
theorem State.takeOutcome_entryOf {s : State} {j : Slot} {a : Axis} {e : WaitEntry} (entry : s.entryOf a = some e) (backOff : e.obstructed = true)
    (scene : ∀ x, s.jm.slots[j] = some x → x.cls = .scene) (code : Code) (failing : Option Axis) (aux : Option Nat) :
    (s.takeOutcome j code failing aux).entryOf a = some e := by
  unfold State.takeOutcome
  split
  next => exact entry
  next x hx =>
    split
    next => exact entry
    next =>
      dsimp only
      rw [scene x hx]
      dsimp only
      split
      next =>
        generalize hu : s.modJob j (fun y => { y with outcome := some code, failing := failing, aux := aux }) = u
        have start : u.entryOf a = some e := by rw [← hu]; exact entry
        unfold State.abortScene
        split
        next => exact start
        next y hy =>
          dsimp only
          generalize hv : (u.modScene j (fun sc => { sc with rows := sc.rows.map Row.abort })).overHoming j = v
          have dropped : (v.dropWork (fun e => e.slot == j && !e.obstructed)).entryOf a = some e :=
            State.dropWork_entryOf (by rw [← hv]; exact start) (by rw [backOff]; simp)
          generalize v.dropWork (fun e => e.slot == j && !e.obstructed) = w at dropped ⊢
          have stopped : ∀ l : List Axis, (w.each l (fun t a => t.stopAxis a .stopped none)).entryOf a = some e := fun l =>
            (State.entryOf_congr (State.InChannels.each (fun t a => t.stopAxis_inChannels a .stopped none) l w).wait a).trans dropped
          split
          next =>
            split
            · exact stopped _
            · exact stopped _
          next => exact stopped _
      next => exact entry

/-! ## Jobs that go on -/

theorem State.runningJob_eq {s : State} {j : Slot} {x : Job} (hx : s.jm.slots[j] = some x) (active : x.state = .active) (undecided : x.outcome = none) :
    s.runningJob j = some x := by
  unfold State.runningJob
  rw [hx]
  exact if_pos (by unfold Job.running; rw [active, undecided]; rfl)

theorem State.modJob_slot {s : State} {j : Slot} {x : Job} (hx : s.jm.slots[j] = some x) (f : Job → Job) : (s.modJob j f).jm.slots[j] = some (f x) := by
  rw [State.modJob_get, if_pos rfl, hx]
  rfl

theorem State.modRow_slot {s : State} {j : Slot} {x : Job} (hx : s.jm.slots[j] = some x) (a : Axis) (f : Row → Row) :
    (s.modRow j a f).jm.slots[j] = some (x.modRow a f) := State.modJob_slot hx _

/-- A scene move placed toward its target (R118). -/
theorem State.placeRow_places {s : State} {j : Slot} {x : Job} {w : Row} (hx : s.jm.slots[j] = some x) :
    (s.placeRow j w).jm.slots[j] = some (x.modRow w.axis (fun r => r.enter .waiting))
      ∧ (s.entryOf w.axis = none → ∃ e, (s.placeRow j w).entryOf w.axis = some e ∧ e.slot = j ∧ e.rank = 1 ∧ e.kind = .scene ∧ e.speed = w.speed
        ∧ e.target = some w.target ∧ (s.ac[w.axis].position < w.target → e.dir = .positive) ∧ (w.target < s.ac[w.axis].position → e.dir = .negative)) := by
  have slot := State.modRow_slot hx w.axis (fun r => r.enter .waiting)
  have places (u : State) (same : u.jm = (s.modRow j w.axis (fun r => r.enter .waiting)).jm) (list : u.da.wait = s.da.wait) (dir : Dir) :
      (u.place j w.axis 1 .scene dir w.speed (some w.target)).jm.slots[j] = some (x.modRow w.axis (fun r => r.enter .waiting))
        ∧ (s.entryOf w.axis = none → ∃ e, (u.place j w.axis 1 .scene dir w.speed (some w.target)).entryOf w.axis = some e ∧ e.slot = j ∧ e.rank = 1
          ∧ e.kind = .scene ∧ e.speed = w.speed ∧ e.target = some w.target ∧ e.dir = dir) := by
    refine ⟨?_, fun free => ⟨_, State.place_entryOf ((State.entryOf_congr list w.axis).trans free) .., rfl, rfl, rfl, rfl, rfl, rfl⟩⟩
    rw [State.place_jm, same]
    exact slot
  unfold State.placeRow
  dsimp only
  split
  next up =>
    obtain ⟨record, entry⟩ := places (s.modRow j w.axis (fun r => r.enter .waiting)) rfl rfl .positive
    refine ⟨record, fun free => ?_⟩
    obtain ⟨e, found, own, rank, kind, speed, target, dir⟩ := entry free
    exact ⟨e, found, own, rank, kind, speed, target, fun _ => dir, fun h => by omega⟩
  next up =>
    split
    next down =>
      obtain ⟨record, entry⟩ := places (s.modRow j w.axis (fun r => r.enter .waiting)) rfl rfl .negative
      refine ⟨record, fun free => ?_⟩
      obtain ⟨e, found, own, rank, kind, speed, target, dir⟩ := entry free
      exact ⟨e, found, own, rank, kind, speed, target, fun h => absurd h up, fun _ => dir⟩
    next down =>
      obtain ⟨record, entry⟩ := places (s.modRow j w.axis (fun r => r.enter .waiting)).coin.2 rfl rfl
        (if (s.modRow j w.axis (fun r => r.enter .waiting)).coin.1 then .positive else .negative)
      refine ⟨record, fun free => ?_⟩
      obtain ⟨e, found, own, rank, kind, speed, target, _⟩ := entry free
      exact ⟨e, found, own, rank, kind, speed, target, fun h => absurd h up, fun h => absurd h down⟩

/-- A scene move that fails decides its scene with its axis (R118, R119). -/
theorem State.failRow_fails {s : State} {j : Slot} {x : Job} {a : Axis} {w : Row} (hx : s.jm.slots[j] = some x) (row : x.row a = some w) (going : x.state ≠ .done)
    (undecided : x.outcome = none) (code : Code) (pred : Option Nat) :
    ∃ y, (s.failRow j a code pred).jm.slots[j] = some y ∧ y.row a = some (w.endWith code) ∧ y.outcome = some code ∧ y.failing = some a := by
  have slot := State.modRow_slot hx a (fun r => r.endWith code)
  have own := Job.modRow_row row (f := fun r => r.endWith code) (fun _ => rfl)
  obtain ⟨outcome, failing, _, _⟩ := Job.decide_fields (x.modRow a (fun r => r.endWith code)) code (some a) pred
  exact ⟨_, (State.takeOutcome_slot slot going undecided code (some a) pred).1, Job.decide_row own (.inl rfl) _ _ _, outcome, failing⟩

/-! ## Phases (R117) -/

theorem leastOf_mem : ∀ {l : List Nat} {n : Nat}, n ∈ l → (∀ m ∈ l, n ≤ m) → leastOf l = some n
  | [], _, mem, _ => absurd mem List.not_mem_nil
  | k :: l, n, mem, least => by
    unfold leastOf
    cases hl : leastOf l with
    | none =>
      have empty : l = [] := by
        cases l with
        | nil => rfl
        | cons m l =>
          unfold leastOf at hl
          split at hl <;> cases hl
      subst empty
      exact congrArg some (List.mem_singleton.1 mem).symm
    | some m =>
      have rest : m ∈ l ∧ ∀ v ∈ l, m ≤ v := leastOf_some hl
      have first := least k (.head _)
      have second := least m (.tail _ rest.1)
      rcases List.mem_cons.1 mem with rfl | later
      · exact congrArg some (Nat.min_eq_left second)
      · have same := rest.2 n later
        exact congrArg some (by omega)
where
  leastOf_some : ∀ {l : List Nat} {n : Nat}, leastOf l = some n → n ∈ l ∧ ∀ m ∈ l, n ≤ m
    | [], _, h => by cases h
    | k :: l, n, h => by
      unfold leastOf at h
      cases hl : leastOf l with
      | none =>
        rw [hl] at h
        cases h
        cases l with
        | nil => exact ⟨.head _, fun m mem => Nat.le_of_eq (List.mem_singleton.1 mem).symm⟩
        | cons m l =>
          unfold leastOf at hl
          split at hl <;> cases hl
      | some m =>
        rw [hl] at h
        cases h
        obtain ⟨mem, least⟩ := leastOf_some hl
        refine ⟨?_, fun v hv => ?_⟩
        · rcases Nat.le_total k m with e | e
          · rw [Nat.min_eq_left e]; exact .head _
          · rw [Nat.min_eq_right e]; exact .tail _ mem
        · rcases List.mem_cons.1 hv with rfl | hv
          · exact Nat.min_le_left ..
          · exact Nat.le_trans (Nat.min_le_right ..) (least v hv)

theorem State.sceneOf_eq {s : State} {j : Slot} {x : Job} {sc : Scene} (hx : s.jm.slots[j] = some x) (scene : x.scene = some sc) : s.sceneOf j = some sc := by
  unfold State.sceneOf
  rw [hx]
  exact scene

/-- The phases that a scene may start next (R117). -/
theorem Scene.nextPhase_eq (sc : Scene) :
    sc.nextPhase = leastOf ((sc.rows.map (fun r => r.phase)).filter (fun n => sc.phase.all (fun p => decide (p < n)))) := by
  unfold Scene.nextPhase
  cases sc.phase <;> rfl

theorem Scene.later_iff (sc : Scene) (n : Nat) : sc.phase.all (fun p => decide (p < n)) = true ↔ ∀ p, sc.phase = some p → p < n := by
  cases sc.phase <;> simp

theorem Scene.nextPhase_some {sc : Scene} {n : Nat} (held : ∃ w ∈ sc.rows, w.phase = n) (later : ∀ p, sc.phase = some p → p < n)
    (least : ∀ w ∈ sc.rows, (∀ p, sc.phase = some p → p < w.phase) → n ≤ w.phase) : sc.nextPhase = some n := by
  obtain ⟨w, hw, phase⟩ := held
  rw [Scene.nextPhase_eq]
  refine leastOf_mem (List.mem_filter.2 ⟨List.mem_map.2 ⟨w, hw, phase⟩, (sc.later_iff n).2 later⟩) (fun m mem => ?_)
  obtain ⟨listed, above⟩ := List.mem_filter.1 mem
  obtain ⟨v, hv, rfl⟩ := List.mem_map.1 listed
  exact least v hv ((sc.later_iff _).1 above)

theorem Scene.nextPhase_none {sc : Scene} (past : ∀ w ∈ sc.rows, ∃ p, sc.phase = some p ∧ w.phase ≤ p) : sc.nextPhase = none := by
  have empty : (sc.rows.map (fun r => r.phase)).filter (fun n => sc.phase.all (fun p => decide (p < n))) = [] := by
    refine List.filter_eq_nil_iff.2 (fun n mem above => ?_)
    obtain ⟨w, hw, rfl⟩ := List.mem_map.1 mem
    obtain ⟨p, phase, le⟩ := past w hw
    exact absurd ((sc.later_iff _).1 above p phase) (by omega)
  rw [Scene.nextPhase_eq, empty]
  rfl

theorem State.startNextPhase_some {s : State} {j : Slot} {x : Job} {sc : Scene} (hx : s.jm.slots[j] = some x) (scene : x.scene = some sc) {n : Nat}
    (next : sc.nextPhase = some n) : s.startNextPhase j
      = (s.modScene j (fun y => { y with phase := some n })).emit [.phaseRows j ((sc.rows.filter (fun r => r.phase == n)).map (fun r => r.axis))] := by
  unfold State.startNextPhase
  rw [State.sceneOf_eq hx scene]
  dsimp only
  rw [next]

theorem State.startNextPhase_none {s : State} {j : Slot} {x : Job} {sc : Scene} (hx : s.jm.slots[j] = some x) (scene : x.scene = some sc)
    (next : sc.nextPhase = none) : s.startNextPhase j = s.finishWork j := by
  unfold State.startNextPhase
  rw [State.sceneOf_eq hx scene]
  dsimp only
  rw [next]

/-- The work of an ACTIVE job reported finished (R93). -/
theorem State.finishWork_ends {s : State} {j : Slot} {x : Job} (hx : s.jm.slots[j] = some x) (active : x.state = .active) :
    ∃ y, (s.finishWork j).jm.slots[j] = some y ∧ y.state = .ending ∧ y.finished = true ∧ y.outcome = x.outcome := by
  refine ⟨x.finish, State.modJob_slot hx Job.finish, ?_⟩
  rw [Job.finish_of (by rw [active]; decide)]
  exact ⟨rfl, rfl, rfl⟩

/-! ## The rows of a walk and of a re-test (R118, R121) -/

theorem State.onPlace_iff (s : State) (a : Axis) (t : Nat) : s.onPlace a t = true ↔ Sys2Proof.dist s.ac[a].position t ≤ s.tolerance a := decide_eq_true_iff

theorem State.startRow_lost {s : State} {j : Slot} {w : Row} (lost : s.validity[w.axis] ≠ .valid) : s.startRow j w = s.failRow j w.axis .unverified none :=
  if_pos lost

theorem State.startRow_valid {s : State} {j : Slot} {w : Row} (valid : s.validity[w.axis] = .valid) : s.startRow j w =
    if s.onPlace w.axis w.target then s.modRow j w.axis (fun x => x.enter .skipped)
    else if s.within w.axis w.target then s.placeRow j w else s.deferRow j w.axis := if_neg (fun h => h valid)

theorem State.retestRow_lost {s : State} {j : Slot} {w : Row} (deferred : w.state = .deferred) (lost : s.validity[w.axis] ≠ .valid) :
    s.retestRow j w = s.failRow j w.axis .unverified none := (if_neg (fun h => h deferred)).trans (if_pos lost)

theorem State.retestRow_valid {s : State} {j : Slot} {w : Row} (deferred : w.state = .deferred) (valid : s.validity[w.axis] = .valid) :
    s.retestRow j w = if s.within w.axis w.target then s.placeRow j w else s :=
  (if_neg (fun h => h deferred)).trans (if_neg (fun h => h valid))

/-! ## The tests of a phase (R117, R122) -/

theorem Row.unfinished_iff (r : Row) : r.unfinished = true ↔ r.state ∈ [.pending, .waiting, .deferred, .granted, .backingOff, .paused] := by
  unfold Row.unfinished
  cases r.state <;> decide

theorem State.relockPending_iff (s : State) (j : Slot) (a : Axis) :
    s.relockPending j a = false ↔ ∀ l : LatchNo, axisOfLatch l = a → s.lc[l].relock = .pending → s.lc[l].relockJob ≠ some j := by
  unfold State.relockPending State.latch
  cases h : latchOf a with
  | none =>
    refine ⟨fun _ l own => ?_, fun _ => rfl⟩
    rw [← own, latchOf_axisOfLatch] at h
    cases h
  | some l =>
    have own := axisOfLatch_of h
    constructor
    · intro test k hk pending job
      have same : k = l := by
        rw [← hk, latchOf_axisOfLatch] at h
        exact Option.some.inj h
      subst same
      rcases Bool.and_eq_false_iff.1 test with test | test
      · exact absurd pending (by simpa using test)
      · exact absurd job (by simpa using test)
    · intro test
      have := test l own
      simpa using this

theorem Scene.phaseRows_eq {sc : Scene} {p : Nat} (phase : sc.phase = some p) : sc.phaseRows = sc.rows.filter (fun r => r.phase == p) := by
  unfold Scene.phaseRows
  rw [phase]
  refine List.filter_congr (fun r _ => Bool.eq_iff_iff.2 ?_)
  rw [beq_iff_eq, beq_iff_eq]
  exact ⟨fun h => (Option.some.inj h).symm, fun h => congrArg some h.symm⟩

theorem Scene.mem_phaseRows {sc : Scene} {p : Nat} (phase : sc.phase = some p) (w : Row) : w ∈ sc.phaseRows ↔ w ∈ sc.rows ∧ w.phase = p := by
  rw [Scene.phaseRows_eq phase, List.mem_filter, beq_iff_eq]

theorem State.phaseCheck_eq {s : State} {j : Slot} {x : Job} {sc : Scene} (hx : s.jm.slots[j] = some x) (active : x.state = .active) (undecided : x.outcome = none)
    (scene : x.scene = some sc) :
    s.phaseCheck j = if sc.phase.isSome && sc.phaseRows.all (fun r => s.endedOk j r || r.state == .skipped) then s.startNextPhase j else s := by
  unfold State.phaseCheck
  rw [State.runningJob_eq hx active undecided]
  dsimp only
  rw [scene]

theorem State.blockedTest_none {s : State} {j : Slot} {x : Job} {sc : Scene} (hx : s.jm.slots[j] = some x) (active : x.state = .active) (undecided : x.outcome = none)
    (scene : x.scene = some sc) (free : sc.phaseRows.find? (fun r => r.state == .deferred) = none) : s.blockedTest j = s := by
  unfold State.blockedTest
  rw [State.runningJob_eq hx active undecided]
  dsimp only
  rw [scene]
  dsimp only
  rw [free]

theorem State.blockedTest_some {s : State} {j : Slot} {x : Job} {sc : Scene} {w : Row} (hx : s.jm.slots[j] = some x) (active : x.state = .active)
    (undecided : x.outcome = none) (scene : x.scene = some sc) (first : sc.phaseRows.find? (fun r => r.state == .deferred) = some w) :
    s.blockedTest j = if sc.phaseRows.all (fun r => !r.unfinished || r.state == .deferred) && axes.all (fun a => s.ac[a].motion.atRest)
      then s.takeOutcome j .blocked none (some w.axis.val) else s := by
  unfold State.blockedTest
  rw [State.runningJob_eq hx active undecided]
  dsimp only
  rw [scene]
  dsimp only
  rw [first]

end Machine

open Machine

/-- Settles O33: each timer's and each test's effect on the job's record, its rows and its entries. -/
theorem jobTimers : Obligations.JobTimers := by
  refine ⟨fun s j x r hx partner active undecided => ⟨fun hold running => ?_, fun a w row deferred => ?_⟩, ?_⟩
  · have effect : s.effect (.holdExpiry j) = s.haltJob j .holdLost (some .holdLost) := by
      show s.holdLost j = _
      unfold State.holdLost
      rw [hx]
      exact if_pos (by rw [hold, active, running]; rfl)
    have slot := (State.haltJob_slots hx active .holdLost (some .holdLost) j).trans (if_pos rfl)
    have follows := (s.haltJob j .holdLost (some .holdLost)).conclude_follows
    refine ⟨_, (exec_eq _ s).trans (by rw [effect]), (State.haltJob_but s j _ _).concludes, follows.jobEnded slot partner (fun h => by cases h) rfl, fun a m claimed hm job moving => ?_⟩
    have rest := State.haltJob_motion hx active claimed hm job moving .holdLost (some .holdLost)
    rw [(follows.at_rest rest).motion]
    exact rest
  · have effect : s.effect (.deferralTimeout j a) = s.takeOutcome j .blocked none (some a.val) := by
      show s.deferralOver j a = _
      unfold State.deferralOver
      rw [State.runningJob_eq hx active undecided]
      dsimp only
      rw [row]
      exact if_pos deferred
    have slot := (State.takeOutcome_slot hx (by rw [active]; decide) undecided .blocked none (some a.val)).1
    obtain ⟨outcome, failing, aux, source⟩ := x.decide_fields .blocked none (some a.val)
    have follows := (s.takeOutcome j .blocked none (some a.val)).conclude_follows
    obtain ⟨y, hy, goesOn⟩ := follows.jobs j _ slot ⟨r, source.trans partner⟩
    obtain ⟨same, fails, detail⟩ := goesOn.decided (by rw [outcome]; rfl)
    refine ⟨_, (exec_eq _ s).trans (by rw [effect]), (State.takeOutcome_but s j _ _ _).concludes, y, hy, same.trans outcome, fails.trans failing, detail.trans aux,
      fun scene none => goesOn.ended ?_⟩
    rw [Job.decide_ending active (.inl ⟨scene, none⟩)]
    decide
  · intro s j x sc hx active undecided scene holds unverified placed
    have going : x.state ≠ .done := by rw [active]; decide
    refine ⟨fun n held later least => ?_, fun past => ?_, fun w a own row cls => ?_, fun p phase => ⟨fun ends => ?_, fun waits => ?_, fun w first rest still => ?_, fun none => ?_⟩⟩
    · rw [State.startNextPhase_some hx scene (Scene.nextPhase_some held later least)]
      refine ⟨?_, rfl⟩
      refine (State.modJob_slot hx _).trans ?_
      rw [scene]
      rfl
    · rw [State.startNextPhase_none hx scene (Scene.nextPhase_none past)]
      obtain ⟨y, hy, ending, finished, outcome⟩ := State.finishWork_ends hx active
      exact ⟨y, hy, ending, finished, outcome.trans undecided⟩
    · subst own
      have fails : unverified (s.failRow j w.axis .unverified none) w.axis := by
        obtain ⟨y, hy, own, outcome, failing⟩ := State.failRow_fails hx row going undecided .unverified none
        exact ⟨y, _, hy, own, rfl, rfl, outcome, failing⟩
      have changed (f : Row → Row) (axis : ∀ r, (f r).axis = r.axis) : holds (s.modRow j w.axis f) (f w) :=
        ⟨_, State.modRow_slot hx w.axis f, by rw [axis]; exact Job.modRow_row row axis⟩
      have places (free : s.entryOf w.axis = none) : placed (s.placeRow j w) w := by
        obtain ⟨slot, entry⟩ := State.placeRow_places (w := w) hx
        exact ⟨⟨_, slot, Job.modRow_row row (fun _ => rfl)⟩, entry free⟩
      have onPlace := s.onPlace_iff w.axis w.target
      refine ⟨fun lost => ?_, fun valid near => ?_, fun valid far fits free => ?_, fun valid far fits => ?_, fun deferred lost => ?_, fun deferred valid fits free => ?_,
        fun deferred valid fits => ?_⟩
      · rw [State.startRow_lost lost]
        exact fails
      · rw [State.startRow_valid valid, if_pos (onPlace.2 near)]
        exact ⟨changed _ (fun _ => rfl), rfl⟩
      · rw [State.startRow_valid valid, if_neg (fun h => absurd (onPlace.1 h) (by omega)), if_pos fits]
        exact places free
      · rw [State.startRow_valid valid, if_neg (fun h => absurd (onPlace.1 h) (by omega)), if_neg (by rw [fits]; decide)]
        exact ⟨changed (fun r => { r with state := .deferred, timer := .start }) (fun _ => rfl), rfl⟩
      · rw [State.retestRow_lost deferred lost]
        exact fails
      · rw [State.retestRow_valid deferred valid, if_pos fits]
        exact places free
      · rw [State.retestRow_valid deferred valid, if_neg (by rw [fits]; decide)]
    · rw [State.phaseCheck_eq hx active undecided scene, if_pos]
      rw [phase, Bool.and_eq_true]
      refine ⟨rfl, List.all_eq_true.2 (fun w mem => ?_)⟩
      obtain ⟨listed, own⟩ := (Scene.mem_phaseRows phase w).1 mem
      rcases ends w listed own with skipped | ⟨ended, last, free⟩
      · rw [skipped]
        simp
      · unfold State.endedOk
        rw [ended, last, (s.relockPending_iff j w.axis).2 free]
        rfl
    · obtain ⟨w, listed, own, state⟩ := waits
      rw [State.phaseCheck_eq hx active undecided scene, if_neg]
      intro all
      have test := List.all_eq_true.1 (Bool.and_eq_true_iff.1 all).2 w ((Scene.mem_phaseRows phase w).2 ⟨listed, own⟩)
      unfold State.endedOk at test
      revert test
      generalize w.state = v at state
      revert state
      cases v <;> simp
    · rw [← Scene.phaseRows_eq phase] at first
      rw [State.blockedTest_some hx active undecided scene first, if_pos]
      · obtain ⟨outcome, failing, aux, _⟩ := x.decide_fields .blocked none (some w.axis.val)
        exact ⟨_, (State.takeOutcome_slot hx going undecided .blocked none (some w.axis.val)).1, outcome, failing, aux⟩
      · rw [Bool.and_eq_true, List.all_eq_true, List.all_eq_true]
        refine ⟨fun v mem => ?_, fun a _ => ?_⟩
        · obtain ⟨listed, own⟩ := (Scene.mem_phaseRows phase v).1 mem
          have open_ := rest v listed own
          unfold Row.unfinished
          revert open_
          cases v.state <;> simp
        · rcases still a with e | e <;> rw [e] <;> rfl
    · cases found : sc.phaseRows.find? (fun r => r.state == .deferred) with
      | none => exact State.blockedTest_none hx active undecided scene found
      | some w =>
        rw [State.blockedTest_some hx active undecided scene found]
        refine if_neg (fun all => ?_)
        obtain ⟨rows, rest⟩ := Bool.and_eq_true_iff.1 all
        have deferred : w.state = .deferred := by simpa using List.find?_some found
        obtain ⟨listed, own⟩ := (Scene.mem_phaseRows phase w).1 (List.mem_of_find?_eq_some found)
        rcases none with h | ⟨v, hv, same, state⟩ | ⟨a, idle, dwell⟩
        · exact h w listed own deferred
        · have test := List.all_eq_true.1 rows v ((Scene.mem_phaseRows phase v).2 ⟨hv, same⟩)
          unfold Row.unfinished at test
          revert test
          generalize v.state = u at state
          revert state
          cases u <;> simp
        · have test := List.all_eq_true.1 rest a (mem_axes a)
          revert test
          generalize s.ac[a].motion = u at idle dwell
          revert idle dwell
          cases u <;> simp [Motion.atRest]

end Sys2Proof
end

section
/-! The ends of scene moves and of back-offs, and what a failed move does to its scene (7.4, 7.5). -/

namespace Sys2Proof
namespace Machine

/-! ## A move's end on its row (R120) -/

/-- A row that has taken the end of its move (R120). -/
def Row.handed (r : Row) (e : MoveEnd) : Row := { r with lastEnd := some e.code, lastPos := some e.position, onTarget := some e.onTarget }

theorem Job.modRow_fields (x : Job) (a : Axis) (f : Row → Row) : (x.modRow a f).state = x.state ∧ (x.modRow a f).outcome = x.outcome
    ∧ (x.modRow a f).cls = x.cls ∧ (x.modRow a f).source = x.source := ⟨rfl, rfl, rfl, rfl⟩

/-- The state in which the row has taken its end and is ENDED, unless its back-off is outstanding (R120). -/
def State.rowEnded (s : State) (j : Slot) (x : Job) (e : MoveEnd) : State :=
  if (x.row e.axis).any (fun r => r.state == .backingOff) then s.modRow j e.axis (fun r => r.handed e)
  else (s.modRow j e.axis (fun r => r.handed e)).modRow j e.axis (fun r => r.enter .ended)

theorem State.rowEnded_slot {s : State} {j : Slot} {x : Job} (hx : s.jm.slots[j] = some x) (e : MoveEnd) :
    ∃ y, (s.rowEnded j x e).jm.slots[j] = some y ∧ y.state = x.state ∧ y.outcome = x.outcome ∧ y.cls = x.cls ∧ y.source = x.source
      ∧ y.scene.map Scene.backOffs = x.scene.map Scene.backOffs
      ∧ ∀ w, x.row e.axis = some w → w.state ≠ .backingOff → y.row e.axis = some ((w.handed e).enter .ended) := by
  have first := State.modRow_slot hx e.axis (fun r => r.handed e)
  unfold State.rowEnded
  split
  next backing =>
    refine ⟨_, first, rfl, rfl, rfl, rfl, ?_, fun w row front => ?_⟩
    · show (x.scene.map _).map _ = _
      rw [Option.map_map]
      rfl
    · rw [row] at backing
      exact absurd (by simpa using backing) front
  next =>
    refine ⟨_, State.modRow_slot first e.axis (fun r => r.enter .ended), rfl, rfl, rfl, rfl, ?_, fun w row _ => ?_⟩
    · show ((x.scene.map _).map _).map _ = _
      rw [Option.map_map, Option.map_map]
      rfl
    · exact Job.modRow_row (f := fun r => r.enter .ended) (Job.modRow_row (f := fun r => r.handed e) row (fun _ => rfl)) (fun _ => rfl)

/-- The back-off of an obstructed move: its row waits for it, and it is one more that is outstanding (R126). -/
def Job.backOff (x : Job) (a : Axis) : Job :=
  { x with scene := x.scene.map (fun sc => { sc.modRow a (fun r => r.enter .backingOff) with backOffs := sc.backOffs + 1 }) }

theorem Job.backOff_row {x : Job} {a : Axis} {w : Row} (row : x.row a = some w) : (x.backOff a).row a = some (w.enter .backingOff) := by
  rw [Job.row_map (x := x) (y := x.backOff a) (f := fun r => if r.axis = a then r.enter .backingOff else r) (fun r => by split <;> rfl)
    (by unfold Job.backOff; rw [Option.map_map]; rfl), row]
  exact congrArg some (if_pos (Job.row_axis row))

theorem State.backOffRow_slot {s : State} {j : Slot} {x : Job} (hx : s.jm.slots[j] = some x) (a : Axis) (p : Nat) :
    (s.backOffRow j a p).jm.slots[j] = some (x.backOff a) := by
  unfold State.backOffRow
  dsimp only
  rw [State.place_jm]
  exact State.modJob_slot hx _

/-- An obstructed axis without an entry has its back-off's (R88, R126). -/
theorem State.backOffRow_entryOf {s : State} {a : Axis} (free : s.entryOf a = none) (j : Slot) (p : Nat) :
    ∃ g, (s.backOffRow j a p).entryOf a = some g ∧ g.obstructed = true ∧ g.slot = j ∧ g.rank = 0 ∧ g.kind = .backOff ∧ g.speed = .quiet
      ∧ g.dir = s.ac[a].lastDir.opposite ∧ g.target = some (backOffTarget p s.ac[a].lastDir (s.backOffBy a)) := by
  unfold State.backOffRow
  dsimp only
  exact ⟨_, State.place_entryOf (s := s.modScene j _) free .., rfl, rfl, rfl, rfl, rfl, rfl, rfl⟩

/-- The row's back-off is outstanding. -/
theorem Job.backing_eq (x : Job) (a : Axis) :
    (x.row a).any (fun r => r.state == .backingOff) = (match x.row a with | some r => r.state == .backingOff | none => false) := by
  cases x.row a <;> rfl

/-- The steps of a scene move's end, by its outcome (R120). -/
theorem State.sceneEnd_cases (s : State) (j : Slot) (x : Job) (e : MoveEnd) :
    (e.code = .done → s.sceneEnd j x e = (s.rowEnded j x e).emit [.phaseCheck j])
      ∧ (e.code = .stopped → s.sceneEnd j x e = s.rowEnded j x e)
      ∧ (e.code = .obstructed → x.state = .active → s.sceneEnd j x e
        = ((s.modRow j e.axis (fun r => r.handed e)).backOffRow j e.axis e.position).takeOutcome j .obstructed (some e.axis) none)
      ∧ (e.code = .paused → x.running = true → e.pauseEnd = none →
        s.sceneEnd j x e = (s.modRow j e.axis (fun r => r.handed e)).modRow j e.axis (fun r => r.enter .paused))
      ∧ (e.code ≠ .done → e.code ≠ .stopped → e.code ≠ .obstructed → e.code ≠ .paused →
        s.sceneEnd j x e = (s.rowEnded j x e).takeOutcome j e.code (some e.axis) e.pred) := by
  unfold State.sceneEnd State.rowEnded Row.handed
  rw [Job.backing_eq]
  dsimp only
  split
  next code => exact ⟨fun _ => by rw [code] <;> rfl, by simp [code], by simp [code], by simp [code], by simp [code]⟩
  next code => exact ⟨by simp [code], fun _ => by rw [code] <;> rfl, by simp [code], by simp [code], by simp [code]⟩
  next code => simp only [code]; exact ⟨nofun, nofun, fun _ active => if_pos active, nofun, fun _ _ h => absurd rfl h⟩
  next code =>
    simp only [code]
    refine ⟨nofun, nofun, nofun, fun _ running pause => ?_, fun _ _ _ h => absurd rfl h⟩
    rw [if_pos running, pause]
  next done stopped obstructed paused =>
    exact ⟨fun h => (done h).elim, fun h => (stopped h).elim, fun h => (obstructed h).elim, fun h => (paused h).elim, fun _ _ _ _ => rfl⟩

/-- A failed scene move decides its ACTIVE scene with its outcome and its axis, and its row is ENDED, or backs off after an obstruction (R120, R126). -/
theorem State.sceneEnd_fails {s : State} {j : Slot} {x : Job} (hx : s.jm.slots[j] = some x) (active : x.state = .active) (undecided : x.outcome = none)
    {e : MoveEnd} (done : e.code ≠ .done) (stopped : e.code ≠ .stopped) (paused : e.code ≠ .paused) :
    ∃ z, (s.sceneEnd j x e).jm.slots[j] = some z ∧ z.outcome = some e.code ∧ z.failing = some e.axis ∧ z.source = x.source
      ∧ (∀ w, x.row e.axis = some w → w.state ≠ .backingOff →
        z.row e.axis = some ((w.handed e).enter (if e.code = .obstructed then .backingOff else .ended)))
      ∧ (e.code ≠ .obstructed → x.cls = .scene → (∀ sc, x.scene = some sc → sc.backOffs = 0) → z.state = .ending) := by
  by_cases obstructed : e.code = .obstructed
  · have slot := State.backOffRow_slot (State.modRow_slot hx e.axis (fun r => r.handed e)) e.axis e.position
    obtain ⟨outcome, failing, _, source⟩ := ((x.modRow e.axis (fun r => r.handed e)).backOff e.axis).decide_fields .obstructed (some e.axis) none
    rw [(s.sceneEnd_cases j x e).2.2.1 obstructed active]
    refine ⟨_, (State.takeOutcome_slot slot (by show x.state ≠ .done; rw [active]; decide) undecided .obstructed (some e.axis) none).1, outcome.trans (by rw [obstructed]),
      failing, source, fun w row _ => ?_, fun other => absurd obstructed other⟩
    rw [if_pos obstructed]
    exact Job.decide_row (Job.backOff_row (Job.modRow_row (f := fun r => r.handed e) row (fun _ => rfl))) (.inr rfl) _ _ _
  · obtain ⟨y, slot, state, open_, cls, owner, backOffs, rows⟩ := State.rowEnded_slot hx e
    obtain ⟨outcome, failing, _, source⟩ := y.decide_fields e.code (some e.axis) e.pred
    rw [(s.sceneEnd_cases j x e).2.2.2.2 done stopped obstructed paused]
    refine ⟨_, (State.takeOutcome_slot slot (by rw [state, active]; decide) (open_.trans undecided) e.code (some e.axis) e.pred).1, outcome, failing, source.trans owner,
      fun w row front => ?_, fun _ scene none => ?_⟩
    · rw [if_neg obstructed]
      exact Job.decide_row (rows w row front) (.inl rfl) _ _ _
    · refine Job.decide_ending (state.trans active) (.inl ⟨cls.trans scene, fun sc hsc => ?_⟩) _ _ _
      rw [hsc] at backOffs
      cases h : x.scene with
      | none => rw [h] at backOffs; cases backOffs
      | some sd =>
        rw [h] at backOffs
        exact (Option.some.inj backOffs).trans (none sd h)

/-! ## The end reaches its job (R39, R102, R120) -/

theorem State.takeMoveEnd_scene {s : State} {e : MoveEnd} {x : Job} (hx : s.jm.slots[e.slot] = some x) (going : x.state ≠ .done) (kind : e.kind = .scene) :
    s.takeMoveEnd e = (s.sceneEnd e.slot x e).emit [.doneCheck e.slot] := by
  unfold State.takeMoveEnd
  rw [hx]
  dsimp only
  rw [if_neg going, kind]

theorem State.takeMoveEnd_backOff {s : State} {e : MoveEnd} {x : Job} {w : Row} (hx : s.jm.slots[e.slot] = some x) (going : x.state ≠ .done)
    (kind : e.kind = .backOff) (row : x.row e.axis = some w) (backing : w.state = .backingOff) :
    s.takeMoveEnd e = (s.backOffEnded e.slot e.axis).emit [.doneCheck e.slot] := by
  unfold State.takeMoveEnd
  rw [hx]
  dsimp only
  rw [if_neg going, kind, row]
  dsimp only
  rw [if_pos (by rw [backing]; rfl)]

/-- A back-off's end ends its row, and with none outstanding the scene's work is finished (R127). -/
theorem State.backOffEnded_ends {s : State} {j : Slot} {x : Job} {sc : Scene} {a : Axis} {w : Row} (hx : s.jm.slots[j] = some x) (active : x.state = .active)
    (scene : x.scene = some sc) (row : x.row a = some w) :
    ∃ y, (s.backOffEnded j a).jm.slots[j] = some y ∧ y.row a = some (w.enter .ended) ∧ y.state = if sc.backOffs ≤ 1 then .ending else .active := by
  let y : Job := { x with scene := some { sc.modRow a (fun r => r.enter .ended) with backOffs := sc.backOffs - 1 } }
  have slot : (s.modScene j (fun sc => { sc.modRow a (fun r => r.enter .ended) with backOffs := sc.backOffs - 1 })).jm.slots[j] = some y := by
    refine (State.modJob_slot hx _).trans ?_
    rw [scene]
    rfl
  have own : y.row a = some (w.enter .ended) := by
    rw [Job.row_map (x := x) (y := y) (f := fun r => if r.axis = a then r.enter .ended else r) (fun r => by split <;> rfl) (by rw [scene]; rfl), row]
    exact congrArg some (if_pos (Job.row_axis row))
  unfold State.backOffEnded
  dsimp only
  rw [State.sceneOf_eq slot rfl]
  dsimp only
  by_cases last : sc.backOffs ≤ 1
  · rw [if_pos (show sc.backOffs - 1 = 0 by omega), if_pos last]
    have finish : y.finish = { y with finished := true, state := .ending, holdTimer := y.holdTimer.hold } := Job.finish_of (by show x.state ≠ .done; rw [active]; decide)
    refine ⟨y.finish, State.modJob_slot slot Job.finish, ?_, by rw [finish]⟩
    rw [finish]
    exact own
  · rw [if_neg (show ¬ sc.backOffs - 1 = 0 by omega), if_neg last]
    exact ⟨y, slot, own, active⟩

theorem State.runTask_moveEnd (s : State) (e : MoveEnd) : s.runTask (.moveEnd e) = s.takeMoveEnd e := by unfold State.runTask; rfl

/-- The end of a job's move as DWELL entry hands it on (R39). -/
def Move.endAt (m : Move) (a : Axis) (j : Slot) (p : Nat) : MoveEnd where
  axis := a
  slot := j
  kind := m.kind
  code := m.pending.getD .done
  pred := m.pendingPred
  position := p
  onTarget := m.onTarget p
  pauseEnd := m.pauseEnd

theorem Channel.endMove_moveEnd (c : Channel) (a : Axis) {m : Move} {j : Slot} (job : m.job = some j) :
    (c.endMove m).moveEnd a = [.moveEnd (m.endAt a j c.position)] := by
  unfold Channel.moveEnd
  dsimp only [Channel.endMove]
  rw [job]
  rfl

/-- DWELL entry hands the move's end to its job before all other work (R39). -/
theorem State.enterDwell_hands {s : State} (quiet : s.Quiet) {a : Axis} {m : Move} (hm : s.ac[a].move = some m) {j : Slot} (job : m.job = some j) :
    ∃ (u : State) (e : MoveEnd) (rest : List Task), s.enterDwell a = u.emit (.moveEnd e :: rest) ∧ u.Quiet ∧ u.jm = s.jm ∧ e.axis = a ∧ e.slot = j ∧ e.kind = m.kind
      ∧ e.code = m.pending.getD .done := by
  have still : (s.dwelled a m).ac[a].motion.driving = false := by rw [State.dwelled_chan]; rfl
  have ended : ((s.dwelled a m).sensorTest a).ac[a].moveEnd a = (s.ac[a].endMove m).moveEnd a := by
    rcases State.sensorTest_still still with e | e
    · rw [e, State.dwelled_chan]
    · rw [e, State.dwelled_chan]
      rfl
  refine ⟨(s.dwelled a m).sensorTest a, m.endAt a j s.ac[a].position, s.claimCheck a ++ [.scan, .retest], ?_, ?_, ?_, rfl, rfl, rfl, rfl⟩
  · rw [State.enterDwell_eq hm, ended, Channel.endMove_moveEnd _ a job]
    rfl
  · show ((s.dwelled a m).sensorTest a).raised = []
    rw [(State.sensorTest_quiet still).2.1, State.dwelled_same]
    exact quiet
  · rw [((s.dwelled a m).sensorTest_inChannels a).jm, State.dwelled_same]

end Machine

open Machine

/-- Settles O44: the end of BRAKING hands on the end of its move first; what it makes of the row and of the scene goes by its outcome. -/
theorem endReachesScene : Obligations.EndReachesScene := by
  refine ⟨?_, ?_⟩
  · intro s a m j x sc r c braking hm kind job pending done stopped paused hx partner cls active undecided scene quiet
    have effect : s.effect (.brakingEnd a) = s.enterDwell a := if_pos braking
    obtain ⟨u, e, rest, hands, uquiet, ujm, axis, rfl, ekind, code⟩ := State.enterDwell_hands quiet hm job
    have own : e.code = c := by rw [code, pending]; rfl
    have hu : u.jm.slots[e.slot] = some x := by rw [ujm]; exact hx
    obtain ⟨z, hz, outcome, failing, source, _, ending⟩ := State.sceneEnd_fails hu active undecided (e := e) (by rw [own]; exact done) (by rw [own]; exact stopped)
      (by rw [own]; exact paused)
    have taken : (u.runTask (.moveEnd e)).jm.slots[e.slot] = some z := by
      rw [State.runTask_moveEnd, State.takeMoveEnd_scene hu (by rw [active]; decide) (ekind.trans kind)]
      exact hz
    have follows := State.first_follows uquiet (t := .moveEnd e) (rest := rest) rfl
    obtain ⟨y, hy, goesOn⟩ := follows.jobs e.slot z taken ⟨r, source.trans partner⟩
    obtain ⟨same, fails, _⟩ := goesOn.decided (by rw [outcome]; rfl)
    refine ⟨_, y, (exec_eq _ s).trans (by rw [effect, hands]), hy, same.trans (outcome.trans (by rw [own])), fails.trans (failing.trans (by rw [axis])), fun other none => ?_⟩
    refine goesOn.ended ?_
    rw [ending (by rw [own]; exact other) cls (fun sd h => by rw [scene] at h; cases h; exact none)]
    decide
  · intro s e x sc w hx active cls scene row
    have going : x.state ≠ .done := by rw [active]; decide
    refine ⟨fun kind undecided front pause => ?_, fun kind backing => ?_⟩
    · rw [State.takeMoveEnd_scene hx going kind]
      have entry : e.code = .obstructed → s.entryOf e.axis = none → ∃ g, ((s.sceneEnd e.slot x e).emit [.doneCheck e.slot]).entryOf e.axis = some g ∧ g.slot = e.slot
          ∧ g.rank = 0 ∧ g.kind = .backOff ∧ g.speed = .quiet ∧ g.dir = s.ac[e.axis].lastDir.opposite
          ∧ g.target = some (backOffTarget e.position s.ac[e.axis].lastDir (s.backOffBy e.axis)) := by
        intro obstructed free
        have slot := State.backOffRow_slot (State.modRow_slot hx e.axis (fun r => r.handed e)) e.axis e.position
        obtain ⟨g, found, backOff, facts⟩ := State.backOffRow_entryOf (s := s.modRow e.slot e.axis (fun r => r.handed e)) (a := e.axis) free e.slot e.position
        refine ⟨g, ?_, facts⟩
        rw [(s.sceneEnd_cases e.slot x e).2.2.1 obstructed active]
        refine State.takeOutcome_entryOf found backOff (fun y hy => ?_) .obstructed (some e.axis) none
        rw [← Option.some.inj (slot.symm.trans hy)]
        exact cls
      by_cases failed : e.code ≠ .done ∧ e.code ≠ .stopped ∧ e.code ≠ .paused
      · obtain ⟨done, stopped, paused⟩ := failed
        obtain ⟨z, hz, outcome, failing, _, rows, _⟩ := State.sceneEnd_fails hx active undecided done stopped paused
        refine ⟨z, _, hz, rows w row front, rfl, rfl, rfl, ?_, ?_, entry⟩
        · rw [if_neg paused]
          rfl
        · rw [if_neg (fun h => h.elim done (fun h => h.elim stopped paused))]
          exact ⟨outcome, failing⟩
      · obtain ⟨y, hy, _, kept, _, _, _, rows⟩ := State.rowEnded_slot hx e
        have ended : (s.rowEnded e.slot x e).jm.slots[e.slot] = some y ∧ y.row e.axis = some ((w.handed e).enter .ended) ∧ y.outcome = none :=
          ⟨hy, rows w row front, kept.trans undecided⟩
        by_cases done : e.code = .done
        · obtain ⟨hy, own, open_⟩ := ended
          rw [(s.sceneEnd_cases e.slot x e).1 done]
          refine ⟨y, _, hy, own, rfl, rfl, rfl, ?_, ?_, fun h => by rw [done] at h; cases h⟩
          · rw [done]; rfl
          · rw [if_pos (.inl done)]; exact open_
        · by_cases stopped : e.code = .stopped
          · obtain ⟨hy, own, open_⟩ := ended
            rw [(s.sceneEnd_cases e.slot x e).2.1 stopped]
            refine ⟨y, _, hy, own, rfl, rfl, rfl, ?_, ?_, fun h => by rw [stopped] at h; cases h⟩
            · rw [stopped]; rfl
            · rw [if_pos (.inr (.inl stopped))]; exact open_
          · have paused : e.code = .paused := by
              refine Classical.byContradiction (fun h => ?_)
              exact failed ⟨done, stopped, h⟩
            rw [(s.sceneEnd_cases e.slot x e).2.2.2.1 paused (by unfold Job.running; rw [active, undecided]; rfl) pause]
            refine ⟨_, _, State.modRow_slot (State.modRow_slot hx e.axis _) e.axis _, Job.modRow_row (f := fun r => r.enter .paused) (Job.modRow_row (f := fun r => r.handed e) row (fun _ => rfl)) (fun _ => rfl), rfl, rfl, rfl, ?_, ?_,
              fun h => by rw [paused] at h; cases h⟩
            · rw [paused]; rfl
            · rw [if_pos (.inr (.inr paused))]; exact undecided
    · rw [State.takeMoveEnd_backOff hx going kind row backing]
      obtain ⟨y, hy, own, state⟩ := State.backOffEnded_ends hx active scene row
      exact ⟨y, _, hy, own, rfl, rfl, state⟩

end Sys2Proof
end

section
/-! The end of a supply pause, of its window, and the moves that a resume takes up again (7.6, 9.4, 10.3). -/

namespace Sys2Proof
namespace Machine

/-! ## Every job changed in one way -/

theorem mem_slotNos (j : Slot) : j ∈ slotNos := by revert j; decide

/-- A change of the jobs of a list of slots, within what an event's work can make of each (R102). -/
theorem JobManager.Works.each {ok : Pad → Prop} {f : Job → Job} (follows : ∀ x : Job, x.Follows (f x) ∧ ((f x).state = .done → x.state = .done))
    (idem : ∀ x, f (f x) = f x) : ∀ (l : List Slot) (u : JobManager), ∃ v : Vector (Option Job) 16, JobManager.Works ok u { u with slots := v }
      ∧ ∀ k : Slot, v[k] = if k ∈ l then u.slots[k].map f else u.slots[k]
  | [], u => ⟨u.slots, .refl u, fun k => (if_neg List.not_mem_nil).symm⟩
  | j :: l, u => by
    obtain ⟨v, works, slots⟩ := JobManager.Works.each follows idem l { u with slots := u.slots.set j (u.slots[j].map f) }
    refine ⟨v, (JobManager.Works.job u j f (fun x _ => follows x)).trans works, fun k => ?_⟩
    have first : (u.slots.set j (u.slots[j].map f))[k] = if k = j then u.slots[j].map f else u.slots[k] := Machine.setSlot_get ..
    have again : ((u.slots[j].map f).map f) = u.slots[j].map f := by
      rw [Option.map_map]
      congr 1
      funext x
      exact idem x
    rw [slots k]
    dsimp only
    rw [first]
    by_cases own : k = j
    · subst own
      rw [if_pos rfl, if_pos (List.mem_cons_self ..), again, ite_self]
    · rw [if_neg own]
      simp only [List.mem_cons, own, false_or]

/-- The end of the pause for the holds that wait for it (R102, R110). -/
theorem State.releaseHolds_but {ok : Pad → Prop} {p : Axis → Prop} (s : State) : State.FollowsBut p ok s s.releaseHolds := by
  obtain ⟨v, works, slots⟩ := JobManager.Works.each (ok := ok) (f := Job.unpause)
    (fun x => ⟨⟨⟨rfl, rfl, rfl, rfl, rfl, rfl, rfl⟩, fun _ => ⟨rfl, rfl, rfl⟩, id, fun h => ⟨h, rfl, rfl, rfl⟩, rfl, fun h e => ⟨h, e, List.suffix_refl _⟩⟩, id⟩)
    (fun _ => rfl) slotNos s.jm
  have all : v = s.jm.slots.map (fun (x : Option Job) => x.map Job.unpause) := by
    refine Vector.ext (fun k hk => ?_)
    rw [Vector.getElem_map]
    exact (slots ⟨k, hk⟩).trans (if_pos (mem_slotNos _))
  subst all
  exact (State.jm_but s works).trans (State.emit_but _ _)

/-- The holds that waited keep their other data. -/
theorem State.releaseHolds_raised (s : State) :
    ∃ l, s.releaseHolds.raised = s.raised ++ l := ⟨_, rfl⟩

/-! ## The resume (R129, R154, R164) -/

/-- The state in which a pause has ended by resume, before its jobs go on. -/
def State.resumed (s : State) : State := ({ s with sp := { s.sp with cond := .normal, window := .stopped } }).markPause .resumed

theorem State.resume_eq (s : State) : s.resume =
    (((s.resumed.shuffled s.resumed.resumeTasks).2.emit (s.resumed.shuffled s.resumed.resumeTasks).1).releaseHolds).emit [.scan] := rfl

theorem State.resumeTasks_pads (s : State) (p : Pad) : Task.padEntry p ∉ s.resumeTasks := by
  unfold State.resumeTasks
  simp

theorem State.resume_but {ok : Pad → Prop} {p : Axis → Prop} (s : State) : State.FollowsBut p ok s.resumed s.resume := by
  rw [State.resume_eq]
  refine .trans (.trans (.trans (State.shuffled_but _ _) (State.emit_but _ _ (fun q mem => ?_))) (State.releaseHolds_but _)) (State.emit_but _ _)
  exact s.resumed.resumeTasks_pads q ((mem_shuffled ..).1 mem)

theorem State.mem_resume_raised {s : State} {t : Task} (h : t ∈ s.resumed.resumeTasks) : t ∈ s.resume.raised := by
  obtain ⟨l, raised⟩ := ((s.resumed.shuffled s.resumed.resumeTasks).2.emit (s.resumed.shuffled s.resumed.resumeTasks).1).releaseHolds_raised
  rw [State.resume_eq]
  show t ∈ State.raised _ ++ [.scan]
  rw [raised]
  have listed : t ∈ (s.resumed.shuffled s.resumed.resumeTasks).1 := (mem_shuffled ..).2 h
  exact List.mem_append_left _ (List.mem_append_left _ (List.mem_append_right _ listed))

theorem State.mem_resumeTasks_rows {s : State} {j : Slot} {x : Job} (hx : s.jm.slots[j] = some x) (active : x.state = .active) (undecided : x.outcome = none)
    (paused : x.pausedAxes ≠ []) : Task.resumeRows j x.pausedAxes ∈ s.resumeTasks := by
  refine List.mem_append_left _ (List.mem_map.2 ⟨j, List.mem_filter.2 ⟨mem_slotNos j, ?_⟩, ?_⟩)
  · rw [State.runningJob_eq hx active undecided]
    simpa using paused
  · rw [hx]

theorem State.mem_resumeTasks_homing {s : State} {j : Slot} {x : Job} (hx : s.jm.slots[j] = some x) (active : x.state = .active) (undecided : x.outcome = none)
    (paused : x.homingPaused = true) : Task.resumeHoming j ∈ s.resumeTasks := by
  refine List.mem_append_right _ (List.mem_map.2 ⟨j, List.mem_filter.2 ⟨mem_slotNos j, ?_⟩, rfl⟩)
  rw [State.runningJob_eq hx active undecided]
  exact paused

theorem Job.pausedAxes_eq {x : Job} {sc : Scene} (scene : x.scene = some sc) :
    x.pausedAxes = (sc.rows.filter (fun w => w.state == .paused)).map Row.axis := by
  unfold Job.pausedAxes
  rw [scene]

theorem Job.pausedAxes_ne_nil {x : Job} {sc : Scene} (scene : x.scene = some sc) (paused : ∃ w ∈ sc.rows, w.state = .paused) : x.pausedAxes ≠ [] := by
  obtain ⟨w, mem, state⟩ := paused
  rw [Job.pausedAxes_eq scene]
  exact List.ne_nil_of_mem (List.mem_map_of_mem (List.mem_filter.2 ⟨mem, by rw [state]; rfl⟩))

theorem State.resumeRow_lost {s : State} {j : Slot} {w : Row} (paused : w.state = .paused) (lost : s.validity[w.axis] ≠ .valid) :
    s.resumeRow j w = s.failRow j w.axis .unverified none := (if_neg (fun h => h paused)).trans (if_pos lost)

theorem State.resumeRow_valid {s : State} {j : Slot} {w : Row} (paused : w.state = .paused) (valid : s.validity[w.axis] = .valid) :
    s.resumeRow j w = if s.onPlace w.axis w.target then
      (s.modRow j w.axis (fun x => { x.endWith .done with onTarget := some true })).emit [.phaseCheck j] else s.placeRow j w :=
  (if_neg (fun h => h paused)).trans (if_neg (fun h => h valid))

/-! ## Homing drives and back-offs (R152 to R154) -/

/-- A homing drive placed for an axis (R152). -/
theorem State.placeDrive_places {s : State} {j : Slot} {x : Job} {h : Homing} (hx : s.jm.slots[j] = some x) (homing : x.homing = some h) (a : Axis) :
    (s.placeDrive j a).jm.slots[j] = some { x with homing := some { h with stage := .drive, last := some a } }
      ∧ (s.entryOf a = none → ∃ e, (s.placeDrive j a).entryOf a = some e ∧ e.slot = j ∧ e.rank = 2 ∧ e.kind = .homing ∧ e.dir = s.homingDir a
        ∧ e.speed = .homing) := by
  unfold State.placeDrive
  refine ⟨?_, fun free => ⟨_, State.place_entryOf (s := s.modHoming j _) free .., rfl, rfl, rfl, rfl, rfl⟩⟩
  rw [State.place_jm]
  refine (State.modJob_slot hx _).trans ?_
  rw [homing]
  rfl

/-- The back-off after a homing stop placed toward its target (R153). -/
theorem State.placeHomingBackOff_places {s : State} {j : Slot} {x : Job} {h : Homing} (hx : s.jm.slots[j] = some x) (homing : x.homing = some h) (a : Axis) (n : Nat) :
    (s.placeHomingBackOff j a n).jm.slots[j] = some { x with homing := some { h with stage := .backOff n } }
      ∧ (s.entryOf a = none → ∃ e, (s.placeHomingBackOff j a n).entryOf a = some e ∧ e.slot = j ∧ e.rank = 2 ∧ e.kind = .backOff
        ∧ e.dir = (s.homingDir a).opposite ∧ e.speed = .quiet ∧ e.target = some n) := by
  unfold State.placeHomingBackOff
  refine ⟨?_, fun free => ⟨_, State.place_entryOf (s := s.modHoming j _) free .., rfl, rfl, rfl, rfl, rfl, rfl⟩⟩
  rw [State.place_jm]
  refine (State.modJob_slot hx _).trans ?_
  rw [homing]
  rfl

theorem State.resumeHoming_drive {s : State} {j : Slot} {x : Job} {h : Homing} {a : Axis} {rest : List Axis} (hx : s.jm.slots[j] = some x) (active : x.state = .active)
    (undecided : x.outcome = none) (homing : x.homing = some h) (list : h.list = a :: rest) (stage : h.stage = .pausedDrive) :
    s.resumeHoming j = s.placeDrive j a := by
  unfold State.resumeHoming
  rw [State.runningJob_eq hx active undecided]
  dsimp only
  rw [homing]
  dsimp only
  rw [list, stage]

theorem State.resumeHoming_backOff {s : State} {j : Slot} {x : Job} {h : Homing} {a : Axis} {rest : List Axis} {n : Nat} (hx : s.jm.slots[j] = some x)
    (active : x.state = .active) (undecided : x.outcome = none) (homing : x.homing = some h) (list : h.list = a :: rest) (stage : h.stage = .pausedBackOff n) :
    s.resumeHoming j = s.placeHomingBackOff j a n := by
  unfold State.resumeHoming
  rw [State.runningJob_eq hx active undecided]
  dsimp only
  rw [homing]
  dsimp only
  rw [list, stage]

theorem State.resumeWalk_cons {s : State} {j : Slot} {x : Job} {a : Axis} {w : Row} (hx : s.jm.slots[j] = some x) (active : x.state = .active)
    (undecided : x.outcome = none) (row : x.row a = some w) (rest : List Axis) :
    s.resumeWalk j (a :: rest) = (s.resumeRow j w).emit [.resumeRows j rest] := by
  unfold State.resumeWalk
  rw [State.runningJob_eq hx active undecided]
  dsimp only
  rw [row]

/-! ## The end of the window (R129, R154, R164) -/

/-- The state in which the window has run out, before its jobs take their outcomes. -/
def State.windowClosed (s : State) : State := ({ s with sp := { s.sp with cond := .pausedExpired, window := .stopped } }).markPause .expired

theorem State.windowOver_eq {s : State} (paused : s.sp.cond = .pausedWindow) : s.windowOver =
    ((s.windowClosed.each s.windowClosed.pausedScenes State.expireRows).each s.windowClosed.pausedHomings
      (fun t j => match t.homingHead j with | some a => t.expireHoming j a | none => t)).releaseHolds := if_neg (fun h => h paused)

theorem State.expireHomings_but {ok : Pad → Prop} (l : List Slot) (s : State) :
    State.FollowsBut noAxis ok s (s.each l (fun t j => match t.homingHead j with | some a => t.expireHoming j a | none => t)) :=
  State.each_but _ l s (fun t j _ => by
    split
    · exact (State.overHoming_but t j).trans (State.takeOutcome_but _ _ _ _ _)
    · exact .refl _ t)

/-- A scene with PAUSED moves that goes on takes SUPPLY_FAULT, and no other slot changes (R129). -/
theorem State.expireRows_decides {s : State} {j : Slot} {x : Job} (hx : s.jm.slots[j] = some x) (active : x.state = .active) (undecided : x.outcome = none) :
    ∃ y, (s.expireRows j).jm.slots[j] = some y ∧ y.outcome = some .supplyFault ∧ y.failing = none ∧ y.source = x.source := by
  let z : Job := { x with scene := x.scene.map (fun sc => { sc with rows := sc.rows.map (fun r => if r.state = .paused then r.endWith .supplyFault else r) }) }
  obtain ⟨outcome, failing, _, source⟩ := z.decide_fields .supplyFault none none
  refine ⟨_, (State.takeOutcome_slot (x := z) (State.modJob_slot hx _) ?_ undecided .supplyFault none none).1, outcome, failing, source⟩
  show x.state ≠ .done
  rw [active]
  decide

theorem State.expireRows_other {s : State} {j k : Slot} (other : k ≠ j) : (s.expireRows j).jm.slots[k] = s.jm.slots[k] := by
  have first (f : Scene → Scene) : (s.modScene j f).jm.slots[k] = s.jm.slots[k] := (State.modJob_get ..).trans (if_neg other)
  unfold State.expireRows
  by_cases open_ : ∃ x, (s.modScene j (fun sc =>
      { sc with rows := sc.rows.map (fun r => if r.state = .paused then r.endWith .supplyFault else r) })).jm.slots[j] = some x ∧ x.state ≠ .done ∧ x.outcome = none
  · obtain ⟨x, hx, going, undecided⟩ := open_
    rw [(State.takeOutcome_slot hx going undecided .supplyFault none none).2 k other, first]
  · rw [State.takeOutcome_same (fun x hx => ?_), first]
    refine Classical.byContradiction (fun h => ?_)
    obtain ⟨going, undecided⟩ := not_or.1 h
    exact open_ ⟨x, hx, going, by simpa using undecided⟩

/-- A partner's decided job stays decided through the rest of the event (R103). -/
theorem State.FollowsBut.decided {ok : Pad → Prop} {u t : State} (h : State.FollowsBut noAxis ok u t) {j : Slot} {y : Job} {r : Role}
    (hy : u.jm.slots[j] = some y) (partner : y.source = .partner r) (given : y.outcome.isSome = true) :
    ∃ z, t.jm.slots[j] = some z ∧ z.outcome = y.outcome ∧ z.failing = y.failing ∧ z.source = y.source := by
  obtain ⟨z, hz, follows⟩ := h.rest.jm.jobs j y hy ⟨r, partner⟩
  obtain ⟨outcome, failing, _⟩ := follows.decided given
  exact ⟨z, hz, outcome, failing, follows.source⟩

/-- Every scene of a list that goes on takes SUPPLY_FAULT (R129). -/
theorem State.expireScenes_decides {j : Slot} {x : Job} {r : Role} (partner : x.source = .partner r) (active : x.state = .active) (undecided : x.outcome = none)
    (l : List Slot) : ∀ s : State, j ∈ l → s.jm.slots[j] = some x →
      ∃ y, (s.each l State.expireRows).jm.slots[j] = some y ∧ y.outcome = some .supplyFault ∧ y.failing = none ∧ y.source = .partner r := by
  induction l with
  | nil => exact fun _ mem => absurd mem List.not_mem_nil
  | cons k l ih =>
    intro s mem hx
    rw [show s.each (k :: l) State.expireRows = (s.expireRows k).each l State.expireRows from rfl]
    by_cases own : j = k
    · subst own
      obtain ⟨y, hy, outcome, failing, source⟩ := State.expireRows_decides hx active undecided
      have rest : State.FollowsBut noAxis (fun _ => True) (s.expireRows j) ((s.expireRows j).each l State.expireRows) :=
        State.each_but _ l _ (fun t i _ => State.expireRows_but t i)
      obtain ⟨z, hz, same, fails, owner⟩ := rest.decided hy (source.trans partner) (by rw [outcome]; rfl)
      exact ⟨z, hz, same.trans outcome, fails.trans failing, (owner.trans source).trans partner⟩
    · exact ih (s.expireRows k) ((List.mem_cons.1 mem).resolve_left own) ((State.expireRows_other own).trans hx)

end Machine

open Machine

/-- Settles O54: the pause ends by resume or by its window; a resume takes the paused moves up again one by one. -/
theorem supplyResumes : Obligations.SupplyResumes := by
  refine ⟨fun s => ⟨fun mv low high paused => ?_, fun mv low high expired => ?_, fun mv quiet low band => ?_, fun paused => ?_⟩, ?_⟩
  · have band : inResumeBand mv = true := by
      unfold inResumeBand
      simpa using ⟨low, high⟩
    have effect : s.effect (.supplyResume mv) = s.resume := by
      show s.supplyBack mv = _
      unfold State.supplyBack
      rw [if_neg (show ¬ mv < Config.brownOutMv by unfold Config.brownOutMv; omega), if_neg (by rw [band]; decide), paused]
    exact ⟨_, exec_eq _ s, by rw [effect], by rw [effect]; exact (State.resume_but s).concludes⟩
  · have band : inResumeBand mv = true := by
      unfold inResumeBand
      simpa using ⟨low, high⟩
    have effect : s.effect (.supplyResume mv) = ({ s with sp := { s.sp with cond := .normal } } : State).emit [.scan] := by
      show s.supplyBack mv = _
      unfold State.supplyBack
      rw [if_neg (show ¬ mv < Config.brownOutMv by unfold Config.brownOutMv; omega), if_neg (by rw [band]; decide), expired]
    exact ⟨_, exec_eq _ s, by rw [effect]; exact State.emit_concludes _ _⟩
  · have effect : s.effect (.supplyResume mv) = s := by
      show s.supplyBack mv = _
      unfold State.supplyBack
      rw [if_neg (show ¬ mv < Config.brownOutMv by unfold Config.brownOutMv; omega)]
      split
      next => rfl
      next inside =>
        have range : 10000 ≤ mv ∧ mv ≤ 17000 := by
          unfold inResumeBand Config.resumeLowMv Config.resumeHighMv at inside
          simpa using inside
        rw [(band.resolve_left (by omega)).resolve_left (by omega)]
    exact exec_settles effect quiet
  · have effect : s.effect .pauseWindowExpiry = s.windowOver := rfl
    have scenes : State.FollowsBut noAxis (fun q => Task.padEntry q ∈ s.windowClosed.raised) s.windowClosed
        (s.windowClosed.each s.windowClosed.pausedScenes State.expireRows) := State.each_but _ _ _ (fun t j _ => State.expireRows_but t j)
    have homings := (State.expireHomings_but (ok := fun q => Task.padEntry q ∈ s.windowClosed.raised) s.windowClosed.pausedHomings
      (s.windowClosed.each s.windowClosed.pausedScenes State.expireRows)).trans (State.releaseHolds_but _)
    have all := scenes.trans homings
    rw [State.windowOver_eq paused] at effect
    refine ⟨_, exec_eq _ s, by rw [effect]; exact all.concludes, fun j x r sc hx partner active undecided cls scene rows => ?_⟩
    have listed : j ∈ s.windowClosed.pausedScenes := by
      refine List.mem_filter.2 ⟨mem_slotNos j, ?_⟩
      rw [State.runningJob_eq (s := s.windowClosed) hx active undecided]
      simpa using Job.pausedAxes_ne_nil scene rows
    obtain ⟨y, hy, outcome, failing, source⟩ := State.expireScenes_decides partner active undecided _ s.windowClosed listed hx
    obtain ⟨z, hz, same, fails, owner⟩ := homings.decided hy source (by rw [outcome]; rfl)
    have follows := State.conclude_but (s.effect .pauseWindowExpiry)
    rw [effect] at follows ⊢
    obtain ⟨v, hv, last, lastFails, _⟩ := follows.decided hz (owner.trans source) (by rw [same, outcome]; rfl)
    exact ⟨v, hv, last.trans (same.trans outcome), lastFails.trans (fails.trans failing)⟩
  · intro s j x hx active undecided
    have going : x.state ≠ .done := by rw [active]; decide
    refine ⟨fun sc scene paused => ?_, fun a rest w row => State.resumeWalk_cons hx active undecided row rest, fun w a own row paused _ => ?_, fun h a rest homing list => ⟨fun stage => ⟨?_, fun free => ?_⟩, fun n stage => ⟨?_, fun free => ?_⟩⟩⟩
    · rw [← Job.pausedAxes_eq scene]
      exact State.mem_resume_raised (State.mem_resumeTasks_rows (s := s.resumed) hx active undecided (Job.pausedAxes_ne_nil scene paused))
    · subst own
      have near := s.onPlace_iff w.axis w.target
      refine ⟨fun lost => ?_, fun valid close => ?_, fun valid far free => ?_⟩
      · rw [State.resumeRow_lost paused lost]
        obtain ⟨y, hy, own, outcome, failing⟩ := State.failRow_fails hx row going undecided .unverified none
        exact ⟨y, _, hy, own, rfl, rfl, outcome, failing⟩
      · rw [State.resumeRow_valid paused valid, if_pos (near.2 close)]
        refine ⟨List.mem_append_right _ (.head _), _, _, State.modRow_slot hx w.axis _,
          Job.modRow_row (f := fun r => { r.endWith .done with onTarget := some true }) row (fun _ => rfl), rfl, rfl, rfl, undecided⟩
      · rw [State.resumeRow_valid paused valid, if_neg (fun h => absurd (near.1 h) (by omega))]
        obtain ⟨slot, entry⟩ := State.placeRow_places (w := w) hx
        obtain ⟨e, found, facts⟩ := entry free
        exact ⟨_, e, slot, Job.modRow_row (f := fun r => r.enter .waiting) row (fun _ => rfl), found, facts⟩
    · exact State.mem_resume_raised (State.mem_resumeTasks_homing (s := s.resumed) hx active undecided (by unfold Job.homingPaused; rw [homing]; dsimp only; rw [stage]))
    · rw [State.resumeHoming_drive hx active undecided homing list stage]
      obtain ⟨slot, entry⟩ := State.placeDrive_places hx homing a
      obtain ⟨e, found, own, rank, kind, dir, speed⟩ := entry free
      exact ⟨e, _, _, found, own, rank, kind, dir, speed, slot, rfl, rfl, rfl⟩
    · exact State.mem_resume_raised (State.mem_resumeTasks_homing (s := s.resumed) hx active undecided (by unfold Job.homingPaused; rw [homing]; dsimp only; rw [stage]))
    · rw [State.resumeHoming_backOff hx active undecided homing list stage]
      obtain ⟨slot, entry⟩ := State.placeHomingBackOff_places hx homing a n
      obtain ⟨e, found, own, rank, kind, dir, speed, target⟩ := entry free
      exact ⟨e, _, _, found, own, rank, kind, dir, speed, target, slot, rfl, rfl, rfl⟩

end Sys2Proof
end

section
/-! Accepted requests, and the turns of a homing list (6.2, 6.3, 7.2, 9.4). -/

namespace Sys2Proof
namespace Machine

/-! ## What hearing a request leaves (R189) -/

theorem State.heard_drive (s : State) (r : Role) : (s.heard r).st.drive = s.st.drive := by rw [s.heard_st]

theorem State.heard_homingOrder (s : State) (r : Role) : (s.heard r).homingOrder = s.homingOrder := by
  unfold State.homingOrder
  rw [State.heard_drive]

theorem State.heard_claimSet (s : State) (r : Role) (x : Arrangement) : (s.heard r).claimSet x = s.claimSet x := by
  unfold State.claimSet
  rw [State.heard_validity]

theorem State.heard_homingQueue (s : State) (r : Role) (x : Arrangement) : (s.heard r).homingQueue x = s.homingQueue x := by
  unfold State.homingQueue
  rw [State.heard_homingOrder, State.heard_claimSet, State.heard_validity]

theorem State.heard_runJob (s : State) (r : Role) (source : Source) (tag : BitVec 4) (b : Option Button) (x : Arrangement) :
    (s.heard r).runJob source tag b x = s.runJob source tag b x := by
  unfold State.runJob
  rw [State.heard_homingQueue, State.heard_claimSet]

theorem State.heard_homeJob (s : State) (r q : Role) (tag : BitVec 4) (m : AxisSet) : (s.heard r).homeJob q tag m = s.homeJob q tag m := by
  unfold State.homeJob
  rw [State.heard_homingOrder]

theorem State.heard_activeHold (s : State) (r q : Role) (a : Axis) : (s.heard r).activeHold q a = s.activeHold q a := by
  unfold State.activeHold
  rw [State.heard_jm]

/-! ## HOLD_MOVE (R99, R100) -/

section
variable {s : State} {r : Role} {tag : BitVec 4} {ab db : Byte} {a : Axis} {dir : Dir} (axis : axisArg ab = some a) (direction : dirArg db = some dir)
  (gate : s.gate r .hold true = none)
include axis direction gate

theorem State.reqHold_repeat {j : Slot} (hold : s.activeHold r a = some j) : s.reqHold r tag ab db = s.repeatHold r tag j dir := by
  unfold State.reqHold
  rw [axis, direction]
  dsimp only
  rw [gate]
  dsimp only
  rw [hold]

theorem State.reqHold_new (none : s.activeHold r a = none) : s.reqHold r tag ab db = s.newHold r tag a dir := by
  unfold State.reqHold
  rw [axis, direction]
  dsimp only
  rw [gate]
  dsimp only
  rw [none]

end

/-! ## A job taken into its slot (R92 to R96) -/

theorem State.takeSlot_slot (s : State) (j : Slot) (x : Job) : (s.takeSlot j x).jm.slots[j] = some x := (Machine.setSlot_get ..).trans (if_pos rfl)

/-- The lists and the claims of a slot that a job takes (R93, R95, R96). -/
theorem JobManager.take_stands (u : JobManager) (j : Slot) (x : Job) : (∀ a : Axis, AxisSet.has x.claimed a = true → (u.take j x).claims[a] = some j)
    ∧ (x.cls = .attended → j ∈ (u.take j x).attended) ∧ (x.cls = .scene → j ∈ (u.take j x).scenes) ∧ (x.cls = .service → j ∈ (u.take j x).services) := by
  unfold JobManager.take
  refine ⟨fun a has => (Vector.getElem_ofFn ..).trans (if_pos has), fun cls => ?_, fun cls => ?_, fun cls => ?_⟩
  · dsimp only
    rw [if_pos cls]
    simp
  · dsimp only
    rw [if_pos cls]
    simp
  · dsimp only
    rw [if_pos cls]
    simp

/-- What an accepted request of a partner has become by the end of its event (R93 to R97). -/
theorem State.accepted {u v : State} {j : Slot} {x : Job} {r : Role}
    (but : State.FollowsBut noAxis (fun q => Task.padEntry q ∈ (u.takeSlot j x).raised) (u.takeSlot j x) v) (partner : x.source = .partner r) :
    (u.takeSlot j x).Follows v.conclude ∧ ∃ y, v.conclude.jm.slots[j] = some y ∧ x.Follows y ∧ v.conclude.JobStands j y := by
  have follows := but.concludes
  obtain ⟨y, hy, goesOn⟩ := follows.jobs j x (u.takeSlot_slot j x) ⟨r, partner⟩
  refine ⟨follows, y, hy, goesOn, fun going => ?_⟩
  obtain ⟨claims, attended, scenes, services⟩ := u.jm.take_stands j x
  obtain ⟨keptClaims, keptAttended, keptScenes, keptServices⟩ := follows.kept j x r (u.takeSlot_slot j x) partner y hy going
  obtain ⟨cls, _, _, _, _, _, claimed⟩ := goesOn.record
  refine ⟨fun a has => keptClaims a (claims a (claimed ▸ has)), ?_⟩
  rw [cls]
  cases h : x.cls with
  | attended => exact keptAttended (attended h)
  | scene => exact keptScenes (scenes h)
  | service => exact keptServices (services h)

theorem State.acceptRun_but {ok : Pad → Prop} (s : State) (j : Slot) (source : Source) (tag : BitVec 4) (b : Option Button) (x : Arrangement) :
    State.FollowsBut noAxis ok (s.takeSlot j (s.runJob source tag b x)) (s.acceptRun j source tag b x) := by
  unfold State.acceptRun
  dsimp only
  split
  · exact State.startNextPhase_but _ j
  · exact State.emit_but _ _

/-! ## The turns of a homing list (R116, R152, R153) -/

theorem State.homeNext_cons {s : State} {j : Slot} {x : Job} {h : Homing} {a : Axis} {rest : List Axis} (hx : s.jm.slots[j] = some x) (active : x.state = .active)
    (undecided : x.outcome = none) (homing : x.homing = some h) (list : h.list = a :: rest) : s.homeNext j = s.placeDrive j a := by
  unfold State.homeNext
  rw [State.runningJob_eq hx active undecided]
  dsimp only
  rw [homing]
  dsimp only
  rw [list]

theorem State.homeNext_nil {s : State} {j : Slot} {x : Job} {h : Homing} (hx : s.jm.slots[j] = some x) (active : x.state = .active)
    (undecided : x.outcome = none) (homing : x.homing = some h) (list : h.list = []) :
    s.homeNext j = if x.cls = .scene then s.startNextPhase j else s.finishWork j := by
  unfold State.homeNext
  rw [State.runningJob_eq hx active undecided]
  dsimp only
  rw [homing]
  dsimp only
  rw [list]

/-- The end of a homing drive or back-off reaches the homing list of a job without a scene (R152, R153). -/
theorem State.takeMoveEnd_homing {s : State} {e : MoveEnd} {x : Job} {h : Homing} (hx : s.jm.slots[e.slot] = some x) (going : x.state ≠ .done) (scene : x.scene = none)
    (homing : x.homing = some h) (kind : e.kind = .homing ∨ e.kind = .backOff) : s.takeMoveEnd e = (s.homingEnd e.slot h e).emit [.doneCheck e.slot] := by
  have row : x.row e.axis = none := by
    unfold Job.row
    rw [scene]
  unfold State.takeMoveEnd
  rw [hx]
  dsimp only
  rw [if_neg going, row]
  rcases kind with k | k
  · rw [k, homing]
  · rw [k, homing]
    rfl

theorem State.homingEnd_drive {s : State} {j : Slot} {h : Homing} {e : MoveEnd} (head : h.list.head? = some e.axis) (stage : h.stage = .drive) (kind : e.kind = .homing)
    (code : e.code = .done) : s.homingEnd j h e = (s.modHoming j (fun y => { y with madeValid := y.madeValid ||| AxisSet.one e.axis })).placeHomingBackOff j e.axis
      (backOffTarget e.position s.ac[e.axis].lastDir (s.backOffBy e.axis)) := by
  unfold State.homingEnd
  dsimp only
  rw [if_neg (show ¬ (h.list.head? ≠ some e.axis) from fun k => k head), if_pos (show e.kind = .homing ∧ e.code = .done from ⟨kind, code⟩), stage, code]

theorem State.homingEnd_backOff {s : State} {j : Slot} {h : Homing} {e : MoveEnd} {n : Nat} (head : h.list.head? = some e.axis) (stage : h.stage = .backOff n)
    (kind : e.kind = .backOff) (code : e.code = .done) : s.homingEnd j h e = s.axisHomed j := by
  unfold State.homingEnd
  dsimp only
  rw [if_neg (show ¬ (h.list.head? ≠ some e.axis) from fun k => k head), if_neg (show ¬ (e.kind = .homing ∧ e.code = .done) from fun k => by rw [kind] at k; cases k.1),
    stage, code]

/-- An outcome of the axis in hand that is not DONE, STOPPED or PAUSED decides the job with it (R152, R153). -/
theorem State.homingEnd_failed {s : State} {j : Slot} {h : Homing} {e : MoveEnd} (head : h.list.head? = some e.axis) (done : e.code ≠ .done) (stopped : e.code ≠ .stopped)
    (paused : e.code ≠ .paused) : s.homingEnd j h e = (s.overHoming j).takeOutcome j e.code (some e.axis) e.pred := by
  have outcome : s.homingOutcome j e = (s.overHoming j).takeOutcome j e.code (some e.axis) e.pred := by
    unfold State.homingOutcome
    split
    · exact absurd ‹_› done
    · exact absurd ‹_› stopped
    · exact absurd ‹_› paused
    · rfl
  unfold State.homingEnd
  dsimp only
  rw [if_neg (show ¬ (h.list.head? ≠ some e.axis) from fun k => k head), if_neg (show ¬ (e.kind = .homing ∧ e.code = .done) from fun k => done k.2)]
  split
  · exact absurd ‹_› done
  · exact absurd ‹_› paused
  · exact absurd ‹_› stopped
  · exact absurd ‹_› done
  · exact absurd ‹_› paused
  · exact absurd ‹_› stopped
  · exact outcome

theorem AxisSet.has_or_one (m : AxisSet) (a : Axis) : AxisSet.has (m ||| AxisSet.one a) a = true := by
  have own : AxisSet.has (AxisSet.one a) a = true := by revert a; decide
  unfold AxisSet.has at own ⊢
  rw [BitVec.getLsbD_or, own, Bool.or_true]

theorem State.modHoming_slot {s : State} {j : Slot} {x : Job} {h : Homing} (hx : s.jm.slots[j] = some x) (homing : x.homing = some h) (f : Homing → Homing) :
    (s.modHoming j f).jm.slots[j] = some { x with homing := some (f h) } := by
  refine (State.modJob_slot hx _).trans ?_
  rw [homing]
  rfl

/-- The homing list of an ACTIVE job that takes its decisive outcome (R125, R152). -/
theorem Job.decide_homing {x : Job} {h : Homing} (homing : x.homing = some h) (idle : h.stage = .idle) (code : Code) (failing : Option Axis) (aux : Option Nat) :
    (x.decide code failing aux).homing = some h := by
  have same : x.homing.map (fun h => { h with stage := .idle }) = some h := by
    rw [homing]
    show some { h with stage := .idle } = _
    rw [← idle]
  unfold Job.decide
  dsimp only
  split
  · split
    · exact (Job.aborted_fields _).2.2.2.2.1.trans same
    · exact (Job.finish_outcome _).2.2.2.2.1.trans same
    · exact homing
  · exact homing

end Machine

open Machine

/-- Settles O16: the slot is the lowest FREE one; the record's own data stays through the work of the event. -/
theorem runAccepted : Obligations.RunAccepted := by
  intro s id r tag n x j hears gate check free
  obtain ⟨_, _, lowest⟩ := State.slotFor_ok free
  have effect : s.effect (.runArrangement id tag n) = (s.heard r).acceptRun j (.partner r) tag none x := by
    rw [State.effect_runArrangement hears, State.reqRun, gate]
    dsimp only
    rw [check]
    dsimp only
    rw [free]
  obtain ⟨follows, y, hy, goesOn, stands⟩ := State.accepted ((s.heard r).acceptRun_but j (.partner r) tag none x) (r := r) rfl
  rw [State.heard_runJob] at follows goesOn
  obtain ⟨cls, source, same, kind, _, _, claimed⟩ := goesOn.record
  rw [State.heard_jm] at lowest
  refine ⟨lowest, _, (exec_eq _ s).trans (by rw [effect]), follows, y, hy, cls, source, same, kind, claimed, stands, ?_, fun queue => ?_⟩
  · rw [goesOn.plan]
    show some (x.number, x.rows.map Row.plan) = _
    unfold Arrangement.rows
    rw [List.map_map]
    rfl
  · obtain ⟨k, homing, suffix⟩ := goesOn.homing (.start (s.homingQueue x)) (by
      show (if (s.homingQueue x).isEmpty then none else some (Homing.start (s.homingQueue x))) = _
      rw [if_neg (by simpa using queue)])
    exact ⟨k, homing, suffix⟩

/-- Settles O17: a new hold as its record says; a repeat as its direction says. -/
theorem holdAccepted : Obligations.HoldAccepted := by
  intro s id r tag ab db a dir j hears axis direction gate
  have effect := State.effect_holdMove hears tag ab db
  refine ⟨fun none check free => ?_, fun x quiet hold hx => ?_⟩
  · have accept : s.effect (.holdMove id tag ab db) = (s.heard r).acceptHold j (.partner r) tag .none a dir .start := by
      rw [effect, State.reqHold_new axis direction gate ((s.heard_activeHold r r a).trans none)]
      unfold State.newHold
      rw [check]
      dsimp only
      rw [free]
    obtain ⟨follows, y, hy, goesOn, stands⟩ := State.accepted (v := (s.heard r).acceptHold j (.partner r) tag .none a dir .start)
      (x := holdJob (.partner r) tag .none a dir .start) (State.place_but ..) (r := r) rfl
    obtain ⟨cls, source, same, kind, own, way, claimed⟩ := goesOn.record
    exact ⟨_, (exec_eq _ s).trans (by rw [accept]), follows, y, hy, cls, source, same, kind, own, way, claimed, stands⟩
  · rw [State.reqHold_repeat axis direction gate ((s.heard_activeHold r r a).trans hold)] at effect
    have hv : (s.heard r).jm.slots[j] = some x := by rw [State.heard_jm]; exact hx
    unfold State.repeatHold at effect
    rw [hv] at effect
    dsimp only at effect
    have heard := State.Quiet.heard quiet r
    by_cases same : x.dir = some dir
    · rw [if_pos same] at effect
      have restart : (s.heard r).modJob j (fun y => { y with holdTimer := .start }) = (s.heard r).setSlot j (some { x with holdTimer := .start }) := by
        unfold State.modJob
        rw [hv]
        rfl
      rw [restart] at effect
      obtain ⟨t, run, settles⟩ := exec_settles effect heard
      refine ⟨t, run, ?_⟩
      rw [if_pos same]
      exact settles
    · rw [if_neg same] at effect
      obtain ⟨t, run, settles⟩ := exec_settles effect (State.Quiet.answer heard ..)
      refine ⟨t, run, ?_⟩
      rw [if_neg same]
      exact ⟨State.Answers.settles settles (State.answer_answers ..), settles⟩

/-- Settles O23: the request becomes its job; the steps of its list are one placement, one end and one outcome each. -/
theorem homeAccepted : Obligations.HomeAccepted := by
  refine ⟨fun s id r tag b m j hears arg gate check free => ?_, fun s j x h hx active undecided homing => ?_⟩
  · have effect : s.effect (.homeAxes id tag b) = (s.heard r).acceptHome j r tag m := by
      rw [State.effect_homeAxes hears, State.reqHome, arg]
      dsimp only
      rw [gate]
      dsimp only
      rw [check]
      dsimp only
      rw [free]
    obtain ⟨follows, y, hy, goesOn, stands⟩ := State.accepted (u := s.heard r) (v := (s.heard r).acceptHome j r tag m) (j := j) (x := (s.heard r).homeJob r tag m)
      (State.emit_but _ _) (r := r) rfl
    rw [State.heard_homeJob] at follows goesOn
    obtain ⟨cls, source, same, kind, _, _, claimed⟩ := goesOn.record
    obtain ⟨k, list, suffix⟩ := goesOn.homing _ rfl
    exact ⟨_, (exec_eq _ s).trans (by rw [effect]), follows, y, hy, cls, source, same, kind, claimed, stands, k, list, suffix⟩
  · have going : x.state ≠ .done := by rw [active]; decide
    refine ⟨fun a rest list free => ?_, fun list cls => ?_, fun list cls => ?_, fun e head scene => ⟨fun stage kind code own free => ?_, fun n stage kind code own => ?_,
      fun kind done stopped paused own => ?_⟩⟩
    · rw [State.homeNext_cons hx active undecided homing list]
      obtain ⟨slot, entry⟩ := State.placeDrive_places hx homing a
      obtain ⟨e, found, own, rank, kind, dir, speed⟩ := entry free
      exact ⟨e, _, _, found, own, rank, kind, dir, speed, slot, rfl, rfl, rfl, rfl⟩
    · rw [State.homeNext_nil hx active undecided homing list, if_neg (by rw [cls]; decide)]
      obtain ⟨y, hy, ending, finished, outcome⟩ := State.finishWork_ends hx active
      exact ⟨y, hy, ending, finished, outcome.trans undecided⟩
    · rw [State.homeNext_nil hx active undecided homing list, if_pos cls]
    · subst own
      rw [State.takeMoveEnd_homing hx going scene homing (.inl kind), State.homingEnd_drive head stage kind code]
      have made := State.modHoming_slot hx homing (fun y => { y with madeValid := y.madeValid ||| AxisSet.one e.axis })
      obtain ⟨slot, entry⟩ := State.placeHomingBackOff_places made rfl e.axis (backOffTarget e.position s.ac[e.axis].lastDir (s.backOffBy e.axis))
      obtain ⟨w, found, own, rank, wkind, dir, speed, target⟩ := entry free
      exact ⟨w, _, _, found, own, rank, wkind, dir, speed, target, slot, rfl, rfl, AxisSet.has_or_one ..⟩
    · subst own
      rw [State.takeMoveEnd_homing hx going scene homing (.inr kind), State.homingEnd_backOff head stage kind code]
      refine ⟨List.mem_append_left _ (List.mem_append_right _ (.head _)), _, _, State.modHoming_slot hx homing _, rfl, rfl, rfl⟩
    · subst own
      rw [State.takeMoveEnd_homing hx going scene homing kind, State.homingEnd_failed head done stopped paused]
      have stopped := State.modHoming_slot hx homing (fun h => { h with stage := .idle })
      obtain ⟨outcome, failing, _, _⟩ := ({ x with homing := some { h with stage := .idle } } : Job).decide_fields e.code (some e.axis) e.pred
      exact ⟨_, _, (State.takeOutcome_slot stopped going undecided e.code (some e.axis) e.pred).1, outcome, failing, Job.decide_homing rfl rfl _ _ _, rfl,
        fun cls => Job.decide_ending (x := { x with homing := some { h with stage := .idle } }) active (.inr cls) _ _ _⟩

end Sys2Proof
end

section
/-! The acceptance checks (R97, R99, R114, R115, R151): each check of a request answers the first refusal of its order, and a refused request
leaves its answer alone (R98). -/

namespace Sys2Proof
namespace Machine

/-! ## The least element that passes a test -/

theorem find?_least {α : Type} [LT α] {l : List α} (sorted : l.Pairwise (· < ·)) {p : α → Bool} {a : α} (mem : a ∈ l) (pass : p a = true)
    (least : ∀ b ∈ l, b < a → p b = false) : l.find? p = some a := by
  induction l with
  | nil => cases mem
  | cons b l ih =>
    obtain ⟨below, rest⟩ := List.pairwise_cons.1 sorted
    rcases List.mem_cons.1 mem with rfl | later
    · exact List.find?_cons_of_pos pass
    · rw [List.find?_cons_of_neg (by simp [least b List.mem_cons_self (below a later)])]
      exact ih rest later (fun c hc => least c (List.mem_cons_of_mem _ hc))

theorem axes_sorted : axes.Pairwise (· < ·) := by decide
theorem predNos_sorted : predNos.Pairwise (· < ·) := by decide
theorem mem_predNos (n : Fin 5) : n ∈ predNos := by revert n; decide

theorem find?_axes_least {p : Axis → Bool} {a : Axis} (pass : p a = true) (least : ∀ b : Axis, b < a → p b = false) : axes.find? p = some a :=
  find?_least axes_sorted (mem_axes a) pass (fun b _ lt => least b lt)

theorem lowestAxis_some {m : AxisSet} {f : Axis → Bool} {a : Axis} (has : AxisSet.has m a = true) (pass : f a = true)
    (least : ∀ b : Axis, b < a → AxisSet.has m b = true → f b = false) : lowestAxis m f = some a :=
  find?_least (axes_sorted.filter _) (AxisSet.mem_list_iff.2 has) pass (fun b hb lt => least b lt (AxisSet.mem_list_iff.1 hb))

theorem lowestAxis_none {m : AxisSet} {f : Axis → Bool} (fails : ∀ a : Axis, AxisSet.has m a = true → f a = false) : lowestAxis m f = none := by
  unfold lowestAxis
  rw [List.find?_eq_none]
  intro a ha
  simp [fails a (AxisSet.mem_list_iff.1 ha)]

theorem AxisSet.has_or_one_iff (m : AxisSet) (a b : Axis) : AxisSet.has (m ||| AxisSet.one b) a = true ↔ AxisSet.has m a = true ∨ a = b := by
  have one : AxisSet.has (AxisSet.one b) a = true ↔ a = b := by revert a b; decide
  rw [← one]
  unfold AxisSet.has
  rw [BitVec.getLsbD_or, Bool.or_eq_true]

theorem AxisSet.has_foldl_iff (a : Axis) (l : List Axis) (m : AxisSet) :
    AxisSet.has (l.foldl (fun m b => m ||| AxisSet.one b) m) a = true ↔ AxisSet.has m a = true ∨ a ∈ l := by
  induction l generalizing m with
  | nil => simp
  | cons b l ih =>
    rw [List.foldl_cons, ih, AxisSet.has_or_one_iff, List.mem_cons]
    exact or_assoc

theorem AxisSet.has_ofList_iff (a : Axis) (l : List Axis) : AxisSet.has (AxisSet.ofList l) a = true ↔ a ∈ l := by
  have empty : AxisSet.has 0#7 a = false := by revert a; decide
  unfold AxisSet.ofList
  rw [AxisSet.has_foldl_iff, empty]
  simp

/-! ## The gate and the slot of a partner -/

theorem State.gate_badArgument (s : State) (r : Role) (k : ReqKind) (good : Bool) : s.gate r k good = some .badArgument ↔ good = false := by
  unfold State.gate
  cases good <;> cases permitted r k <;> cases k.barredInService <;> cases s.st.service <;> simp

theorem State.gate_notPermitted (s : State) (r : Role) (k : ReqKind) (good : Bool) :
    s.gate r k good = some .notPermitted ↔ good = true ∧ permitted r k = false := by
  unfold State.gate
  cases good <;> cases permitted r k <;> cases k.barredInService <;> cases s.st.service <;> simp

theorem ReqKind.barredInService_iff (k : ReqKind) : k.barredInService = true ↔ k = .run ∨ k = .hold ∨ k = .release := by
  cases k <;> decide

theorem State.gate_mode (s : State) (r : Role) (k : ReqKind) (good : Bool) :
    s.gate r k good = some .mode ↔ good = true ∧ permitted r k = true ∧ s.st.service = true ∧ (k = .run ∨ k = .hold ∨ k = .release) := by
  rw [← ReqKind.barredInService_iff]
  unfold State.gate
  cases good <;> cases permitted r k <;> cases k.barredInService <;> cases s.st.service <;> simp

theorem mem_partnerSlots (j : Slot) : j ∈ partnerSlots ↔ j.val < 14 := by revert j; decide

theorem State.freeSlot_none_iff (s : State) : s.freeSlot = none ↔ ∀ j : Slot, j.val < 14 → s.jm.slots[j] ≠ none := by
  unfold State.freeSlot State.slotBusy
  rw [List.find?_eq_none]
  constructor
  · intro busy j below absent
    exact absurd (busy j ((mem_partnerSlots j).2 below)) (by simp [absent])
  · intro busy j member
    simpa [Option.isSome_iff_ne_none] using busy j ((mem_partnerSlots j).1 member)

theorem State.slotFor_noSlot (s : State) (r : Role) : s.slotFor r = .error .noSlot ↔ ∀ j : Slot, j.val < 14 → s.jm.slots[j] ≠ none := by
  rw [← s.freeSlot_none_iff]
  unfold State.slotFor
  split
  next free => simp [free]
  next j free =>
    split
    · simp [free]
    · simp [free]

theorem State.slotFor_quota (s : State) (r : Role) :
    s.slotFor r = .error .quota ↔ (∃ j : Slot, j.val < 14 ∧ s.jm.slots[j] = none) ∧ 4 ≤ s.partnerCount r := by
  unfold State.slotFor
  split
  next full =>
    refine ⟨nofun, fun ⟨⟨j, below, absent⟩, _⟩ => ((s.freeSlot_none_iff.1 full) j below absent).elim⟩
  next j free =>
    have room : ∃ j : Slot, j.val < 14 ∧ s.jm.slots[j] = none := ⟨j, (State.freeSlot_some free).1, (State.freeSlot_some free).2.1⟩
    split
    next reached => exact ⟨fun _ => ⟨room, reached⟩, fun _ => rfl⟩
    next below => exact ⟨nofun, fun h => (below h.2).elim⟩

theorem permitted_body_iff (k : ReqKind) : permitted .body k = true ↔ k ∈ [.run, .hold, .release, .stopJob, .stopAll, .clearFaults] := by
  cases k <;> decide

theorem permitted_tailgate_iff (k : ReqKind) : permitted .tailgate k = true ↔ k ∈ [.run, .stopJob, .stopAll] := by
  cases k <;> decide

theorem permitted_restraint_iff (k : ReqKind) : permitted .restraint k = true ↔ k = .stopAll := by
  cases k <;> decide

/-! ## What the checks read -/

section
variable {s : State} {a : Axis}

theorem State.barred_iff : s.barred a = true ↔ s.ac[a].lockedOut = true ∨ ∃ d l, s.driveAxis a = some d ∧ d.commonLeg = some l ∧ s.da.legFault[l] = true := by
  have leg : s.legBarred a = true ↔ ∃ d l, s.driveAxis a = some d ∧ d.commonLeg = some l ∧ s.da.legFault[l] = true := by
    unfold State.legBarred
    cases hd : s.driveAxis a with
    | none => simp
    | some d => cases hl : d.commonLeg with
      | none => simp [hl]
      | some l => simp [hl]
  unfold State.barred
  rw [Bool.or_eq_true, leg]

theorem State.falsePredicate_some {mask : BitVec 5} {n : Fin 5} (needs : mask.getLsbD n.val = true) (fails : s.predicate n a = false)
    (least : ∀ k : Fin 5, k < n → mask.getLsbD k.val = true → s.predicate k a = true) : s.falsePredicate mask a = some n := by
  refine find?_least predNos_sorted (mem_predNos n) (by simp [needs, fails]) (fun k _ lt => ?_)
  cases hk : mask.getLsbD k.val with
  | false => rfl
  | true => simp [least k lt hk]

theorem State.falsePredicate_none {mask : BitVec 5} (holds : ∀ n : Fin 5, mask.getLsbD n.val = true → s.predicate n a = true) : s.falsePredicate mask a = none := by
  unfold State.falsePredicate
  rw [List.find?_eq_none]
  intro n _
  cases hn : mask.getLsbD n.val with
  | false => simp
  | true => simp [holds n hn]

/-! ## A hold's checks (R99) -/

theorem State.holdCheck_claimed {j : Slot} (dir : Dir) (claimed : s.jm.claims[a] = some j) :
    s.holdCheck a dir = some { code := .busy, failing := none, detail := some (wordDetail j.val) } := by
  unfold State.holdCheck
  rw [claimed]

theorem State.holdCheck_unverified (dir : Dir) (claimed : s.jm.claims[a] = none) (lost : s.validity[a] ≠ .valid) :
    s.holdCheck a dir = some (.bare .unverified) := by
  unfold State.holdCheck
  rw [claimed]
  exact if_pos lost

theorem State.holdCheck_barred (dir : Dir) (claimed : s.jm.claims[a] = none) (valid : ¬ s.validity[a] ≠ .valid) (shut : s.barred a = true) :
    s.holdCheck a dir = some (.bare .lockedOut) := by
  unfold State.holdCheck
  rw [claimed]
  exact (if_neg valid).trans (if_pos shut)

theorem State.holdCheck_predicate (dir : Dir) {n : Fin 5} (claimed : s.jm.claims[a] = none) (valid : ¬ s.validity[a] ≠ .valid) (open_ : ¬ s.barred a = true)
    (fails : s.falsePredicate (s.attendedMask a) a = some n) :
    s.holdCheck a dir = some { code := .notAllowed, failing := none, detail := some (wordDetail n.val) } := by
  unfold State.holdCheck
  rw [claimed]
  dsimp only
  rw [if_neg valid, if_neg open_, fails]

theorem State.holdCheck_room (dir : Dir) (claimed : s.jm.claims[a] = none) (valid : ¬ s.validity[a] ≠ .valid) (open_ : ¬ s.barred a = true)
    (holds : s.falsePredicate (s.attendedMask a) a = none) : s.holdCheck a dir
      = if s.atLimit a dir then some { code := .atLimit, failing := none, detail := some (wordDetail s.ac[a].position) } else none := by
  unfold State.holdCheck
  rw [claimed]
  dsimp only
  rw [if_neg valid, if_neg open_, holds]

theorem State.atLimit_iff (dir : Dir) :
    s.atLimit a dir = true ↔ ¬ ∃ e, s.envelope a = some e ∧ s.tolerance a < Sys2Proof.dist (edgeOf dir e) s.ac[a].position := by
  unfold State.atLimit
  cases s.envelope a with
  | none => simp
  | some e => simp

/-! ## A claimed and a barred set (R114, R151) -/

theorem State.claimedCheck_some {m : AxisSet} {j : Slot} (has : AxisSet.has m a = true) (claimed : s.jm.claims[a] = some j)
    (least : ∀ b : Axis, b < a → AxisSet.has m b = true → ¬ s.jm.claims[b] ≠ none) :
    s.claimedCheck m = some { code := .busy, failing := some a, detail := some (wordDetail j.val) } := by
  have low : lowestAxis m (fun a => s.jm.claims[a].isSome) = some a :=
    lowestAxis_some has (by simp [claimed]) (fun b lt hb => by simp [Classical.not_not.1 (least b lt hb)])
  unfold State.claimedCheck
  rw [low]
  dsimp only [Option.map_some]
  rw [claimed]

theorem State.claimedCheck_none {m : AxisSet} (free : ∀ a : Axis, AxisSet.has m a = true → ¬ s.jm.claims[a] ≠ none) : s.claimedCheck m = none := by
  unfold State.claimedCheck
  rw [lowestAxis_none (fun a ha => by simp [Classical.not_not.1 (free a ha)])]
  rfl

theorem State.barredCheck_some {m : AxisSet} (has : AxisSet.has m a = true) (shut : s.barred a = true)
    (least : ∀ b : Axis, b < a → AxisSet.has m b = true → ¬ s.barred b = true) :
    s.barredCheck m = some { code := .lockedOut, failing := some a, detail := none } := by
  unfold State.barredCheck
  rw [lowestAxis_some has shut (fun b lt hb => Bool.eq_false_iff.2 (least b lt hb))]
  rfl

theorem State.barredCheck_none {m : AxisSet} (free : ∀ a : Axis, AxisSet.has m a = true → ¬ s.barred a = true) : s.barredCheck m = none := by
  unfold State.barredCheck
  rw [lowestAxis_none (fun a ha => Bool.eq_false_iff.2 (free a ha))]
  rfl

/-! ## A run's checks (R114, R115) -/

variable {x : Arrangement} {n : Nat} {tailgate : Bool}

/-- Check 6 of R114, as `runCheck` makes it. -/
def State.unverifiedCheck (s : State) (x : Arrangement) : Option Refused :=
  if x.autoHome then none
  else (lowestAxis x.axes (fun a => s.validity[a] != .valid)).map (fun a => { code := .unverified, failing := some a, detail := none })

/-- Checks 4 to 7 of R114, as `runCheck` makes them. -/
def State.runRefusal (s : State) (x : Arrangement) : Option Refused :=
  (((s.claimedCheck (s.claimSet x)).or (s.barredCheck (s.claimSet x))).or (s.unverifiedCheck x)).or (s.runPredicate x (s.claimSet x))

theorem State.unverifiedCheck_some (asked : x.autoHome = false) (has : AxisSet.has x.axes a = true) (lost : s.validity[a] ≠ .valid)
    (least : ∀ b : Axis, b < a → AxisSet.has x.axes b = true → ¬ s.validity[b] ≠ .valid) :
    s.unverifiedCheck x = some { code := .unverified, failing := some a, detail := none } := by
  unfold State.unverifiedCheck
  rw [asked, lowestAxis_some has (by simpa using lost) (fun b lt hb => by simpa using least b lt hb)]
  rfl

theorem State.unverifiedCheck_none (homed : x.autoHome = true ∨ ∀ a : Axis, AxisSet.has x.axes a = true → ¬ s.validity[a] ≠ .valid) : s.unverifiedCheck x = none := by
  unfold State.unverifiedCheck
  rcases homed with asked | valid
  · rw [asked]
    rfl
  · rw [lowestAxis_none (fun a ha => by simpa using valid a ha)]
    exact ite_self _

theorem State.arrangement_some (found : s.arrangement n = some x) : x ∈ s.st.arrangements.getD [] ∧ x.number = n := by
  unfold State.arrangement at found
  exact ⟨List.mem_of_find?_eq_some found, by simpa using List.find?_some found⟩

theorem State.runCheck_unknown (absent : ∀ y ∈ s.st.arrangements.getD [], y.number ≠ n) : s.runCheck tailgate n = .error (.bare .unknownArrangement) := by
  have none : s.arrangement n = none := by
    unfold State.arrangement
    rw [List.find?_eq_none]
    intro y hy
    simpa using absent y hy
  unfold State.runCheck
  rw [none]

theorem State.runCheck_storeInvalid (found : s.arrangement n = some x) (invalid : ¬ (s.st.drive.isSome = true ∧ s.st.rules.isSome = true)) :
    s.runCheck tailgate n = .error (.bare .storeInvalid) := by
  have broken : (s.st.drive.isNone || s.st.rules.isNone) = true := by
    revert invalid
    cases s.st.drive <;> cases s.st.rules <;> simp
  unfold State.runCheck
  rw [found]
  exact if_pos broken

section
variable (found : s.arrangement n = some x) (known : s.st.drive.isSome = true ∧ s.st.rules.isSome = true)
include found known

theorem State.runCheck_notPermitted (sender : tailgate = true) (cargo : x.cargo = false) : s.runCheck tailgate n = .error (.bare .notPermitted) := by
  have sound : ¬ (s.st.drive.isNone || s.st.rules.isNone) = true := by
    obtain ⟨drive, rules⟩ := known
    simp [Option.isSome_iff_ne_none.1 drive, Option.isSome_iff_ne_none.1 rules]
  unfold State.runCheck
  rw [found]
  dsimp only
  rw [if_neg sound, sender, cargo]
  rfl

variable (cargo : tailgate = true → x.cargo = true)
include cargo

theorem State.runCheck_eq : s.runCheck tailgate n = (s.runRefusal x).elim (.ok x) .error := by
  have sound : ¬ (s.st.drive.isNone || s.st.rules.isNone) = true := by
    obtain ⟨drive, rules⟩ := known
    simp [Option.isSome_iff_ne_none.1 drive, Option.isSome_iff_ne_none.1 rules]
  have allowed : ¬ (tailgate && !x.cargo) = true := by
    cases htail : tailgate with
    | false => simp
    | true => simp [cargo htail]
  unfold State.runCheck
  rw [found]
  dsimp only
  rw [if_neg sound, if_neg allowed]
  show (match s.runRefusal x with | some e => Except.error e | none => Except.ok x) = _
  cases s.runRefusal x <;> rfl

end

theorem State.has_claimSet_iff (x : Arrangement) : AxisSet.has (s.claimSet x) a = true
    ↔ (∃ v ∈ x.moves, v.axis = a) ∨ (x.autoHome = true ∧ s.validity[a] ≠ .valid) := by
  have moves : AxisSet.has x.axes a = true ↔ ∃ v ∈ x.moves, v.axis = a := by
    unfold Arrangement.axes
    rw [AxisSet.has_ofList_iff, List.mem_map]
  unfold State.claimSet
  split
  next asked =>
    have both : ∀ m k : AxisSet, AxisSet.has (m ||| k) a = true ↔ AxisSet.has m a = true ∨ AxisSet.has k a = true := by
      intro m k
      unfold AxisSet.has
      rw [BitVec.getLsbD_or, Bool.or_eq_true]
    rw [both, moves, AxisSet.has_ofList_iff]
    simp [asked]
  next asked => simp [moves, asked]

theorem State.runNeeds_iff {m : AxisSet} {k : Fin 5} : s.runNeeds x m k a = true
    ↔ (AxisSet.has m a = true ∧ (s.automaticMask a).getLsbD k.val = true) ∨ (k = 1 ∧ x.parkRequired = true)
      ∨ (k = 4 ∧ x.rearAccess = true ∧ AxisSet.has x.axes a = true) := by
  unfold State.runNeeds
  simp [or_assoc, and_assoc]

section
variable {m : AxisSet} {lacks : Fin 5 → Axis → Prop} (reads : ∀ k a, lacks k a ↔ (s.runNeeds x m k a && !(s.predicate k a)) = true)
include reads

theorem State.runPredicate_some {k : Fin 5} (fails : lacks k a) (leastPredicate : ∀ i b, i < k → ¬ lacks i b) (leastAxis : ∀ b : Axis, b < a → ¬ lacks k b) :
    s.runPredicate x m = some { code := .notAllowed, failing := if k.val < 2 then none else some a, detail := some (wordDetail k.val) } := by
  have number : predNos.find? (fun n => axes.any (fun a => s.runNeeds x m n a && !(s.predicate n a))) = some k := by
    refine find?_least predNos_sorted (mem_predNos k) (List.any_eq_true.2 ⟨a, mem_axes a, (reads k a).1 fails⟩) (fun i _ lt => ?_)
    rw [List.any_eq_false]
    exact fun b _ => fun h => leastPredicate i b lt ((reads i b).2 h)
  have axis : axes.find? (fun a => s.runNeeds x m k a && !(s.predicate k a)) = some a :=
    find?_axes_least ((reads k a).1 fails) (fun b lt => Bool.eq_false_iff.2 (fun h => leastAxis b lt ((reads k b).2 h)))
  unfold State.runPredicate
  rw [number]
  dsimp only [Option.map_some]
  rw [axis]

theorem State.runPredicate_none (holds : ∀ k a, ¬ lacks k a) : s.runPredicate x m = none := by
  have number : predNos.find? (fun n => axes.any (fun a => s.runNeeds x m n a && !(s.predicate n a))) = none := by
    rw [List.find?_eq_none]
    intro k _
    simp only [List.any_eq_true, not_exists]
    exact fun b h => holds k b ((reads k b).2 h.2)
  unfold State.runPredicate
  rw [number]
  rfl

end

/-! ## A homing's checks (R151) -/

theorem State.homeCheck_moving {m : AxisSet} (moves : s.predicate 0 0 = false) :
    s.homeCheck m = some { code := .notAllowed, failing := none, detail := some (wordDetail (0 : Fin 5).val) } := by
  have still : s.standstill = false := moves
  unfold State.homeCheck State.standingCheck
  rw [still]
  rfl

theorem State.homeCheck_gear {m : AxisSet} (still : s.predicate 0 0 = true) (gear : s.predicate 1 0 = false) :
    s.homeCheck m = some { code := .notAllowed, failing := none, detail := some (wordDetail (1 : Fin 5).val) } := by
  have stands : s.standstill = true := still
  have park : s.inPark = false := gear
  unfold State.homeCheck State.standingCheck
  rw [stands, park]
  rfl

theorem State.homeCheck_standing {m : AxisSet} (still : s.predicate 0 0 = true ∧ s.predicate 1 0 = true) :
    s.homeCheck m = (s.claimedCheck m).or (s.barredCheck m) := by
  have stands : s.standstill = true := still.1
  have park : s.inPark = true := still.2
  unfold State.homeCheck State.standingCheck
  rw [stands, park]
  rfl

end

/-! ## A refused request leaves its answer (R98) -/

section
variable {s : State} {id : CanId} {r : Role} {tag : BitVec 4}

/-- What a partner's command does is to answer a refusal, and no more. -/
theorem exec_refuses (quiet : s.Quiet) {c : Instr} {k : ReqKind} {e : Refused} (effect : s.effect c = (s.heard r).answer r k tag e) :
    ∃ t, exec c s = .next t ∧ ((s.heard r).answer r k tag e).Settles t :=
  exec_settles effect (State.Quiet.answer (State.Quiet.heard quiet r) ..)

end

section
variable {s : State} {r : Role} {tag : BitVec 4} {b b' : Byte}

theorem State.reqRun_gate {c : Code} (gate : s.gate r .run (decide (b.toNat ≤ 15)) = some c) : s.reqRun r tag b = s.refuse r .run tag c := by
  unfold State.reqRun
  rw [gate]

theorem State.reqRun_check {e : Refused} (gate : s.gate r .run (decide (b.toNat ≤ 15)) = none) (check : s.runCheck (r == .tailgate) b.toNat = .error e) :
    s.reqRun r tag b = s.answer r .run tag e := by
  unfold State.reqRun
  rw [gate]
  dsimp only
  rw [check]

theorem State.reqRun_slot {x : Arrangement} {c : Code} (gate : s.gate r .run (decide (b.toNat ≤ 15)) = none)
    (check : s.runCheck (r == .tailgate) b.toNat = .ok x) (slot : s.slotFor r = .error c) : s.reqRun r tag b = s.refuse r .run tag c := by
  unfold State.reqRun
  rw [gate]
  dsimp only
  rw [check]
  dsimp only
  rw [slot]

theorem State.reqHold_badArgument (bad : axisArg b = none ∨ dirArg b' = none) : s.reqHold r tag b b' = s.refuse r .hold tag .badArgument := by
  unfold State.reqHold
  rcases bad with h | h
  · rw [h]
  · rw [h]
    cases axisArg b <;> rfl

theorem State.reqHold_gate {a : Axis} {dir : Dir} {c : Code} (axis : axisArg b = some a) (way : dirArg b' = some dir) (gate : s.gate r .hold true = some c) :
    s.reqHold r tag b b' = s.refuse r .hold tag c := by
  unfold State.reqHold
  rw [axis, way]
  dsimp only
  rw [gate]

theorem State.newHold_check {a : Axis} {dir : Dir} {e : Refused} (check : s.holdCheck a dir = some e) : s.newHold r tag a dir = s.answer r .hold tag e := by
  unfold State.newHold
  rw [check]

theorem State.newHold_slot {a : Axis} {dir : Dir} {c : Code} (check : s.holdCheck a dir = none) (slot : s.slotFor r = .error c) :
    s.newHold r tag a dir = s.refuse r .hold tag c := by
  unfold State.newHold
  rw [check]
  dsimp only
  rw [slot]

theorem State.reqHome_badArgument (bad : setArg b = none) : s.reqHome r tag b = s.refuse r .home tag .badArgument := by
  unfold State.reqHome
  rw [bad]

variable {m : AxisSet} (arg : setArg b = some m)
include arg

theorem State.reqHome_gate {c : Code} (gate : s.gate r .home true = some c) : s.reqHome r tag b = s.refuse r .home tag c := by
  unfold State.reqHome
  rw [arg]
  dsimp only
  rw [gate]

theorem State.reqHome_check {e : Refused} (gate : s.gate r .home true = none) (check : s.homeCheck m = some e) : s.reqHome r tag b = s.answer r .home tag e := by
  unfold State.reqHome
  rw [arg]
  dsimp only
  rw [gate]
  dsimp only
  rw [check]

theorem State.reqHome_slot {c : Code} (gate : s.gate r .home true = none) (check : s.homeCheck m = none) (slot : s.slotFor r = .error c) :
    s.reqHome r tag b = s.refuse r .home tag c := by
  unfold State.reqHome
  rw [arg]
  dsimp only
  rw [gate]
  dsimp only
  rw [check]
  dsimp only
  rw [slot]

end

end Machine

open Machine

/-- Settles O18: the steps before the checks by their table, a refusal by its answer, and each kind's checks in their order. -/
theorem refusedLeavesAnswer : Obligations.RefusedLeavesAnswer := by
  refine ⟨fun s r k good => ?_, fun s id r tag b b' quiet hears => ?_, fun s => ?_⟩
  · exact ⟨s.gate_badArgument r k good, s.gate_notPermitted r k good, s.gate_mode r k good, permitted_service k, permitted_body_iff k, permitted_tailgate_iff k,
      permitted_restraint_iff k, s.slotFor_noSlot r, s.slotFor_quota r⟩
  · refine ⟨fun c gate => ?_, fun e gate check => ?_, fun x c gate check slot => ?_, fun bad => ?_, fun a dir axis way c gate => ?_,
      fun a dir axis way gate new => ⟨fun e check => ?_, fun c check slot => ?_⟩, fun bad => ?_,
      fun m arg => ⟨fun c gate => ?_, fun e gate check => ?_, fun c gate check slot => ?_⟩⟩
    · exact exec_refuses quiet ((State.effect_runArrangement hears tag b).trans (State.reqRun_gate gate))
    · exact exec_refuses quiet ((State.effect_runArrangement hears tag b).trans (State.reqRun_check gate check))
    · exact exec_refuses quiet ((State.effect_runArrangement hears tag b).trans (State.reqRun_slot gate check slot))
    · exact exec_refuses quiet ((State.effect_holdMove hears tag b b').trans (State.reqHold_badArgument bad))
    · exact exec_refuses quiet ((State.effect_holdMove hears tag b b').trans (State.reqHold_gate axis way gate))
    · exact exec_refuses quiet ((State.effect_holdMove hears tag b b').trans
        ((State.reqHold_new axis way gate ((s.heard_activeHold r r a).trans new)).trans (State.newHold_check check)))
    · exact exec_refuses quiet ((State.effect_holdMove hears tag b b').trans
        ((State.reqHold_new axis way gate ((s.heard_activeHold r r a).trans new)).trans (State.newHold_slot check slot)))
    · exact exec_refuses quiet ((State.effect_homeAxes hears tag b).trans (State.reqHome_badArgument bad))
    · exact exec_refuses quiet ((State.effect_homeAxes hears tag b).trans (State.reqHome_gate arg gate))
    · exact exec_refuses quiet ((State.effect_homeAxes hears tag b).trans (State.reqHome_check arg gate check))
    · exact exec_refuses quiet ((State.effect_homeAxes hears tag b).trans (State.reqHome_slot arg gate check slot))
  · refine ⟨fun a dir => ?_, fun tailgate n => ⟨State.runCheck_unknown, fun x found => ?_⟩, fun m => ?_⟩
    · refine ⟨fun j claimed => State.holdCheck_claimed dir claimed, fun free lost => State.holdCheck_unverified dir (Classical.not_not.1 free) lost,
        fun free valid shut => State.holdCheck_barred dir (Classical.not_not.1 free) valid (State.barred_iff.2 shut),
        fun n free valid shut needs fails least => State.holdCheck_predicate dir (Classical.not_not.1 free) valid (mt State.barred_iff.1 shut)
          (State.falsePredicate_some needs fails least), fun free valid shut holds room => ?_, fun free valid shut holds room => ?_⟩
      · rw [State.holdCheck_room dir (Classical.not_not.1 free) valid (mt State.barred_iff.1 shut) (State.falsePredicate_none holds)]
        exact if_pos ((State.atLimit_iff dir).2 room)
      · rw [State.holdCheck_room dir (Classical.not_not.1 free) valid (mt State.barred_iff.1 shut) (State.falsePredicate_none holds)]
        exact if_neg (fun limit => (State.atLimit_iff dir).1 limit room)
    · obtain ⟨member, number⟩ := State.arrangement_some found
      have reads : ∀ (k : Fin 5) (a : Axis), (s.predicate k a = false ∧ ((AxisSet.has (s.claimSet x) a = true ∧ (s.automaticMask a).getLsbD k.val = true)
          ∨ (k = 1 ∧ x.parkRequired = true) ∨ (k = 4 ∧ x.rearAccess = true ∧ AxisSet.has x.axes a = true)))
          ↔ (s.runNeeds x (s.claimSet x) k a && !(s.predicate k a)) = true := by
        intro k a
        rw [Bool.and_eq_true, State.runNeeds_iff, Bool.not_eq_true', and_comm]
      refine ⟨member, number, fun a => State.has_claimSet_iff x, State.runCheck_storeInvalid found, State.runCheck_notPermitted found,
        fun a j ready low claimed => ?_, fun a ready free low => ?_, fun a ready free shut asked low => ?_, fun k a ready free shut homed fails leastPredicate leastAxis => ?_,
        fun ready free shut homed holds => ?_⟩
      all_goals rw [State.runCheck_eq found ready.1 ready.2, State.runRefusal]
      · rw [State.claimedCheck_some low.1 claimed low.2.2]
        rfl
      · rw [State.claimedCheck_none free, State.barredCheck_some low.1 (State.barred_iff.2 low.2.1) (fun b lt hb => mt State.barred_iff.1 (low.2.2 b lt hb))]
        rfl
      all_goals rw [State.claimedCheck_none free, State.barredCheck_none (fun b hb => mt State.barred_iff.1 (shut b hb))]
      · rw [State.unverifiedCheck_some asked low.1 low.2.1 low.2.2]
        rfl
      · rw [State.unverifiedCheck_none homed, State.runPredicate_some reads fails leastPredicate leastAxis]
        rfl
      · rw [State.unverifiedCheck_none homed, State.runPredicate_none reads holds]
        rfl
    · refine ⟨State.homeCheck_moving, State.homeCheck_gear, fun a j still low claimed => ?_, fun a still free low => ?_, fun still free shut => ?_⟩
      all_goals rw [State.homeCheck_standing still]
      · rw [State.claimedCheck_some low.1 claimed low.2.2]
        rfl
      · rw [State.claimedCheck_none free, State.barredCheck_some low.1 (State.barred_iff.2 low.2.1) (fun b lt hb => mt State.barred_iff.1 (low.2.2 b lt hb))]
        rfl
      · rw [State.claimedCheck_none free, State.barredCheck_none (fun b hb => mt State.barred_iff.1 (shut b hb))]
        rfl

end Sys2Proof
end

section
/-! New data of the vehicle or the seats (R132 to R134, R141): the stops of one arrival, each of an axis that the data held now forbid. -/

namespace Sys2Proof
namespace Machine

variable {ok : Pad → Prop}

/-- The move of the channel has been ended: it brakes, or dwells. -/
def Channel.AtRest (c : Channel) : Prop := c.motion = .braking ∨ c.motion = .dwell

theorem Channel.AtRest.stopped {c : Channel} (rest : c.AtRest) : c.Stopped := by
  unfold Channel.Stopped
  rcases rest with e | e
  all_goals rw [e]; rfl

theorem State.interlock_stoppable {s : State} {a : Axis} (asked : (s.interlock a).isSome = true) : s.ac[a].motion.stoppable = true := by
  unfold State.interlock at asked
  split at asked
  next =>
    split at asked
    next stoppable => exact stoppable
    next => cases asked
  next => cases asked

/-- The interlock of an axis hangs on its channel and on what the work of an event leaves as it was (R138, R141). -/
theorem State.RestFollows.interlock {u v : State} (h : State.RestFollows ok u v) {a : Axis} (same : v.ac[a] = u.ac[a]) : v.interlock a = u.interlock a := by
  unfold State.interlock
  rw [same]
  cases u.ac[a].move with
  | none => rfl
  | some m =>
    dsimp only
    rw [h.rankMask, h.falsePredicate]

theorem State.interlockStop_but (s : State) (a : Axis) : State.FollowsBut noAxis ok s (s.interlockStop a) := by
  unfold State.interlockStop
  split
  next => exact s.stopAxis_but a _ _
  next => exact .refl _ s

theorem State.interlockStop_only (s : State) (a : Axis) : State.OnlyAt a s (s.interlockStop a) := by
  unfold State.interlockStop
  split
  next => exact s.stopAxis_only a _ _
  next => exact .refl a s

theorem State.interlockStop_rests {s : State} {a : Axis} (h : s.ac[a].AtRest ∨ (s.interlock a).isSome = true) : (s.interlockStop a).ac[a].AtRest := by
  unfold State.interlockStop
  split
  next asked => exact s.stopAxis_motion a _ _ (State.interlock_stoppable (by rw [asked]; rfl))
  next quiet =>
    rw [quiet] at h
    exact h.resolve_right (by decide)

theorem State.interlockStop_keeps_rest {s : State} {a : Axis} (b : Axis) (rest : s.ac[a].AtRest) : (s.interlockStop b).ac[a].AtRest := by
  by_cases e : a = b
  · subst e
    exact State.interlockStop_rests (.inl rest)
  · rw [(s.interlockStop_only b).ac a e]
    exact rest

/-- Another axis's stop leaves an axis stopped, or to be stopped. -/
theorem State.interlockStop_other {s : State} {a b : Axis} (e : a ≠ b) (h : s.ac[a].AtRest ∨ (s.interlock a).isSome = true) :
    (s.interlockStop b).ac[a].AtRest ∨ ((s.interlockStop b).interlock a).isSome = true := by
  have same := (s.interlockStop_only b).ac a e
  have rest : State.RestFollows (fun _ => True) s (s.interlockStop b) := (s.interlockStop_but b).rest
  rw [same, rest.interlock same]
  exact h

theorem State.each_interlockStop_rests {a : Axis} : ∀ (l : List Axis) (s : State), a ∈ l → s.ac[a].AtRest ∨ (s.interlock a).isSome = true →
    (s.each l State.interlockStop).ac[a].AtRest := by
  intro l
  induction l with
  | nil => exact fun _ h => absurd h List.not_mem_nil
  | cons b l ih =>
    intro s member h
    by_cases first : a = b
    · subst first
      exact State.each_keeps (q := fun t => t.ac[a].AtRest) _ (fun t b => State.interlockStop_keeps_rest b) l _ (State.interlockStop_rests h)
    · exact ih (s.interlockStop b) ((List.mem_cons.1 member).resolve_left first) (State.interlockStop_other first h)

theorem State.interlockStops_but (s : State) : State.FollowsBut noAxis ok s s.interlockStops :=
  (State.shuffled_but s _).trans (State.each_but _ _ _ (fun t a _ => t.interlockStop_but a))

theorem State.interlockStops_rest {s : State} {a : Axis} (asked : (s.interlock a).isSome = true) : s.interlockStops.ac[a].AtRest := by
  refine State.each_interlockStop_rests _ _ ?_ (.inr asked)
  rw [State.mem_shuffled, List.mem_filter]
  exact ⟨mem_axes a, asked⟩

theorem State.scanOnChange_but (s : State) (before : List (List Bool)) : State.FollowsBut noAxis ok s (s.scanOnChange before) := by
  rcases s.scanOnChange_eq before with e | e
  · rw [e]
    exact .refl _ s
  · rw [e]
    exact s.emit_but _

theorem State.scanOnChange_interlock (s : State) (before : List (List Bool)) (a : Axis) : (s.scanOnChange before).interlock a = s.interlock a := by
  rcases s.scanOnChange_eq before with e | e
  · rw [e]
  · rw [e]
    rfl

/-- New data held: what the event makes of the state is work raised, and each axis that they forbid has stopped (R141). -/
theorem State.reevaluate_stops {s u : State} {x : Interlock} {before : List (List Bool)} {c : Instr} (effect : s.effect c = u.reevaluate before)
    (data : u = { s with iu := x }) :
    ∃ t, exec c s = .next t ∧ u.Follows t ∧ ∀ a : Axis, ({ s with iu := t.iu }.interlock a).isSome = true → t.ac[a].Stopped := by
  have follows : u.Follows (u.reevaluate before).conclude := ((u.scanOnChange_but before).trans (State.interlockStops_but _)).concludes
  refine ⟨_, (exec_eq c s).trans (by rw [effect]), follows, fun a asked => ?_⟩
  have held : { s with iu := (u.reevaluate before).conclude.iu } = u := by rw [follows.iu, data]
  rw [held, ← u.scanOnChange_interlock before] at asked
  have rest : (u.reevaluate before).ac[a].AtRest := State.interlockStops_rest asked
  have kept := (State.conclude_follows (u.reevaluate before)).at_rest rest
  have still : (u.reevaluate before).conclude.ac[a].AtRest := by
    unfold Channel.AtRest
    rw [kept.motion]
    exact rest
  exact still.stopped

section
variable {s : State} {id : CanId} (awake : s.sp.power ≠ .park) (on : s.np.busOff = false) (role : s.roleOf id = none)
include awake on role

theorem State.frameIn_vehicle (vehicle : id = s.partners.vehicle) (bs : List Byte) (request : Role → State → State) :
    s.frameIn id bs request = s.vehicleArrival bs := by
  simp only [State.frameIn, awake, on, role, if_false, Bool.false_eq_true]
  exact if_pos vehicle

theorem State.frameIn_occupancy (vehicle : id ≠ s.partners.vehicle) (occupancy : id = s.partners.occupancy) (bs : List Byte)
    (request : Role → State → State) : s.frameIn id bs request = s.occupancyArrival bs := by
  simp only [State.frameIn, awake, on, role, if_false, Bool.false_eq_true]
  exact (if_neg vehicle).trans (if_pos occupancy)

end

end Machine

open Machine

/-- Settles O31: the frame is its kind's arrival, whose stops are those of the data it brings. -/
theorem dataArrival : Obligations.DataArrival := by
  intro s id bs awake on role
  refine ⟨fun vehicle long => ?_, fun occupancy other long => ?_, fun quiet vehicle short => ?_, fun quiet occupancy other short => ?_⟩
  · have arrival : s.effect (.vehicleCondition id bs) = s.vehicleArrival bs := State.frameIn_vehicle awake on role vehicle bs (fun r t => t.request r bs)
    exact State.reevaluate_stops (arrival.trans (if_neg (Nat.not_lt.2 long))) rfl
  · have arrival : s.effect (.occupancy id bs) = s.occupancyArrival bs := State.frameIn_occupancy awake on role other occupancy bs (fun r t => t.request r bs)
    exact State.reevaluate_stops (arrival.trans (if_neg (Nat.not_lt.2 long))) rfl
  · have arrival : s.effect (.vehicleCondition id bs) = s.vehicleArrival bs := State.frameIn_vehicle awake on role vehicle bs (fun r t => t.request r bs)
    exact exec_ignored (arrival.trans (if_pos short)) quiet
  · have arrival : s.effect (.occupancy id bs) = s.occupancyArrival bs := State.frameIn_occupancy awake on role other occupancy bs (fun r t => t.request r bs)
    exact exec_ignored (arrival.trans (if_pos short)) quiet

end Sys2Proof
end

section
/-! Power on: the reset over what a cut-off write has left (R169, R190), the first load (R43, R146) and the end of WAKING (R147, R167, R179). -/

namespace Sys2Proof
namespace Machine

/-! ## The reset -/

/-- Of a park write that a reset cuts off, the first byte is written and the last two are not (R166). -/
theorem State.interrupted_memory (s : State) : (s.st.write = none → s.interrupted.1 = s.st.memory)
    ∧ ∀ w, s.st.write = some w → ∃ k, s.interrupted.1 = memWriteAll s.st.memory (w.bytes.take k)
      ∧ (w.kind = .park → 3 ≤ w.bytes.length → 1 ≤ k ∧ k ≤ w.bytes.length - 2) := by
  unfold State.interrupted
  refine ⟨fun idle => by rw [idle], fun w write => ?_⟩
  rw [write]
  refine ⟨w.cuts.1 + (s.draw (w.cuts.2 + 1 - w.cuts.1)).1, rfl, fun park long => ?_⟩
  have cuts : w.cuts = (1, w.bytes.length - 2) := by
    unfold StoreWrite.cuts
    rw [park]
  have below : (s.draw (w.cuts.2 + 1 - w.cuts.1)).1 < w.cuts.2 + 1 - w.cuts.1 := Nat.mod_lt _ (by rw [cuts]; omega)
  rw [cuts] at below ⊢
  omega

theorem State.powerOn_eq (s : State) (mv : Nat) :
    (¬ (mv < 9000 ∨ 18000 < mv) → s.powerOn mv = State.afterPowerOn s.interrupted.1 s.interrupted.2 s.pending)
      ∧ (mv < 9000 ∨ 18000 < mv → s.powerOn mv = { State.afterPowerOn s.interrupted.1 s.interrupted.2 s.pending with
        sp := { (State.afterPowerOn s.interrupted.1 s.interrupted.2 s.pending).sp with cond := .pausedWindow, window := .start } }) :=
  ⟨fun inside => if_neg (mt (outOfBand_iff mv).1 inside), fun outside => if_pos ((outOfBand_iff mv).2 outside)⟩

/-! ## The first load -/

/-- A consistency check changes the latches and the validity alone (R147). -/
theorem State.checkLatch_parts (s : State) (l : LatchNo) (r : LatchState) : ∃ lc v, s.checkLatch l r = { s with lc := lc, validity := v } := by
  unfold State.checkLatch
  rw [State.consistency_eq, State.modLatch_eq]
  exact ⟨_, _, rfl⟩

theorem State.armCheck_parts (s : State) (l : LatchNo) : ∃ lc v, s.armCheck l = { s with lc := lc, validity := v } := by
  unfold State.armCheck
  split
  next => exact ⟨_, s.validity, rfl⟩
  next => exact s.checkLatch_parts l _

theorem State.each_armCheck_parts : ∀ (l : List LatchNo) (s : State), ∃ lc v, s.each l State.armCheck = { s with lc := lc, validity := v }
  | [], s => ⟨s.lc, s.validity, rfl⟩
  | k :: l, s => by
    obtain ⟨lc, v, first⟩ := s.armCheck_parts k
    obtain ⟨lc', v', rest⟩ := State.each_armCheck_parts l (s.armCheck k)
    refine ⟨lc', v', rest.trans ?_⟩
    rw [first]

/-- The state of the first load's end, before what it raises: the working copies and what they restore, with the checks of a restoring load. -/
def State.loadedState (s : State) : State :=
  let u := { s with st := { loadStore s.st with loaded := true } }.restore
  if u.cleanPark then u.each latches State.armCheck else u

theorem State.firstLoad_eq {s : State} (first : s.st.loaded = false) (waking : s.sp.wakingOver = false) :
    s.firstLoad = s.loadedState.scanOnChange s.predicateTable ∧ ∃ lc v, s.loadedState = { { s with st := { loadStore s.st with loaded := true } }.restore with lc := lc, validity := v } := by
  have parts : ∃ lc v, s.loadedState = { { s with st := { loadStore s.st with loaded := true } }.restore with lc := lc, validity := v } := by
    unfold State.loadedState
    dsimp only
    split
    next => exact State.each_armCheck_parts _ _
    next => exact ⟨_, _, rfl⟩
  refine ⟨?_, parts⟩
  have waits : (s.loadedState.scanOnChange s.predicateTable).sp.wakingOver = false := by
    obtain ⟨lc, v, e⟩ := parts
    rcases s.loadedState.scanOnChange_eq s.predicateTable with h | h
    · rw [h, e]
      exact waking
    · rw [h, e]
      exact waking
  unfold State.firstLoad
  rw [if_neg (by rw [first]; decide)]
  exact if_neg (by rw [Bool.not_eq_true]; exact waits)

/-- A scan that may follow an event changes nothing while nothing waits and no grant is held. -/
theorem State.scanOnChange_settles {u : State} (before : List (List Bool)) (quiet : u.Quiet) (wait : u.da.wait = []) (held : ∀ a : Axis, u.heldGrant a = none) :
    u.Settles (u.scanOnChange before).conclude := by
  rcases u.scanOnChange_eq before with e | e
  · rw [e]
    exact State.conclude_settles quiet
  · have idle : u.Idles (fun t => t = .scan) := by
      rintro _ rfl
      exact ⟨[], fun _ m => (by cases m), by rw [State.runTask_scan, State.scan_of_idle wait held, State.emit_nil]⟩
    rw [e, State.conclude_of_idle quiet idle (fun _ m => List.mem_singleton.1 m)]
    exact State.conclude_settles quiet

section
variable (c : Channel) (drive : Option DriveAxis) (clean : Bool)

theorem Channel.restore_flags (learned : Option LearnedAxis) : (c.restore drive learned clean).stray = 0 ∧ (c.restore drive learned clean).streak = 0
    ∧ (c.restore drive learned clean).lastDir = .positive ∧ (c.restore drive learned clean).limitSeen = false ∧ (c.restore drive learned clean).stall = false
    ∧ (c.restore drive learned clean).obstruction = false ∧ (c.restore drive learned clean).overcurrent = false := by
  unfold Channel.restore Channel.restored Channel.cleared
  cases learned with
  | some x => exact ⟨rfl, rfl, rfl, rfl, rfl, rfl, rfl⟩
  | none => cases drive <;> exact ⟨rfl, rfl, rfl, rfl, rfl, rfl, rfl⟩

theorem Channel.restore_dirty (learned : Option LearnedAxis) : (c.restore drive learned false).position = c.position := by
  unfold Channel.restore Channel.restored
  cases learned with
  | some x => rfl
  | none => cases drive <;> rfl

end

theorem State.restoreHeat_dirty (s : State) (t : Thermal) (learned : Option LearnedAxis) :
    (s.restoreHeat t learned false).heat = s.heatResume ∧ (s.restoreHeat t learned false).estimated = true := by
  unfold State.restoreHeat
  cases learned <;> exact ⟨rfl, rfl⟩

section
variable (s : State) (a : Axis)

theorem State.restore_ac : s.restore.ac[a] = s.ac[a].restore (s.driveAxis a) (s.learnedAxis a) s.cleanPark := by
  unfold State.restore
  simp

theorem State.restore_tw : s.restore.tw[a] = s.restoreHeat s.tw[a] (s.learnedAxis a) s.cleanPark := by
  unfold State.restore
  simp

end

section
variable {s : State}

theorem State.cleanPark_learned {x : LearnedCopy} (learned : s.st.learned = some x) : s.cleanPark = x.marker := by
  unfold State.cleanPark
  rw [learned]

theorem State.cleanPark_dirty (dirty : ∀ x, s.st.learned = some x → x.marker = false) : s.cleanPark = false := by
  unfold State.cleanPark
  split
  next x learned => exact dirty x learned
  next => rfl

theorem State.restore_cleanPark (s : State) : s.restore.cleanPark = s.cleanPark := rfl

theorem State.loadedState_dirty (clean : ({ s with st := { loadStore s.st with loaded := true } } : State).cleanPark = false) :
    s.loadedState = { s with st := { loadStore s.st with loaded := true } }.restore := by
  unfold State.loadedState
  exact if_neg (by rw [State.restore_cleanPark, clean]; decide)

theorem State.restore_validity_dirty (clean : s.cleanPark = false) : s.restore.validity = s.validity := by
  unfold State.restore
  exact if_neg (by rw [clean]; decide)

end

/-! ## The end of WAKING -/

/-- The consistency check of ACTIVE entry on one latch, with the latch taken as UNKNOWN (R147). -/
def State.entryCheck (s : State) (l : LatchNo) : State := if s.lc[l].checkDue then s.checkLatch l .unknown else s

theorem State.entryCheck_parts (s : State) (l : LatchNo) : ∃ lc v, s.entryCheck l = { s with lc := lc, validity := v }
    ∧ (∀ k : LatchNo, lc[k] = if k = l then { s.lc[k] with checkDue := false } else s.lc[k])
    ∧ ∀ a : Axis, v[a] = if (axisOfLatch l == a && s.lc[l].checkDue) = true ∧ s.validity[a] = .valid then .unverified else s.validity[a] := by
  unfold State.entryCheck
  by_cases due : s.lc[l].checkDue = true
  · have check : s.checkLatch l .unknown = (s.modLatch l (fun x => { x with checkDue := false })).loses (axisOfLatch l) true := by
      unfold State.checkLatch
      rw [State.consistency_eq]
      have unread : (!((s.modLatch l (fun x => { x with checkDue := false })).st.drive.isSome
          && ((LatchState.unknown == .locked && ((s.modLatch l (fun x => { x with checkDue := false })).lockWindow (axisOfLatch l)
            (s.modLatch l (fun x => { x with checkDue := false })).ac[axisOfLatch l].position).isSome)
          || (LatchState.unknown == .opened && !((s.modLatch l (fun x => { x with checkDue := false })).lockWindow (axisOfLatch l)
            (s.modLatch l (fun x => { x with checkDue := false })).ac[axisOfLatch l].position).isSome)))) = true := by
        rw [show (LatchState.unknown == .locked) = false from rfl, show (LatchState.unknown == .opened) = false from rfl]
        simp
      rw [unread]
    rw [if_pos due, check]
    refine ⟨_, _, rfl, fun k => ?_, fun a => ?_⟩
    · rw [State.modLatch_get]
      by_cases e : k = l
      · rw [if_pos e, if_pos e, e]
      · rw [if_neg e, if_neg e]
    · by_cases e : axisOfLatch l = a
      · subst e
        by_cases valid : s.validity[axisOfLatch l] = .valid
        · rw [if_pos ⟨valid, rfl⟩, if_pos ⟨by rw [due, beq_self_eq_true, Bool.and_true], valid⟩]
          simp
        · rw [if_neg (fun h => valid h.1), if_neg (fun h => valid h.2)]
          rfl
      · rw [if_neg (c := _ ∧ s.validity[a] = .valid) (fun h => e (beq_iff_eq.1 (Bool.and_eq_true _ _ ▸ h.1 : _ ∧ _).1))]
        split
        · simp only [Fin.getElem_fin, Vector.getElem_set, Fin.ext_iff] at e ⊢
          rw [if_neg e]
          rfl
        · rfl
  · rw [if_neg due]
    refine ⟨s.lc, s.validity, rfl, fun k => ?_, fun a => ?_⟩
    · by_cases e : k = l
      · rw [if_pos e]
        subst e
        have undue : s.lc[k].checkDue = false := Bool.eq_false_iff.2 due
        rw [← undue]
      · rw [if_neg e]
    · rw [if_neg (fun h => due (Bool.and_eq_true _ _ ▸ h.1).2)]

/-- Two checks that fail lower a validity as one does. -/
theorem Validity.checked_twice (here later : Bool) (v : Validity) :
    (if later = true ∧ (if here = true ∧ v = .valid then .unverified else v) = .valid then .unverified else if here = true ∧ v = .valid then .unverified else v)
      = if (here || later) = true ∧ v = .valid then Validity.unverified else v := by
  cases v <;> cases here <;> cases later <;> rfl

theorem State.each_entryCheck : ∀ (l : List LatchNo) (s : State), l.Nodup → ∃ lc v, s.each l State.entryCheck = { s with lc := lc, validity := v }
    ∧ (∀ k : LatchNo, lc[k] = if k ∈ l then { s.lc[k] with checkDue := false } else s.lc[k])
    ∧ ∀ a : Axis, v[a] = if l.any (fun k => axisOfLatch k == a && s.lc[k].checkDue) = true ∧ s.validity[a] = .valid then .unverified else s.validity[a]
  | [], s, _ => ⟨s.lc, s.validity, rfl, fun k => by rw [if_neg List.not_mem_nil], fun a => by rw [if_neg (fun h => Bool.false_ne_true h.1)]⟩
  | j :: l, s, distinct => by
    obtain ⟨new, distinct⟩ := List.nodup_cons.1 distinct
    obtain ⟨lc, v, first, latch, validity⟩ := s.entryCheck_parts j
    obtain ⟨lc', v', rest, latch', validity'⟩ := State.each_entryCheck l (s.entryCheck j) distinct
    have latchAt (k : LatchNo) : (s.entryCheck j).lc[k] = if k = j then { s.lc[k] with checkDue := false } else s.lc[k] := by rw [first]; exact latch k
    have validityAt (a : Axis) : (s.entryCheck j).validity[a]
        = if (axisOfLatch j == a && s.lc[j].checkDue) = true ∧ s.validity[a] = .valid then .unverified else s.validity[a] := by rw [first]; exact validity a
    refine ⟨lc', v', rest.trans (by rw [first]), fun k => ?_, fun a => ?_⟩
    · rw [latch', latchAt]
      by_cases e : k = j
      · subst e
        rw [if_neg new, if_pos rfl, if_pos List.mem_cons_self]
      · rw [if_neg e]
        simp only [List.mem_cons, e, false_or]
    · have later : l.any (fun k => axisOfLatch k == a && (s.entryCheck j).lc[k].checkDue) = l.any (fun k => axisOfLatch k == a && s.lc[k].checkDue) := by
        refine Bool.eq_iff_iff.2 ?_
        simp only [List.any_eq_true]
        refine exists_congr (fun k => and_congr_right (fun m => ?_))
        rw [latchAt, if_neg (fun e : k = j => new (e ▸ m))]
      rw [validity', later, validityAt, List.any_cons]
      exact Validity.checked_twice ..

/-- What ACTIVE entry makes of the state, before the scan and the pads (R147, R167). -/
def State.entered (s : State) : State :=
  { s with
    sp := { s.sp with power := .active, waking := .stopped, wakingOver := false }
    lc := s.lc.map (fun (x : Latch) => { x with checkDue := false })
    validity := Vector.ofFn (fun (a : Axis) =>
      if latches.any (fun l => axisOfLatch l == a && s.lc[l].checkDue) ∧ s.validity[a] = Validity.valid then Validity.unverified else s.validity[a]) }

/-- The FREE pads with a button held. -/
def State.heldPads (s : State) : List Pad := [Pad.left, Pad.right].filter (fun p => s.ps[padNo p].cond == .free && !(s.ps[padNo p].pressed.isEmpty))

/-- The scan of ACTIVE entry, and after it the pads with a button held (R167, R179). -/
def State.padsEnter (s : State) : State := (s.shuffled s.heldPads).2.emit (.scan :: (s.shuffled s.heldPads).1.map Task.padEntry)

theorem State.enterActive_eq (s : State) : s.enterActive = s.entered.padsEnter := by
  have checks : ({ s with sp := { s.sp with power := .active, waking := .stopped, wakingOver := false } } : State).each latches State.entryCheck = s.entered := by
    obtain ⟨lc, v, run, latch, validity⟩ := State.each_entryCheck latches { s with sp := { s.sp with power := .active, waking := .stopped, wakingOver := false } } (by decide)
    rw [run]
    unfold State.entered
    congr 1
    · refine Vector.ext (fun k hk => ?_)
      rw [Vector.getElem_map]
      exact (latch ⟨k, hk⟩).trans (if_pos (mem_latches _))
    · refine Vector.ext (fun a ha => ?_)
      rw [Vector.getElem_ofFn]
      exact validity ⟨a, ha⟩
  rw [← checks]
  rfl

/-- The press that a pad counts makes it ENGAGED, whatever the work of the event does after it (R179). -/
theorem State.engage_settled (s : State) (p : Pad) (b : Button) (n : Nat) (l : List Task) : (settle n ((s.engage p b).emit l)).ps[padNo p].cond = .engaged b := by
  have engaged : (s.modPad p (fun x => { x with cond := .engaged b })).ps[padNo p].cond = .engaged b := by
    rw [State.modPad_get, if_pos rfl]
  have work : State.RestFollows (fun _ => True) (s.modPad p (fun x => { x with cond := .engaged b })) (s.engage p b) :=
    (State.countPress_but (ok := fun _ => True) _ p b trivial).rest
  have later : State.RestFollows (fun _ => True) ((s.engage p b).emit l) (settle n ((s.engage p b).emit l)) :=
    (settle_but (ok := fun _ => True) n _ (fun _ _ => trivial)).rest
  have counted : (s.engage p b).ps[padNo p].cond = .engaged b :=
    (work.conds p).elim (fun same => same.trans engaged) (fun other => by rw [engaged] at other; cases other.2.1)
  refine (later.conds p).elim (fun same => same.trans counted) (fun other => ?_)
  have free : (s.engage p b).ps[padNo p].cond = .free := other.2.1
  rw [counted] at free
  cases free

/-- What follows of the state that ACTIVE entry makes: the work of the event, with the presses of the pads (R147, R167, R179). -/
theorem State.enterActive_follows (s : State) : { s.entered with raised := [.padEntry .left, .padEntry .right] }.Follows s.enterActive.conclude := by
  have any (q : Pad) : Task.padEntry q ∈ ({ s.entered with raised := [.padEntry .left, .padEntry .right] } : State).raised := by
    cases q <;> simp
  have start : State.FollowsBut noAxis (fun q => Task.padEntry q ∈ ({ s.entered with raised := [.padEntry .left, .padEntry .right] } : State).raised)
      { s.entered with raised := [.padEntry .left, .padEntry .right] } s.enterActive := by
    rw [State.enterActive_eq]
    exact .of_lite rfl rfl rfl rfl rfl rfl rfl rfl rfl rfl rfl rfl (fun q _ => any q)
  exact start.concludes

theorem State.padEntry_engage {s : State} {p : Pad} {b : Button} {tm : Timer} {rest : List (Button × Timer)} (free : s.ps[padNo p].cond = .free)
    (pressed : s.ps[padNo p].pressed = (b, tm) :: rest) : s.padEntry p = s.engage p b := by
  unfold State.padEntry
  rw [free, pressed]

theorem State.conclude_ps (s : State) : s.conclude.ps = (settle Config.settleFuel s).ps := (State.finish_same s.settled).ps

/-- With no other button held and nothing to scan, the pad's press is the event's work (R179). -/
theorem State.enterActive_engages {s : State} (quiet : s.Quiet) (wait : s.da.wait = []) (held : ∀ a : Axis, s.heldGrant a = none) {p : Pad} {b : Button} {tm : Timer}
    {rest : List (Button × Timer)} (free : s.ps[padNo p].cond = .free) (pressed : s.ps[padNo p].pressed = (b, tm) :: rest)
    (alone : s.heldPads = [p]) : s.enterActive.conclude.ps[padNo p].cond = .engaged b := by
  have fuel : Config.settleFuel = 3998 + 1 + 1 := rfl
  have only : (s.entered.shuffled s.entered.heldPads).1 = [p] := by
    have perm := s.entered.shuffled_perm s.entered.heldPads
    rw [show s.entered.heldPads = [p] from alone] at perm ⊢
    exact List.perm_singleton.1 perm
  rw [State.conclude_ps, State.enterActive_eq, State.padsEnter, only, fuel]
  generalize hw : (s.entered.shuffled s.entered.heldPads).2 = w
  have ps : w.ps = s.ps := by rw [← hw]; rfl
  have still : w.Quiet := by rw [← hw]; exact quiet
  have scan : w.runTask .scan = w := w.runTask_scan.trans (State.scan_of_idle (by rw [← hw]; exact wait) (by rw [← hw]; exact held))
  have entry : w.runTask (.padEntry p) = w.engage p b := by
    show w.padEntry p = _
    exact State.padEntry_engage (by rw [ps]; exact free) (by rw [ps]; exact pressed)
  rw [settle_emit still rfl scan]
  show (settle (3998 + 1) (w.emit [.padEntry p])).ps[padNo p].cond = _
  rw [settle_emit still rfl entry]
  exact w.engage_settled p b 3998 []

theorem State.heldPads_alone {s : State} {p : Pad} (free : s.ps[padNo p].cond = .free) (pressed : s.ps[padNo p].pressed ≠ [])
    (others : ∀ q : Pad, q ≠ p → s.ps[padNo q].cond ≠ .free ∨ s.ps[padNo q].pressed = []) : s.heldPads = [p] := by
  have takes : ∀ q : Pad, (s.ps[padNo q].cond == .free && !(s.ps[padNo q].pressed.isEmpty)) = decide (q = p) := by
    intro q
    by_cases e : q = p
    · subst e
      simp [free, pressed, -Fin.getElem_fin]
    · rcases others q e with h | h
      · simp [h, e, -Fin.getElem_fin]
      · simp [h, e, -Fin.getElem_fin]
  unfold State.heldPads
  rw [List.filter_congr (fun q _ => takes q)]
  cases p <;> rfl

end Machine

open Machine

/-- Settles O55: the reset over what the write left, the load over what it restores, and ACTIVE entry with its checks, scan and pads. -/
theorem powerUp : Obligations.PowerUp := by
  refine ⟨fun s mv => ?_, fun s quiet first waking wait held => ?_, fun s power running => ⟨fun loaded => ?_, fun quiet first => ?_⟩⟩
  · obtain ⟨whole, cut⟩ := s.interrupted_memory
    obtain ⟨inside, outside⟩ := s.powerOn_eq mv
    refine ⟨_, s.interrupted.1, s.interrupted.2, exec_eq (.powerOnReset mv) s, whole, cut, fun low high => ?_, fun out => ?_⟩
    · show State.Settles _ (s.powerOn mv).conclude
      rw [inside (by omega)]
      exact State.conclude_settles rfl
    · show State.Settles _ (s.powerOn mv).conclude
      rw [outside out]
      exact State.conclude_settles rfl
  · obtain ⟨load, lc, v, parts⟩ := State.firstLoad_eq first waking
    let u : State := { s with st := { loadStore s.st with loaded := true } }
    have settles : s.loadedState.Settles (s.loadedState.scanOnChange s.predicateTable).conclude := by
      refine State.scanOnChange_settles _ ?_ ?_ ?_
      all_goals rw [parts]
      · exact quiet
      · exact wait
      · exact held
    have effect : s.effect .firstLoadEnd = s.loadedState.scanOnChange s.predicateTable := load
    have run : exec .firstLoadEnd s = .next (s.loadedState.scanOnChange s.predicateTable).conclude := (exec_eq _ s).trans (by rw [effect])
    generalize (s.loadedState.scanOnChange s.predicateTable).conclude = t at settles run
    have st : t.st = u.st := by rw [settles.st, parts]; rfl
    have chan (a : Axis) : t.ac[a] = s.ac[a].restore (u.driveAxis a) (u.learnedAxis a) u.cleanPark := by
      rw [settles.ac, parts]
      exact u.restore_ac a
    have heat (a : Axis) : t.tw[a] = u.restoreHeat s.tw[a] (u.learnedAxis a) u.cleanPark := by
      rw [settles.tw, parts]
      exact u.restore_tw a
    refine ⟨t, run, st, by rw [settles.da, parts]; rfl, by rw [settles.slots, parts]; rfl, by rw [settles.iu, parts]; rfl, by rw [settles.sp, parts]; rfl,
      fun a => ?_, fun x hx a => ?_, fun dirty => ?_, fun learned drive a => ?_⟩
    · rw [chan]
      exact Channel.restore_flags ..
    · have learned : u.learnedAxis a = some x.axis[a] := congrArg (Option.map (fun y : LearnedCopy => y.axis[a])) hx
      have clean : u.cleanPark = x.marker := State.cleanPark_learned hx
      rw [chan, heat, learned, clean]
      refine ⟨rfl, rfl, rfl, rfl, rfl, fun marker => ?_⟩
      rw [marker]
      exact ⟨rfl, rfl, rfl⟩
    · have clean : u.cleanPark = false := State.cleanPark_dirty dirty
      have same : s.loadedState = u.restore := State.loadedState_dirty clean
      refine ⟨by rw [settles.sp, same]; exact clean, ?_, fun a => ?_⟩
      · rw [settles.validity, same]
        exact State.restore_validity_dirty clean
      · obtain ⟨resumes, estimated⟩ := u.restoreHeat_dirty s.tw[a] (u.learnedAxis a)
        have level : t.heatResume = u.heatResume := by
          unfold State.heatResume
          rw [st]
        rw [chan, heat, clean, level]
        exact ⟨s.ac[a].restore_dirty _ _, resumes, estimated⟩
    · have unlearned : u.learnedAxis a = Option.none := congrArg (Option.map (fun y : LearnedCopy => y.axis[a])) learned
      have undriven : u.driveAxis a = Option.none := congrArg (Option.map (fun y : DriveCopy => y.axis[a])) drive
      rw [chan, heat, unlearned, undriven]
      exact ⟨rfl, rfl, rfl, rfl, rfl⟩
  · have effect : s.effect .wakingEnd = s.enterActive := by
      show s.wakingDone = _
      unfold State.wakingDone
      rw [if_neg (by simp [power, running]), if_pos loaded]
    refine ⟨s.enterActive.conclude, (exec_eq _ s).trans (by rw [effect]), ?_, rfl, ⟨(s.entered.shuffled s.entered.heldPads).1, ?_, s.entered.shuffled_perm _⟩,
      fun p b tm rest free pressed => ⟨State.padEntry_engage free pressed, fun quiet wait held others => ?_⟩⟩
    · exact s.enterActive_follows
    · rw [State.enterActive_eq]
      rfl
    · exact State.enterActive_engages quiet wait held free pressed (State.heldPads_alone free (by rw [pressed]; exact List.cons_ne_nil _ _) others)
  · have effect : s.effect .wakingEnd = { s with sp := { s.sp with wakingOver := true, waking := s.sp.waking.hold } } := by
      show s.wakingDone = _
      unfold State.wakingDone
      rw [if_neg (by simp [power, running]), if_neg (by rw [first]; decide)]
    exact exec_settles effect quiet

end Sys2Proof
end

section
/-! The Network Port (11, 11.3 and 11.5): what the end of an event loads into an empty transmit buffer, in the order of R174, and the frames' ends. -/

namespace Sys2Proof
namespace Machine

/-! ## An event's end up to the loading of a frame -/

/-- The state that the loading of a frame meets: pages published, timer and counter up to date (R54, R165, R175). -/
def State.shown (s : State) : State := s.arrivalUpdate.parkUpdate.publish

theorem State.shown_same (s : State) : s.SameBut s.shown := (s.arrivalUpdate_same.trans (State.parkUpdate_same _)).trans (State.publish_same _)

theorem State.conclude_of_quiet {s : State} (quiet : s.Quiet) : s.conclude = s.shown.pump := by
  have settled : s.settled = s := by
    unfold State.settled
    rw [settle_quiet quiet, ← show s.raised = [] from quiet]
  unfold State.conclude
  rw [settled]
  rfl

section
variable (s : State)

theorem State.shown_jm : s.shown.jm = s.jm := rfl
theorem State.shown_power : s.shown.sp.power = s.sp.power := rfl
theorem State.shown_tx : s.shown.np.tx = s.np.tx := rfl
theorem State.shown_rows : s.shown.np.rows = s.np.rows := rfl
theorem State.shown_busOff : s.shown.np.busOff = s.np.busOff := rfl
theorem State.shown_partners : s.shown.partners = s.partners := rfl

theorem State.shown_page (p : PageNo) : s.shown.np.pages[p] = s.np.pages[p].write (s.pageContent p) := by
  have content : s.arrivalUpdate.parkUpdate.pageContent p = s.pageContent p := (s.arrivalUpdate_same.trans (State.parkUpdate_same _)).pageContent p
  unfold State.shown
  rw [State.publish_page, content]
  rfl

theorem State.shown_buffer (p : PageNo) : s.shown.np.pages[p].buffer = s.shown.pageContent p := State.publish_buffer _ p

end

theorem Page.write_due {p : Page} (due : p.due = true) (content : List Byte) : (p.write content).due = true := by
  unfold Page.write
  split
  next => exact due
  next =>
    show (p.due || _) = true
    rw [due, Bool.true_or]

theorem Page.write_held {p : Page} {content : List Byte} (held : p.buffer = content) : p.write content = p := if_pos held

/-! ## The next frame (R174, R194) -/

theorem State.answerReady_first {s : State} {r : Role} {x : Answer} (hx : s.jm.answers[roleNo r] = some x)
    (first : ∀ q, roleNo q < roleNo r → s.jm.answers[roleNo q] = none) : s.answerReady = some (r, x) := by
  unfold State.answerReady roles
  cases r with
  | body => rw [List.findSome?_cons, hx]; rfl
  | tailgate =>
    rw [List.findSome?_cons, first .body (by decide), List.findSome?_cons, hx]
    rfl
  | restraint =>
    rw [List.findSome?_cons, first .body (by decide), List.findSome?_cons, first .tailgate (by decide), List.findSome?_cons, hx]
    rfl
  | service =>
    rw [List.findSome?_cons, first .body (by decide), List.findSome?_cons, first .tailgate (by decide), List.findSome?_cons, first .restraint (by decide),
      List.findSome?_cons, hx]
    rfl

theorem State.answerReady_empty {s : State} (empty : s.jm.answers = Vector.replicate 4 none) : s.answerReady = none := by
  unfold State.answerReady
  rw [List.findSome?_eq_none_iff]
  intro r _
  rw [empty]
  cases r <;> rfl

section
variable {s : State} (free : s.np.tx = none) (on : s.np.busOff = false) (awake : s.sp.power ≠ .park)
include free on awake

theorem State.pump_answer {r : Role} {x : Answer} (ready : s.answerReady = some (r, x)) : s.pump = s.loadAnswer r x := by
  unfold State.pump
  rw [if_neg (by rw [free, on]; decide), if_neg awake, ready]

theorem State.pump_result {j : Slot} {x : Job} {rest : List Slot} (silent : s.answerReady = none) (head : s.jm.doneList = j :: rest) (hx : s.jm.slots[j] = some x) :
    s.pump = s.loadResult j x := by
  have ready : s.resultReady = some (j, x) := by
    unfold State.resultReady
    rw [head]
    dsimp only
    rw [hx]
    rfl
  unfold State.pump
  rw [if_neg (by rw [free, on]; decide), if_neg awake, silent]
  dsimp only
  rw [ready]

theorem State.pump_third (silent : s.answerReady = none) (idle : s.jm.doneList = []) : s.pump = s.pumpPages := by
  have ready : s.resultReady = none := by
    unfold State.resultReady
    rw [idle]
  unfold State.pump
  rw [if_neg (by rw [free, on]; decide), if_neg awake, silent]
  dsimp only
  rw [ready]

end

theorem State.pumpPages_row {s : State} {p : PageNo} {a : Axis} {rest : List (PageNo × Axis)} (rows : s.np.rows = (p, a) :: rest) :
    s.pumpPages = s.loadRow p a rest := by
  unfold State.pumpPages
  rw [rows]

theorem State.pumpPages_page {s : State} {p : PageNo} (rows : s.np.rows = []) (due : s.duePage = some p) : s.pumpPages = s.loadPage p := by
  unfold State.pumpPages
  rw [rows]
  dsimp only
  rw [due]

theorem State.duePage_first {s : State} {p : PageNo} (awake : s.sp.power ≠ .park) (due : s.np.pages[p].due = true)
    (first : ∀ q : PageNo, q < p → s.np.pages[q].due = false) : s.duePage = some p := by
  refine find?_least (l := pageNos) (by decide) ((by decide : ∀ p : PageNo, p ∈ pageNos) p) ?_ (fun q _ lt => ?_)
  · unfold State.pageReady
    rw [due, bne_iff_ne.2 awake]
    rfl
  · unfold State.pageReady
    rw [first q lt]
    rfl

/-- The frame of a page that is loaded, or of its A0 row, and the page as sent (R175, R194). -/
theorem State.loadPage_frame (s : State) (p : PageNo) : (s.loadPage p).np.pages[p] = s.np.pages[p].sent
    ∧ (p.val < 4 → (s.loadPage p).np.tx = some { id := s.pageId p, data := withSeq s.np.pages[p].seq s.np.pages[p].buffer, source := .page p })
    ∧ (4 ≤ p.val → (s.loadPage p).np.tx = some { id := s.pageId p, data := rowFrame s.np.pages[p] 0, source := .row p 0 }
      ∧ (s.loadPage p).np.rows = [(p, 1), (p, 2), (p, 3), (p, 4), (p, 5), (p, 6)]) := by
  refine ⟨?_, fun low => ?_, fun high => ?_⟩
  · rw [State.loadPage_pages, State.modPage_get, if_pos rfl]
  · unfold State.loadPage
    dsimp only
    rw [if_pos low]
    rfl
  · unfold State.loadPage
    dsimp only
    rw [if_neg (by omega)]
    exact ⟨rfl, rfl⟩

theorem rowFrame_eq {p : Page} {content : List Byte} (held : p.buffer = content) (a : Axis) :
    rowFrame p a = withSeq p.seq (BitVec.ofNat 8 a.val :: (content.drop (3 * a.val)).take 3) := by
  unfold rowFrame
  rw [held]

/-! ## What an empty buffer takes at the end of an event without work -/

section
variable {u : State} (quiet : u.Quiet) (free : u.np.tx = none) (on : u.np.busOff = false) (awake : u.sp.power ≠ .park)
include quiet free on awake

theorem State.conclude_answer {r : Role} {x : Answer} (hx : u.jm.answers[roleNo r] = some x)
    (first : ∀ q, roleNo q < roleNo r → u.jm.answers[roleNo q] = none) :
    u.conclude.np.tx = some { id := u.resultId r, data := { x with loaded := true }.frame, source := .answer r } := by
  rw [State.conclude_of_quiet quiet, State.pump_answer (s := u.shown) free on awake (State.answerReady_first hx first)]
  rfl

variable (silent : u.jm.answers = Vector.replicate 4 none)
include silent

theorem State.conclude_result {j : Slot} {rest : List Slot} {x : Job} {r : Role} (head : u.jm.doneList = j :: rest) (hx : u.jm.slots[j] = some x)
    (source : x.source = .partner r) : u.conclude.np.tx = some { id := u.resultId r, data := x.frame j, source := .result j } := by
  rw [State.conclude_of_quiet quiet, State.pump_result (s := u.shown) free on awake (State.answerReady_empty silent) head hx]
  unfold State.loadResult
  rw [source]
  rfl

variable (idle : u.jm.doneList = [])
include idle

theorem State.conclude_row {p : PageNo} {a : Axis} {rest : List (PageNo × Axis)} (rows : u.np.rows = (p, a) :: rest) :
    u.conclude.np.rows = rest ∧ ∃ g, u.conclude.np.tx = some g ∧ g.source = .row p a ∧ g.id = u.partners.base + BitVec.ofNat 11 p.val
      ∧ g.data = withSeq u.conclude.np.pages[p].seq (BitVec.ofNat 8 a.val :: ((u.conclude.pageContent p).drop (3 * a.val)).take 3) := by
  have load : u.conclude = u.shown.loadRow p a rest := by
    rw [State.conclude_of_quiet quiet, State.pump_third (s := u.shown) free on awake (State.answerReady_empty silent) idle, State.pumpPages_row (s := u.shown) rows]
  have content : u.conclude.pageContent p = u.shown.pageContent p := by
    rw [State.conclude_of_quiet quiet]
    exact u.shown.pump_same.pageContent p
  rw [content, load]
  exact ⟨rfl, _, rfl, rfl, rfl, rowFrame_eq (u.shown_buffer p) a⟩

variable (rows : u.np.rows = []) {p : PageNo} (due : u.np.pages[p].due = true)
  (first : ∀ q : PageNo, q < p → u.np.pages[q].due = false ∧ u.np.pages[q].buffer = u.pageContent q)
include rows due first

theorem State.conclude_loadPage : u.conclude = u.shown.loadPage p := by
  have ready : u.shown.duePage = some p := by
    refine State.duePage_first awake ?_ (fun q lt => ?_)
    · rw [State.shown_page]
      exact Page.write_due due _
    · obtain ⟨undue, held⟩ := first q lt
      rw [State.shown_page, Page.write_held held]
      exact undue
  rw [State.conclude_of_quiet quiet, State.pump_third (s := u.shown) free on awake (State.answerReady_empty silent) idle, State.pumpPages_page (s := u.shown) rows ready]

theorem State.conclude_page : u.conclude.np.pages[p].due = false ∧ u.conclude.np.pages[p].changed = false ∧ u.conclude.np.pages[p].timer = .start
    ∧ (p.val < 4 → ∃ f, u.conclude.np.tx = some f ∧ f.source = .page p ∧ f.id = u.partners.base + BitVec.ofNat 11 p.val
      ∧ f.data = withSeq u.conclude.np.pages[p].seq (u.conclude.pageContent p))
    ∧ (4 ≤ p.val → u.conclude.np.rows = [(p, 1), (p, 2), (p, 3), (p, 4), (p, 5), (p, 6)]
      ∧ ∃ g, u.conclude.np.tx = some g ∧ g.source = .row p 0 ∧ g.id = u.partners.base + BitVec.ofNat 11 p.val
        ∧ g.data = withSeq u.conclude.np.pages[p].seq (BitVec.ofNat 8 (0 : Axis).val :: ((u.conclude.pageContent p).drop (3 * (0 : Axis).val)).take 3)) := by
  have content : u.conclude.pageContent p = u.shown.pageContent p := by
    rw [State.conclude_of_quiet quiet]
    exact u.shown.pump_same.pageContent p
  obtain ⟨sent, frame, row⟩ := u.shown.loadPage_frame p
  rw [content, State.conclude_loadPage quiet free on awake silent idle rows due first, sent]
  refine ⟨rfl, rfl, rfl, fun low => ⟨_, frame low, rfl, rfl, ?_⟩, fun high => ?_⟩
  · rw [← u.shown_buffer p]
    rfl
  · obtain ⟨tx, waiting⟩ := row high
    exact ⟨waiting, _, tx, rfl, rfl, rowFrame_eq (u.shown_buffer p) 0⟩

end

theorem State.conclude_full {u : State} (quiet : u.Quiet) (full : u.np.tx.isSome = true ∨ u.np.busOff = true) : u.conclude = u.shown := by
  rw [State.conclude_of_quiet quiet]
  exact State.pump_of_full full

/-- A slot without an answer has none after the event's end either (R98). -/
theorem State.Settles.no_answer {u t : State} (h : u.Settles t) {r : Role} (empty : u.jm.answers[roleNo r] = none) : t.jm.answers[roleNo r] = none := by
  have marks := congrArg (fun v : Vector (Option Answer) 4 => v[roleNo r]) h.answers
  simp only [Fin.getElem_fin, Vector.getElem_map] at marks
  have none' : u.jm.answers[(roleNo r).val] = none := empty
  rw [none'] at marks
  exact Option.map_eq_none_iff.1 marks

/-! ## The frames' ends -/

/-- The transmit buffer empty again, with the error count lowered (R177). -/
def State.unloaded (s : State) : State := { s with np := { s.np with tx := none, errors := s.np.errors - 1 } }

section
variable {s : State} {f : TxFrame} (loaded : s.np.tx = some f) (on : s.np.busOff = false)
include loaded on

theorem State.frameSent_third (third : (∃ p, f.source = .page p) ∨ ∃ p a, f.source = .row p a) : s.frameSent = s.unloaded := by
  unfold State.frameSent
  rw [loaded]
  dsimp only
  rw [if_neg (by rw [on]; decide)]
  rcases third with ⟨p, e⟩ | ⟨p, a, e⟩
  · rw [e]
    rfl
  · rw [e]
    rfl

theorem State.frameSent_answer {r : Role} (source : f.source = .answer r) : s.frameSent = s.unloaded.answerSent r := by
  unfold State.frameSent
  rw [loaded]
  dsimp only
  rw [if_neg (by rw [on]; decide), source]
  rfl

theorem State.frameSent_result {j : Slot} (source : f.source = .result j) : s.frameSent = s.unloaded.resultSent j := by
  unfold State.frameSent
  rw [loaded]
  dsimp only
  rw [if_neg (by rw [on]; decide), source]
  rfl

end

theorem State.answerSent_parts (s : State) (r : Role) : ∃ answers, s.answerSent r = { s with jm := { s.jm with answers := answers } } := by
  unfold State.answerSent
  split
  next x _ =>
    split
    next => exact ⟨_, rfl⟩
    next => exact ⟨_, rfl⟩
  next => exact ⟨_, rfl⟩

theorem State.resultSent_parts (s : State) (j : Slot) : ∃ slots doneList, s.resultSent j = { s with jm := { s.jm with slots := slots, doneList := doneList } } := by
  unfold State.resultSent
  split
  next =>
    split
    next => exact ⟨_, _, rfl⟩
    next => exact ⟨_, _, rfl⟩
  next => exact ⟨_, _, rfl⟩

/-- The end of a frame changes the port and the Job Manager's records alone. -/
theorem State.frameSent_parts {s : State} {f : TxFrame} (loaded : s.np.tx = some f) (on : s.np.busOff = false) :
    ∃ jm, s.frameSent = { s.unloaded with jm := jm } := by
  cases source : f.source with
  | answer r =>
    obtain ⟨_, e⟩ := s.unloaded.answerSent_parts r
    exact ⟨_, (State.frameSent_answer loaded on source).trans e⟩
  | result j =>
    obtain ⟨_, _, e⟩ := s.unloaded.resultSent_parts j
    exact ⟨_, (State.frameSent_result loaded on source).trans e⟩
  | page p => exact ⟨_, State.frameSent_third loaded on (.inl ⟨p, source⟩)⟩
  | row p a => exact ⟨_, State.frameSent_third loaded on (.inr ⟨p, a, source⟩)⟩

theorem State.Settles.pages {u t : State} {pages : Vector Page 6} (h : State.Settles { u with np := { u.np with pages := pages } } t) : u.Settles t :=
  ⟨h.ac, h.lc, h.da, h.slots, h.lists, h.claims, h.answers, h.lastPad, h.iu, h.validity, h.tw, h.sp, h.st, h.port, h.ps, h.picks, h.quiet, h.pending⟩

theorem State.pageFallsDue_awake {s : State} (awake : s.sp.power ≠ .park) (p : PageNo) : s.pageFallsDue p = s.modPage p (fun x => { x with due := true }) := by
  unfold State.pageFallsDue
  exact if_neg (fun h => awake (of_decide_eq_true (Bool.and_eq_true _ _ ▸ h : _ ∧ _).1))

theorem State.pageFallsDue_settles {s : State} (quiet : s.Quiet) (p : PageNo) : s.Settles (s.pageFallsDue p).conclude := by
  unfold State.pageFallsDue
  split
  next => exact State.conclude_settles quiet
  next => exact State.Settles.pages (State.conclude_settles (s := s.modPage p (fun x => { x with due := true })) quiet)

end Machine

open Machine

/-- Settles O58: the frame that an empty buffer takes, in the order of R174, and the ends of frames and errors. -/
theorem portEvents : Obligations.PortEvents := by
  refine ⟨fun s f quiet awake loaded on third => ?_, fun s quiet => ⟨fun f loaded on => ?_, fun f loaded on => ?_, fun off => ?_, fun p => ?_⟩⟩
  · intro axis row
    have effect : s.effect .frameSent = s.unloaded := State.frameSent_third loaded on third
    have still : s.unloaded.Quiet := quiet
    refine ⟨s.unloaded.conclude, (exec_eq _ s).trans (by rw [effect]), fun r x hx first => ?_, fun silent => ⟨fun j rest x r c head hx source outcome => ?_,
      fun p a rest idle rows => ?_, fun p idle rows due high first => ?_⟩⟩
    · refine ⟨_, State.conclude_answer still rfl on awake hx first, rfl, rfl, fun read => ?_, fun n l read => ?_⟩
      · unfold Answer.frame
        dsimp only
        rw [read]
        rfl
      · unfold Answer.frame
        dsimp only
        rw [read]
    · refine ⟨_, State.conclude_result still rfl on awake silent head hx source, rfl, rfl, ?_⟩
      unfold Job.frame
      rw [outcome]
      rfl
    · exact State.conclude_row still rfl on awake silent idle rows
    · obtain ⟨undue, unchanged, timer, _, row'⟩ := State.conclude_page still rfl on awake silent idle rows due first
      obtain ⟨waiting, frame⟩ := row' high
      exact ⟨waiting, undue, unchanged, timer, frame⟩
  · obtain ⟨jm, parts⟩ := State.frameSent_parts loaded on
    have still : s.frameSent.Quiet := by rw [parts]; exact quiet
    have settles : s.frameSent.Settles s.frameSent.conclude := State.conclude_settles still
    refine ⟨_, s.frameSent, exec_eq .frameSent s, settles, by rw [parts]; rfl, settles.port.1.trans (by rw [parts]; rfl), fun r x source hx mark => ?_,
      fun j rest source head => ?_, fun p source => ?_⟩
    · have sent : s.frameSent = s.unloaded.setAnswer r none := by
        rw [State.frameSent_answer loaded on source]
        unfold State.answerSent
        rw [show s.unloaded.jm.answers[roleNo r] = some x from hx]
        exact if_pos mark
      refine ⟨settles.no_answer ?_, settles.slots.trans (by rw [sent]; rfl)⟩
      rw [sent]
      exact Vector.getElem_set_self ..
    · have sent : s.frameSent = { s.unloaded with jm := { s.jm with doneList := rest, slots := s.jm.slots.set j none } } := by
        rw [State.frameSent_result loaded on source]
        unfold State.resultSent
        rw [show s.unloaded.jm.doneList = j :: rest from head]
        exact if_pos rfl
      exact ⟨settles.slots.trans (by rw [sent]), settles.lists.2.2.2.trans (by rw [sent])⟩
    · have sent : s.frameSent = s.unloaded := State.frameSent_third loaded on (.inl ⟨p, source⟩)
      exact ⟨settles.slots.trans (by rw [sent]; rfl), settles.lists.2.2.2.trans (by rw [sent]; rfl)⟩
  · let u : State := { s with np := { s.np with
      errors := s.np.errors + 8
      busOff := decide (255 < s.np.errors + 8)
      busOffTimer := if 255 < s.np.errors + 8 then .start else s.np.busOffTimer } }
    have effect : s.effect .txError = u := by
      show s.transmitError = u
      unfold State.transmitError
      rw [if_neg (by rw [loaded, on]; exact Bool.false_ne_true)]
      dsimp only
      simp only [decide_eq_true_eq]
      rfl
    have still : u.Quiet := quiet
    refine ⟨u.conclude, (exec_eq _ s).trans (by rw [effect]), ?_, State.conclude_settles still⟩
    rw [State.conclude_full still (.inl (by rw [show u.np.tx = some f from loaded]; rfl))]
    rfl
  · let u : State := { s with np := { s.np with busOff := false, errors := 0, busOffTimer := .stopped } }
    have effect : s.effect .busOffRejoin = u := if_pos off
    have still : u.Quiet := quiet
    refine ⟨u.conclude, (exec_eq _ s).trans (by rw [effect]), State.conclude_settles still, fun full => ?_⟩
    rw [State.conclude_full still (.inl full)]
    rfl
  · let u : State := s.modPage p (fun x => { x with due := true })
    have pageOf (q : PageNo) : u.np.pages[q] = if q = p then { s.np.pages[p] with due := true } else s.np.pages[q] := State.modPage_get ..
    refine ⟨(s.pageFallsDue p).conclude, exec_eq (.pageDue p) s, State.pageFallsDue_settles quiet p, fun full awake => ?_,
      fun free on awake silent idle rows first low => ?_⟩
    · rw [State.pageFallsDue_awake awake, State.conclude_full (u := u) quiet full]
      refine ⟨?_, rfl⟩
      rw [State.shown_page, pageOf, if_pos rfl]
      exact Page.write_due rfl _
    · have content (q : PageNo) : u.pageContent q = s.pageContent q := (s.modPage_same p _).pageContent q
      rw [State.pageFallsDue_awake awake]
      obtain ⟨undue, unchanged, timer, frame, _⟩ := State.conclude_page (u := u) quiet free on awake silent idle rows (p := p)
        (by rw [pageOf, if_pos rfl]) (fun q lt => by rw [pageOf, if_neg (Fin.ne_of_lt lt), content]; exact first q lt)
      exact ⟨undue, unchanged, timer, frame low⟩

end Sys2Proof
end

section
/-! The pads (11, 11.6): a press that a pad counts, notes or wakes with, the release of the counted button, and a stuck one (R104, R105, R108, R179
to R181). -/

namespace Sys2Proof
namespace Machine

/-! ## A pad's condition and buttons -/

/-- The state with another record for a pad. -/
def State.padSet (s : State) (p : Pad) (x : PadState) : State := { s with ps := s.ps.set (padNo p) x }

theorem State.modPad_eq (s : State) (p : Pad) (f : PadState → PadState) : s.modPad p f = s.padSet p (f s.ps[padNo p]) := rfl

section
variable (s : State) (p : Pad) (x y : PadState)

theorem State.padSet_own : (s.padSet p x).ps[padNo p] = x := Vector.getElem_set_self ..

theorem State.padSet_get (q : Pad) : (s.padSet p x).ps[padNo q] = if q = p then x else s.ps[padNo q] := by
  cases p <;> cases q <;> simp [State.padSet, padNo]

theorem State.padSet_padSet : (s.padSet p x).padSet p y = s.padSet p y := by
  unfold State.padSet
  rw [Vector.set_set]

end

/-- A pad's record with a button newly pressed. -/
def PadState.with (x : PadState) (c : PadCond) (b : Button) : PadState := { cond := c, pressed := x.pressed ++ [(b, .start)] }

section
variable {s : State} {p : Pad} {b : Button}

/-- A new press is noted where the pad does not count it (R179). -/
theorem State.padPress_notes (awake : s.sp.power ≠ .park) (new : s.ps[padNo p].isPressed b = false) (busy : s.sp.power ≠ .active ∨ s.ps[padNo p].cond ≠ .free) :
    s.padPress p b = s.padSet p (s.ps[padNo p].with s.ps[padNo p].cond b) := by
  have noted : s.modPad p (fun x => { x with pressed := x.pressed ++ [(b, Timer.start)] }) = s.padSet p (s.ps[padNo p].with s.ps[padNo p].cond b) := rfl
  unfold State.padPress
  rw [if_neg awake, if_neg (by rw [new]; decide)]
  dsimp only
  rw [noted]
  refine if_neg (fun h => ?_)
  rw [Bool.and_eq_true, decide_eq_true_eq, State.padSet_own, beq_iff_eq] at h
  exact busy.elim (fun k => k h.1) (fun k => k h.2)

/-- A press that a FREE pad counts in ACTIVE (R179). -/
theorem State.padPress_counts (active : s.sp.power = .active) (new : s.ps[padNo p].isPressed b = false) (free : s.ps[padNo p].cond = .free) :
    s.padPress p b = (s.padSet p (s.ps[padNo p].with (.engaged b) b)).countPress p b := by
  have noted : s.modPad p (fun x => { x with pressed := x.pressed ++ [(b, Timer.start)] }) = s.padSet p (s.ps[padNo p].with s.ps[padNo p].cond b) := rfl
  unfold State.padPress
  rw [if_neg (by rw [active]; decide), if_neg (by rw [new]; decide)]
  dsimp only
  rw [noted]
  have counts : (decide ((s.padSet p (s.ps[padNo p].with s.ps[padNo p].cond b)).sp.power = .active)
      && (s.padSet p (s.ps[padNo p].with s.ps[padNo p].cond b)).ps[padNo p].cond == .free) = true := by
    rw [State.padSet_own, Bool.and_eq_true, decide_eq_true_eq, beq_iff_eq]
    exact ⟨active, free⟩
  rw [if_pos counts]
  unfold State.engage
  rw [State.modPad_eq, State.padSet_own, State.padSet_padSet]
  rfl

end

section
variable {s : State} (p : Pad) (x : PadState)

theorem State.padSet_activeScenes : (s.padSet p x).activeScenes = s.activeScenes := rfl
theorem State.padSet_holdCheck (a : Axis) (dir : Dir) : (s.padSet p x).holdCheck a dir = s.holdCheck a dir := rfl
theorem State.padSet_runCheck (n : Nat) : (s.padSet p x).runCheck false n = s.runCheck false n := rfl
theorem State.padSet_accessNumber (q : Pad) : (s.padSet p x).accessNumber q = s.accessNumber q := rfl

end

theorem padMove_access (p : Pad) : padMove p .access = none := by cases p <;> rfl

/-! ## A counted press (R104, R105, R108) -/

section
variable {s : State} {p : Pad} {b : Button} (calm : s.activeScenes = [])
include calm

theorem State.countPress_hold {a : Axis} {dir : Dir} (button : padMove p b = some (a, dir)) : s.countPress p b = s.padHold p b a dir := by
  unfold State.countPress
  rw [calm]
  dsimp only
  rw [button]

theorem State.countPress_access (button : padMove p b = none) : s.countPress p b = s.padAccess p := by
  unfold State.countPress
  rw [calm]
  dsimp only
  rw [button]

theorem State.countPress_service (service : s.st.service = true) : s.countPress p b = s.setLastPad p (some .mode) := by
  cases button : padMove p b with
  | none =>
    rw [State.countPress_access calm button]
    exact if_pos service
  | some m =>
    rw [State.countPress_hold calm (a := m.1) (dir := m.2) button]
    exact if_pos service

end

theorem State.countPress_stops {s : State} (p : Pad) (b : Button) (going : s.activeScenes ≠ []) : s.countPress p b = s.each s.activeScenes State.stopJob := by
  unfold State.countPress
  split
  next j rest scenes => rw [scenes]
  next scenes => exact absurd scenes going

theorem State.slotForPad_free {s : State} {p : Pad} (free : s.jm.slots[padSlot p] = none) : s.slotForPad p = .ok (padSlot p) := by
  unfold State.slotForPad State.slotBusy
  rw [free]
  rfl

theorem State.slotForPad_busy {s : State} {p : Pad} (busy : s.jm.slots[padSlot p] ≠ none) : s.slotForPad p = .error .noSlot := by
  unfold State.slotForPad State.slotBusy
  exact if_pos (Option.isSome_iff_ne_none.2 busy)

section
variable {s : State} {p : Pad} {b : Button} {a : Axis} {dir : Dir} (open_ : s.st.service = false)
include open_

theorem State.padHold_refused {e : Refused} (check : s.holdCheck a dir = some e) : s.padHold p b a dir = s.setLastPad p (some e.code) := by
  unfold State.padHold
  rw [if_neg (by rw [open_]; decide), check]

theorem State.padHold_noSlot (check : s.holdCheck a dir = none) (busy : s.jm.slots[padSlot p] ≠ none) : s.padHold p b a dir = s.setLastPad p (some .noSlot) := by
  unfold State.padHold
  rw [if_neg (by rw [open_]; decide), check]
  dsimp only
  rw [State.slotForPad_busy busy]

theorem State.padHold_accepted (check : s.holdCheck a dir = none) (free : s.jm.slots[padSlot p] = none) :
    s.padHold p b a dir = s.acceptHold (padSlot p) (.pad p) 0#4 (some b) a dir .stopped := by
  unfold State.padHold
  rw [if_neg (by rw [open_]; decide), check]
  dsimp only
  rw [State.slotForPad_free free]

theorem State.padAccess_refused {e : Refused} (check : s.runCheck false (s.accessNumber p) = .error e) : s.padAccess p = s.setLastPad p (some e.code) := by
  unfold State.padAccess
  rw [if_neg (by rw [open_]; decide), check]

variable {x : Arrangement} (check : s.runCheck false (s.accessNumber p) = .ok x)
include check

theorem State.padAccess_noSlot (busy : s.jm.slots[padSlot p] ≠ none) : s.padAccess p = s.setLastPad p (some .noSlot) := by
  unfold State.padAccess
  rw [if_neg (by rw [open_]; decide), check]
  dsimp only
  rw [State.slotForPad_busy busy]

theorem State.padAccess_accepted (free : s.jm.slots[padSlot p] = none) : s.padAccess p = s.acceptRun (padSlot p) (.pad p) 0#4 (some .access) x := by
  unfold State.padAccess
  rw [if_neg (by rw [open_]; decide), check]
  dsimp only
  rw [State.slotForPad_free free]

end

/-! ## The job of a counted press -/

theorem JobManager.take_placed {u : JobManager} (placed : u.PadsPlaced) {p : Pad} {x : Job} (source : x.source = .pad p) : (u.take (padSlot p) x).PadsPlaced := by
  intro j y q hy own
  have slot : (u.take (padSlot p) x).slots[j] = if j = padSlot p then some x else u.slots[j] := Machine.setSlot_get ..
  rw [slot] at hy
  split at hy
  next e =>
    cases hy
    rw [source] at own
    cases own
    exact e
  next => exact placed j y q hy own

/-- What an accepted pad job has become at the end of its event: it goes on and stands, or its end has reached the pad (R95, R96, R105). -/
theorem State.acceptedPad {u v : State} {p : Pad} {x : Job}
    (but : State.FollowsBut noAxis (fun q => Task.padEntry q ∈ (u.takeSlot (padSlot p) x).raised) (u.takeSlot (padSlot p) x) v) (quiet : u.Quiet) (source : x.source = .pad p) :
    (u.takeSlot (padSlot p) x).Follows v.conclude ∧ v.conclude.ps[padNo p].cond = u.ps[padNo p].cond
      ∧ (u.jm.PadsPlaced → (∃ y, v.conclude.jm.slots[padSlot p] = some y ∧ x.Follows y ∧ v.conclude.JobStands (padSlot p) y)
        ∨ (v.conclude.jm.slots[padSlot p] = none ∧ (v.conclude.jm.lastPad[padNo p]).isSome = true)) := by
  have follows := but.concludes
  have entries : Task.padEntry p ∉ (u.takeSlot (padSlot p) x).raised := by
    rw [show (u.takeSlot (padSlot p) x).raised = [] from quiet]
    exact List.not_mem_nil
  refine ⟨follows, (follows.conds p).elim id (fun other => absurd other.1 entries), fun placed => ?_⟩
  rcases (follows.pads (JobManager.take_placed placed source) p entries).job x (u.takeSlot_slot _ x) source with ⟨y, hy, goesOn, kept⟩ | ⟨free, c, last, _⟩
  · refine .inl ⟨y, hy, goesOn, fun _ => ?_⟩
    obtain ⟨claims, attended, scenes, services⟩ := u.jm.take_stands (padSlot p) x
    obtain ⟨keptClaims, keptAttended, keptScenes, keptServices⟩ := kept
    obtain ⟨cls, _, _, _, _, _, claimed⟩ := goesOn.record
    refine ⟨fun a has => keptClaims a (claims a (claimed ▸ has)), ?_⟩
    rw [cls]
    cases h : x.cls with
    | attended => exact keptAttended (attended h)
    | scene => exact keptScenes (scenes h)
    | service => exact keptServices (services h)
  · exact .inr ⟨free, by rw [last]; rfl⟩

/-! ## The scan that meets a pad's hold alone on the list -/

section
variable {s : State} {a : Axis}

theorem State.decideRelock_idle (calm : ∀ l : LatchNo, axisOfLatch l = a → s.lc[l].relock ≠ .pending) (passed : Bool) : s.decideRelock a passed = s := by
  unfold State.decideRelock
  split
  next => rfl
  next l own => exact if_neg (calm l (latchOf_eq_some_iff.1 own))

theorem State.grantLatch_jm (kind : MoveKind) : (s.grantLatch a kind).jm = s.jm := by
  unfold State.grantLatch
  split
  next => rfl
  next =>
    split
    next => rfl
    next => rfl
    next => split <;> rfl

theorem State.startMove_calm (calm : ∀ l : LatchNo, axisOfLatch l = a → s.lc[l].relock ≠ .pending) (g : Grant) :
    (s.startMove a g).jm = s.jm ∧ (s.startMove a g).raised = s.raised := by
  unfold State.startMove
  split
  next => exact ⟨rfl, rfl⟩
  next =>
    dsimp only
    rw [State.decideRelock_idle calm]
    split
    all_goals exact ⟨State.grantLatch_jm .., State.grantLatch_raised ..⟩

theorem State.takeLeg_jm_lc (s : State) (l : Option Leg) (v : Bool) : (s.takeLeg l v).jm = s.jm ∧ (s.takeLeg l v).lc = s.lc := by
  unfold State.takeLeg
  split
  next => split <;> exact ⟨rfl, rfl⟩
  next => exact ⟨rfl, rfl⟩

theorem State.startMarkerWrite_jm (s : State) : s.startMarkerWrite.jm = s.jm := by
  unfold State.startMarkerWrite
  split
  next => rfl
  next => split <;> rfl

/-- Only a scene has rows that a grant marks (R119). -/
theorem State.markGranted_jm {j : Slot} {x : Job} (hx : s.jm.slots[j] = some x) (scene : x.scene = none) : (s.markGranted j a).jm = s.jm := by
  have same (f : Scene → Scene) : s.jm.slots[j].map (fun y : Job => { y with scene := y.scene.map f }) = s.jm.slots[j] := by
    rw [hx, Option.map_some, scene]
    exact congrArg some (by rw [Option.map_none, ← scene])
  unfold State.markGranted State.modJob State.setSlot
  rw [same]
  have kept : s.jm.slots.set j s.jm.slots[j] = s.jm.slots := Vector.set_getElem_self ..
  rw [kept]

theorem State.grantEntry_calm {e : WaitEntry} {x : Job} (calm : ∀ l : LatchNo, axisOfLatch l = e.axis → s.lc[l].relock ≠ .pending) (hx : s.jm.slots[e.slot] = some x)
    (scene : x.scene = none) (t st tr : Option Nat) : (s.grantEntry e t st tr).jm = s.jm ∧ (s.grantEntry e t st tr).raised = s.raised := by
  unfold State.grantEntry
  split
  next => exact ⟨rfl, rfl⟩
  next d _ =>
    dsimp only
    generalize hu : (s.dropEntry e.axis).setGrant e.axis _ = u
    have jm : u.jm = s.jm := by rw [← hu]; rfl
    have raised : u.raised = s.raised := by rw [← hu]; rfl
    have lc : u.lc = s.lc := by rw [← hu]; rfl
    obtain ⟨legJm, legLc⟩ := u.takeLeg_jm_lc d.commonLeg (neededLevel d e.dir)
    split
    next => exact ⟨(State.startMarkerWrite_jm _).trans (legJm.trans jm), (State.startMarkerWrite_raised _).trans ((u.takeLeg_raised _ _).trans raised)⟩
    next =>
      obtain ⟨moveJm, moveRaised⟩ := State.startMove_calm (s := u.takeLeg d.commonLeg (neededLevel d e.dir)) (a := e.axis) (by rw [legLc, lc]; exact calm) _
      have kept := moveJm.trans (legJm.trans jm)
      exact ⟨(State.markGranted_jm (by rw [kept]; exact hx) scene).trans kept, moveRaised.trans ((u.takeLeg_raised _ _).trans raised)⟩

theorem State.scan_waits {e : WaitEntry} {rest : List WaitEntry} (wait : s.da.wait = e :: rest) (held : ∀ a : Axis, s.heldGrant a = none)
    (passes : s.terminalTest e = none) (decided : s.decideEntry e = .wait) : s.scan = scanWalk rest (s.bypassFull e.axis) [e.axis] s := by
  rw [State.scan_eq_walk held, wait]
  conv => lhs; unfold scanWalk
  dsimp only
  rw [State.entryOf_first wait]
  simp only [Option.getD_some, passes, decided, Bool.false_eq_true, if_false, List.nil_append]

/-- A hold that is alone on the list, passes the terminal tests and is off its limit waits or is granted: its job goes on either way (R56 to R58). -/
theorem State.scan_hold {e : WaitEntry} {x : Job} (wait : s.da.wait = [e]) (held : ∀ a : Axis, s.heldGrant a = none) (passes : s.terminalTest e = none)
    (kind : e.kind = .hold) (room : s.atLimit e.axis e.dir = false) (calm : ∀ l : LatchNo, axisOfLatch l = e.axis → s.lc[l].relock ≠ .pending)
    (hx : s.jm.slots[e.slot] = some x) (scene : x.scene = none) : s.scan.jm = s.jm ∧ s.scan.raised = s.raised := by
  cases test : s.waitTest e with
  | false =>
    rw [State.scan_waits wait held passes (State.decideEntry_of_wait test)]
    exact ⟨rfl, rfl⟩
  | true =>
    unfold State.atLimit at room
    split at room
    next v env =>
      have far : s.tolerance e.axis < dist (edgeOf e.dir v) s.ac[e.axis].position := by simpa using room
      have decided := State.decideEntry_hold test kind env
      rw [if_pos far] at decided
      rw [State.scan_grants wait held passes decided]
      obtain ⟨jm, raised⟩ := State.grantEntry_calm calm hx scene none (some (edgeOf e.dir v)) none
      exact ⟨jm, raised⟩
    next => cases room

end

/-- What a passed check of a hold says of its axis (R99). -/
theorem State.holdCheck_passed {s : State} {a : Axis} {dir : Dir} (check : s.holdCheck a dir = none) :
    s.validity[a] = .valid ∧ s.barred a = false ∧ s.falsePredicate (s.attendedMask a) a = none ∧ s.atLimit a dir = false := by
  unfold State.holdCheck at check
  split at check
  next => cases check
  next =>
    split at check
    next => cases check
    next valid =>
      split at check
      next => cases check
      next open_ =>
        split at check
        next => cases check
        next predicates =>
          split at check
          next => cases check
          next room => exact ⟨Classical.not_not.1 valid, Bool.eq_false_iff.2 open_, predicates, Bool.eq_false_iff.2 room⟩

theorem State.terminalTest_passes {s : State} {e : WaitEntry} (drive : s.st.drive.isSome = true) (open_ : s.barred e.axis = false) (cool : s.tw[e.axis].hot = false)
    (valid : s.validity[e.axis] = .valid) (predicates : s.falsePredicate (s.rankMask e.axis e.rank) e.axis = none) : s.terminalTest e = none := by
  unfold State.terminalTest
  rw [if_neg (by rw [Option.isNone_eq_false_iff.2 drive]; decide), if_neg (by rw [open_]; decide), if_neg (by rw [cool]; decide),
    if_neg (by rw [valid]; exact Bool.false_ne_true), predicates]

theorem State.place_alone {s : State} (wait : s.da.wait = []) (j : Slot) (a : Axis) (rank : Nat) (kind : MoveKind) (dir : Dir) (speed : Speed) (target : Option Nat) :
    ∃ n, s.place j a rank kind dir speed target
      = { s with da := { s.da with wait := [WaitEntry.mk a j rank n 0 kind dir speed target], arrival := n } }.emit [.scan] := by
  have unlisted : s.entryOf a = none := by
    unfold State.entryOf
    rw [wait]
    rfl
  have joined : s.nextArrival.2 = [] := by
    unfold State.nextArrival
    rw [wait]
    split <;> rfl
  refine ⟨s.nextArrival.1, ?_⟩
  unfold State.place
  rw [unlisted]
  dsimp only
  rw [joined]
  rfl

theorem State.conclude_same (s : State) : s.settled.SameBut s.conclude := State.finish_same s.settled

theorem State.settled_jm {s v : State} (run : settle Config.settleFuel s = v) : s.settled.jm = v.jm := by
  unfold State.settled
  rw [run]

theorem State.conclude_jm {s : State} {jm : JobManager} (work : s.settled.jm = jm) :
    s.conclude.jm.slots = jm.slots ∧ s.conclude.jm.claims = jm.claims ∧ s.conclude.jm.attended = jm.attended := by
  rw [s.conclude_same.jm, work]
  exact ⟨rfl, rfl, rfl⟩

/-- A hold accepted with nothing else waiting and its axis off every test is ACTIVE at the end of its event (R99, R104). -/
theorem State.acceptHold_goesOn {s : State} {j : Slot} {source : Source} {b : Option Button} {a : Axis} {dir : Dir} {timer : Timer} (quiet : s.Quiet)
    (check : s.holdCheck a dir = none) (drive : s.st.drive.isSome = true) (cool : s.tw[a].hot = false) (wait : s.da.wait = [])
    (held : ∀ c : Axis, s.heldGrant c = none) (calm : ∀ l : LatchNo, axisOfLatch l = a → s.lc[l].relock ≠ .pending) :
    (s.acceptHold j source 0#4 b a dir timer).conclude.jm.slots = (s.jm.take j (holdJob source 0#4 b a dir timer)).slots
      ∧ (s.acceptHold j source 0#4 b a dir timer).conclude.jm.claims = (s.jm.take j (holdJob source 0#4 b a dir timer)).claims
      ∧ (s.acceptHold j source 0#4 b a dir timer).conclude.jm.attended = (s.jm.take j (holdJob source 0#4 b a dir timer)).attended := by
  obtain ⟨valid, open_, predicates, room⟩ := State.holdCheck_passed check
  obtain ⟨n, place⟩ := State.place_alone (s := s.takeSlot j (holdJob source 0#4 b a dir timer)) wait j a 0 .hold dir .normal none
  have accept : s.acceptHold j source 0#4 b a dir timer = _ := place
  generalize hw : ({ s.takeSlot j (holdJob source 0#4 b a dir timer) with da := _ } : State) = w at accept
  have jm : w.jm = s.jm.take j (holdJob source 0#4 b a dir timer) := by rw [← hw]; rfl
  have still : w.Quiet := by rw [← hw]; exact quiet
  have scan : w.scan.jm = w.jm ∧ w.scan.raised = w.raised := by
    refine State.scan_hold (e := WaitEntry.mk a j 0 n 0 .hold dir .normal none)
      (x := holdJob source 0#4 b a dir timer) (by rw [← hw]) (by rw [← hw]; exact held) ?_ rfl (by rw [← hw]; exact room) (by rw [← hw]; exact calm) ?_ rfl
    · rw [← hw]
      exact State.terminalTest_passes drive open_ cool valid predicates
    · rw [jm]
      exact s.takeSlot_slot j _
  have fuel : Config.settleFuel = 3999 + 1 := rfl
  have settled : settle Config.settleFuel (w.emit [.scan]) = w.scan := by
    rw [fuel, settle_emit still rfl w.runTask_scan, State.emit_nil]
    exact settle_quiet (by unfold State.Quiet; rw [scan.2]; exact still) _
  rw [accept]
  have work : (w.emit [.scan]).settled.jm = s.jm.take j (holdJob source 0#4 b a dir timer) := (State.settled_jm settled).trans (scan.1.trans jm)
  exact State.conclude_jm work

end Machine
end Sys2Proof
end

section
/-! The pads' jobs stopped, released and stuck (R104, R105, R108, R179, R180), and the statement of all pad events. -/

namespace Sys2Proof
namespace Machine

/-! ## A pad's hold ended from outside -/

theorem State.haltJob_placed {s : State} (placed : s.jm.PadsPlaced) (j : Slot) (code : Code) (outcome : Option Code) : (s.haltJob j code outcome).jm.PadsPlaced := by
  by_cases going : ∃ x, s.jm.slots[j] = some x ∧ x.state = .active
  · obtain ⟨x, hx, active⟩ := going
    intro k y q hy own
    rw [State.haltJob_slots hx active] at hy
    split at hy
    next e =>
      cases hy
      subst e
      exact placed k x q hx own
    next => exact placed k y q hy own
  · rw [State.haltJob_ended (fun x hx e => going ⟨x, hx, e⟩)]
    exact placed

theorem State.endPadHold_hold {s : State} {p : Pad} (hold : ∀ x, s.jm.slots[padSlot p] = some x → x.kind = .hold) (code : Code) (outcome : Option Code) :
    s.endPadHold p code outcome = s.haltJob (padSlot p) code outcome := by
  unfold State.endPadHold
  split
  next x hx => exact if_pos (hold x hx)
  next free => exact (State.haltJob_ended (fun x hx => by rw [free] at hx; cases hx) code outcome).symm

theorem State.endPadHold_other {s : State} {p : Pad} (other : ∀ x, s.jm.slots[padSlot p] = some x → x.kind ≠ .hold) (code : Code) (outcome : Option Code) :
    s.endPadHold p code outcome = s := by
  unfold State.endPadHold
  split
  next x hx => exact if_neg (other x hx)
  next => rfl

theorem State.endPadHold_but {ok : Pad → Prop} (s : State) (p : Pad) (code : Code) (outcome : Option Code) : State.FollowsBut noAxis ok s (s.endPadHold p code outcome) := by
  unfold State.endPadHold
  split
  next =>
    split
    next => exact s.haltJob_but _ _ _
    next => exact .refl _ s
  next => exact .refl _ s

section
variable {s : State} (quiet : s.Quiet) {p : Pad} (code : Code) (outcome : Option Code)
include quiet

theorem State.haltPad_entries : Task.padEntry p ∉ (s.haltJob (padSlot p) code outcome).raised := by
  intro mem
  have early := (s.haltJob_but (ok := fun _ => True) (padSlot p) code outcome).rest.entries p mem
  rw [show s.raised = [] from quiet] at early
  cases early

variable {x : Job} (hx : s.jm.slots[padSlot p] = some x) (active : x.state = .active)
include hx active

/-- A pad's job that is halted drives nothing and is ACTIVE no more at the end of its event (R104, R109). -/
theorem State.haltPad_halts : (∀ (a : Axis) (m : Move), AxisSet.has x.claimed a = true → s.ac[a].move = some m → m.job = some (padSlot p) →
      s.ac[a].motion.stoppable = true → (s.haltJob (padSlot p) code outcome).conclude.ac[a].motion = .braking
        ∨ (s.haltJob (padSlot p) code outcome).conclude.ac[a].motion = .dwell)
    ∧ (x.source = .pad p → s.jm.PadsPlaced → (∃ y, (s.haltJob (padSlot p) code outcome).conclude.jm.slots[padSlot p] = some y ∧ y.state ≠ .active)
      ∨ ((s.haltJob (padSlot p) code outcome).conclude.jm.slots[padSlot p] = none
        ∧ ((s.haltJob (padSlot p) code outcome).conclude.jm.lastPad[padNo p]).isSome = true)) := by
  have follows := (s.haltJob (padSlot p) code outcome).conclude_follows
  refine ⟨fun a m claimed hm job moving => ?_, fun source placed => ?_⟩
  · have rest := State.haltJob_motion hx active claimed hm job moving code outcome
    rw [(follows.at_rest rest).motion]
    exact rest
  · have slot : (s.haltJob (padSlot p) code outcome).jm.slots[padSlot p] = some (Job.halted s (padSlot p) outcome x) := by
      rw [State.haltJob_slots hx active, if_pos rfl]
    rcases (follows.pads (State.haltJob_placed placed _ _ _) p (State.haltPad_entries quiet _ _)).job _ slot source with ⟨y, hy, goesOn, _⟩ | ⟨free, c, last, _⟩
    · exact .inl ⟨y, hy, goesOn.ended (fun h => by cases h)⟩
    · exact .inr ⟨free, by rw [last]; rfl⟩

theorem State.haltPad_ended (source : x.source = .pad p) (placed : s.jm.PadsPlaced) (c : Code) :
    (s.haltJob (padSlot p) code (some c)).conclude.PadEnded p x c := by
  refine (State.conclude_follows _).padEnded (State.haltJob_placed placed _ _ _) (State.haltPad_entries quiet _ _) (y := Job.halted s (padSlot p) (some c) x) ?_ source
    (fun h => by cases h) rfl
  rw [State.haltJob_slots hx active, if_pos rfl]

end

/-! ## The stop of every ACTIVE scene (R108) -/

theorem State.mem_activeScenes {s : State} {j : Slot} {x : Job} (mem : j ∈ s.activeScenes) (hx : s.jm.slots[j] = some x) : x.state = .active := by
  unfold State.activeScenes at mem
  have test := (List.mem_filter.1 mem).2
  rw [hx] at test
  exact beq_iff_eq.1 test

/-- The jobs that a press stops have ended at the end of its event, the pads' too (R105, R108, R109). -/
theorem State.stopJobs_end {s : State} (quiet : s.Quiet) {l : List Slot} {k : Slot} {x : Job} (mem : k ∈ l) (hx : s.jm.slots[k] = some x) (active : x.state = .active) :
    (∀ r, x.source = .partner r → (s.each l State.stopJob).conclude.JobEnded k x .stopped)
      ∧ ∀ q, x.source = .pad q → s.jm.PadsPlaced → (s.each l State.stopJob).conclude.PadEnded q x .stopped := by
  obtain ⟨⟨y, hy, ended, outcome, source⟩, _⟩ := State.stopJobs_get active l s mem hx
  have follows := (s.each l State.stopJob).conclude_follows
  refine ⟨fun r partner => follows.jobEnded hy (source.trans partner) ended outcome, fun q pad placed => ?_⟩
  have own : k = padSlot q := placed k x q hx pad
  subst own
  refine follows.padEnded (fun j z p hz own => ?_) (fun entry => ?_) hy (source.trans pad) ended outcome
  · obtain ⟨w, hw, same⟩ := State.stopJobs_source j l s z hz
    exact placed j w p hw (same.trans own)
  · have early := (State.stopJobs_but (ok := fun _ => True) l s).rest.entries q entry
    rw [show s.raised = [] from quiet] at early
    cases early

/-! ## A release and a stuck button -/

section
variable {s : State} {p : Pad} {b : Button} (awake : s.sp.power ≠ .park) (held : s.ps[padNo p].isPressed b = true)
include awake held

/-- A pad's record after the release of a button (R179). -/
def PadState.released (x : PadState) (b : Button) : PadState :=
  { cond := ({ x with pressed := x.pressed.filter (fun y => y.1 != b) } : PadState).release b, pressed := x.pressed.filter (fun y => y.1 != b) }

theorem State.padRelease_eq : s.padRelease p b = if (s.ps[padNo p].cond == .engaged b && b != .access) = true
    then (s.padSet p (s.ps[padNo p].released b)).endPadHold p .done none else s.padSet p (s.ps[padNo p].released b) := by
  have pad : (s.modPad p (fun x => { x with pressed := x.pressed.filter (fun y => y.1 != b) })).modPad p (fun x => { x with cond := x.release b })
      = s.padSet p (s.ps[padNo p].released b) := by
    rw [State.modPad_eq, State.modPad_eq, State.padSet_own, State.padSet_padSet]
    rfl
  unfold State.padRelease
  rw [if_neg (by rw [held]; simpa using awake)]
  dsimp only
  rw [pad]

theorem State.padSticks_engaged {c : Button} (engaged : s.ps[padNo p].cond = .engaged c) :
    s.padSticks p b = (s.padSet p { s.ps[padNo p] with cond := .stuck b }).endPadHold p .holdLost (some .holdLost) := by
  unfold State.padSticks
  rw [if_neg awake, if_neg (by rw [held]; decide)]
  dsimp only
  rw [engaged]
  rfl

theorem State.padSticks_other (stuck : ∀ c, s.ps[padNo p].cond ≠ .stuck c) (engaged : ∀ c, s.ps[padNo p].cond ≠ .engaged c) :
    s.padSticks p b = s.padSet p { s.ps[padNo p] with cond := .stuck b } := by
  unfold State.padSticks
  rw [if_neg awake, if_neg (by rw [held]; decide)]
  dsimp only
  split
  next c h => exact absurd h (stuck c)
  next c h => exact absurd h (engaged c)
  next => rfl

end

theorem PadState.release_eq (x : PadState) (b : Button) : (x.released b).cond = (match x.cond with
    | .free => .free
    | .waiting => if (x.pressed.filter (fun y => y.1 != b)).isEmpty then .free else .waiting
    | .engaged c => if c ≠ b then .engaged c else if (x.pressed.filter (fun y => y.1 != b)).isEmpty then .free else .waiting
    | .stuck c => if c ≠ b then .stuck c else if (x.pressed.filter (fun y => y.1 != b)).isEmpty then .free else .waiting) := by
  unfold PadState.released PadState.release
  cases x.cond with
  | free => rfl
  | waiting => rfl
  | engaged c =>
    dsimp only
    rw [ite_not]
    rfl
  | stuck c =>
    dsimp only
    rw [ite_not]
    rfl

/-- An event over a new record of one pad keeps every pad's buttons, and that pad's condition. -/
theorem State.padSet_concludes {s v : State} (quiet : s.Quiet) {p : Pad} {x : PadState}
    (but : State.FollowsBut noAxis (fun q => Task.padEntry q ∈ (s.padSet p x).raised) (s.padSet p x) v) :
    v.conclude.ps[padNo p].cond = x.cond ∧ ∀ q : Pad, v.conclude.ps[padNo q].pressed = if q = p then x.pressed else s.ps[padNo q].pressed := by
  have follows := but.concludes
  refine ⟨?_, fun q => ?_⟩
  · rcases follows.conds p with same | other
    · rw [same, State.padSet_own]
    · rw [show (s.padSet p x).raised = [] from quiet] at other
      cases other.1
  · rw [follows.pressed, State.padSet_get]
    split
    · rfl
    · rfl

end Machine

open Machine

/-- Settles O60: what a press counts, notes or stops, and the ends that a release and a stuck button make. -/
theorem padEvents : Obligations.PadEvents := by
  intro s p b quiet press freeHere halted became
  have still (x : PadState) : (s.padSet p x).Quiet := quiet
  have pressed (c : PadCond) : press c = s.padSet p (s.ps[padNo p].with c b) := rfl
  have counted (h : freeHere) : s.effect (.padButtonPress p b) = (press (.engaged b)).countPress p b := State.padPress_counts h.1 h.2.1 h.2.2
  have engaged : (press (.engaged b)).ps[padNo p].cond = .engaged b := by
    rw [pressed, State.padSet_own]
    rfl
  refine ⟨fun park w => ?_, fun awake held => ?_, fun when new => ?_, fun here calm service => ?_, fun a dir here calm open_ button => ?_,
    fun here calm open_ access => ?_, fun here scenes => ?_, fun awake held => ?_, fun unread => ?_, fun awake held unstuck => ?_⟩
  · rw [exec_eq, exec_eq]
    exact congrArg (fun u : State => Host.Outcome.next u.conclude) (if_pos park)
  · refine exec_ignored ((if_neg awake).trans (if_pos held)) quiet
  · refine exec_settles (State.padPress_notes ?_ new ?_) (still _)
    · rcases when with power | ⟨power, _⟩
      · rw [power]; decide
      · rw [power]; decide
    · exact when.imp (fun power => by rw [power]; decide) (fun h => h.2)
  · exact exec_settles ((counted here).trans (State.countPress_service (s := press (.engaged b)) calm service)) (still (s.ps[padNo p].with (.engaged b) b))
  · have effect := (counted here).trans (State.countPress_hold (s := press (.engaged b)) calm button)
    refine ⟨_, exec_eq _ s, fun e check => ?_, fun check busy => ?_, fun check free => ?_⟩
    · rw [effect, State.padHold_refused (s := press (.engaged b)) open_ check]
      exact State.conclude_settles (s := (press (.engaged b)).setLastPad p (some e.code)) quiet
    · rw [effect, State.padHold_noSlot (s := press (.engaged b)) open_ check busy]
      exact State.conclude_settles (s := (press (.engaged b)).setLastPad p (some .noSlot)) quiet
    · rw [effect, State.padHold_accepted (s := press (.engaged b)) open_ check free]
      obtain ⟨follows, cond, stands⟩ := State.acceptedPad (u := press (.engaged b)) (v := (press (.engaged b)).acceptHold (padSlot p) (.pad p) 0#4 (some b) a dir .stopped)
        (x := holdJob (.pad p) 0#4 (some b) a dir .stopped) (State.place_but ..) quiet rfl
      refine ⟨follows, ⟨cond.trans engaged, fun placed => ?_⟩, fun drive cool wait unheld calm' => ?_⟩
      · refine (stands placed).imp (fun ⟨y, hy, goesOn, job⟩ => ?_) id
        obtain ⟨cls, source, _, kind, _, _, claimed⟩ := goesOn.record
        exact ⟨y, hy, source, cls, kind, claimed, goesOn.plan, job⟩
      · obtain ⟨slots, claims, attended⟩ := State.acceptHold_goesOn (s := press (.engaged b)) (j := padSlot p) (source := .pad p)
          (b := some b) (timer := .stopped) quiet check drive cool wait unheld calm'
        obtain ⟨owns, lists, _⟩ := JobManager.take_stands s.jm (padSlot p) (holdJob (.pad p) 0#4 (some b) a dir .stopped)
        refine ⟨holdJob (.pad p) 0#4 (some b) a dir .stopped, ?_, rfl, rfl, rfl, rfl, rfl, rfl, ?_, ?_⟩
        · rw [slots]
          exact s.takeSlot_slot _ _
        · rw [claims]
          exact owns a ((by decide : ∀ c : Axis, AxisSet.has (AxisSet.one c) c = true) a)
        · rw [attended]
          exact lists rfl
  · subst access
    have effect := (counted here).trans (State.countPress_access (s := press (.engaged .access)) calm (padMove_access p))
    refine ⟨_, exec_eq _ s, fun e check => ?_, fun x check => ⟨fun busy => ?_, fun free => ?_⟩⟩
    · rw [effect, State.padAccess_refused (s := press (.engaged .access)) open_ check]
      exact State.conclude_settles (s := (press (.engaged .access)).setLastPad p (some e.code)) quiet
    · rw [effect, State.padAccess_noSlot (s := press (.engaged .access)) open_ check busy]
      exact State.conclude_settles (s := (press (.engaged .access)).setLastPad p (some .noSlot)) quiet
    · rw [effect, State.padAccess_accepted (s := press (.engaged .access)) open_ check free]
      obtain ⟨follows, cond, stands⟩ := State.acceptedPad (u := press (.engaged .access))
        (State.acceptRun_but _ (padSlot p) (.pad p) 0#4 (some .access) x) quiet rfl
      refine ⟨follows, cond.trans engaged, fun placed => ?_⟩
      refine (stands placed).imp (fun ⟨y, hy, goesOn, job⟩ => ?_) id
      obtain ⟨cls, source, _, kind, _, _, claimed⟩ := goesOn.record
      refine ⟨y, hy, source, cls, kind, claimed, goesOn.plan.trans ?_, job⟩
      show some (x.number, x.rows.map Row.plan) = _
      unfold Arrangement.rows
      rw [List.map_map]
      rfl
  · have effect := (counted here).trans (State.countPress_stops (s := press (.engaged b)) p b scenes)
    have but := State.stopJobs_but (ok := fun q => Task.padEntry q ∈ (press (.engaged b)).raised) s.activeScenes (press (.engaged b))
    have run : exec (.padButtonPress p b) s = .next ((press (.engaged b)).each s.activeScenes State.stopJob).conclude := (exec_eq _ s).trans (by rw [effect]; rfl)
    exact ⟨_, run, but.concludes, (State.padSet_concludes quiet but).1, fun j mem x hx => State.stopJobs_end (s := press (.engaged b)) quiet mem hx (State.mem_activeScenes mem hx)⟩
  · have effect : s.effect (.padButtonRelease p b) = _ := State.padRelease_eq awake held
    refine ⟨_, exec_eq _ s, ?_⟩
    rw [effect]
    have but : State.FollowsBut noAxis (fun q => Task.padEntry q ∈ (s.padSet p (s.ps[padNo p].released b)).raised) (s.padSet p (s.ps[padNo p].released b))
        (if (s.ps[padNo p].cond == .engaged b && b != .access) = true then (s.padSet p (s.ps[padNo p].released b)).endPadHold p .done none
          else s.padSet p (s.ps[padNo p].released b)) := by
      split
      · exact State.endPadHold_but ..
      · exact .refl _ _
    obtain ⟨cond, buttons⟩ := State.padSet_concludes quiet but
    refine ⟨buttons, cond.trans (PadState.release_eq ..), fun own hold kinds x hx active => ?_, fun other => ?_⟩
    · rw [if_pos (by rw [own]; simpa using hold), State.endPadHold_hold (s := s.padSet p (s.ps[padNo p].released b)) kinds]
      exact State.haltPad_halts (still _) .done none hx active
    · rw [if_neg (fun h => other (beq_iff_eq.1 (Bool.and_eq_true _ _ ▸ h : _ ∧ _).1))]
      have settles := State.conclude_settles (still (s.ps[padNo p].released b))
      exact ⟨settles.ac.symm, settles.slots.symm⟩
  · refine exec_ignored (if_pos ?_) quiet
    rcases unread with park | unpressed
    · rw [park]
      rfl
    · rw [unpressed, Bool.not_false, Bool.or_true]
  · have effect : ∃ u, s.effect (.padStuck p b) = u ∧ State.FollowsBut noAxis (fun q => Task.padEntry q ∈ (s.padSet p { s.ps[padNo p] with cond := .stuck b }).raised)
        (s.padSet p { s.ps[padNo p] with cond := .stuck b }) u
        ∧ (∀ c, s.ps[padNo p].cond = .engaged c → u = (s.padSet p { s.ps[padNo p] with cond := .stuck b }).endPadHold p .holdLost (some .holdLost))
        ∧ ((∀ c, s.ps[padNo p].cond ≠ .engaged c) → u = s.padSet p { s.ps[padNo p] with cond := .stuck b }) := by
      by_cases holds : ∃ c, s.ps[padNo p].cond = .engaged c
      · obtain ⟨c, hc⟩ := holds
        exact ⟨_, State.padSticks_engaged awake held hc, State.endPadHold_but .., fun _ _ => rfl, fun none => absurd hc (none c)⟩
      · have none : ∀ c, s.ps[padNo p].cond ≠ .engaged c := fun c hc => holds ⟨c, hc⟩
        exact ⟨_, State.padSticks_other awake held unstuck none, .refl _ _, fun c hc => absurd hc (none c), fun _ => rfl⟩
    obtain ⟨u, effect, but, reports, rests⟩ := effect
    refine ⟨u.conclude, (exec_eq _ s).trans (by rw [effect]), (State.padSet_concludes quiet but).1, fun c hc kinds => ?_, fun other => ?_⟩
    · rw [reports c hc, State.endPadHold_hold (s := s.padSet p { s.ps[padNo p] with cond := .stuck b }) kinds]
      exact ⟨fun x hx active => State.haltPad_halts (still _) _ _ hx active, fun x hx active source placed => State.haltPad_ended (still _) _ hx active source placed _⟩
    · have same : u = s.padSet p { s.ps[padNo p] with cond := .stuck b } := by
        by_cases holds : ∃ c, s.ps[padNo p].cond = .engaged c
        · obtain ⟨c, hc⟩ := holds
          rw [reports c hc]
          exact State.endPadHold_other (s := s.padSet p { s.ps[padNo p] with cond := .stuck b }) (other.resolve_left (fun none => none c hc)) _ _
        · exact rests (fun c hc => holds ⟨c, hc⟩)
      rw [same]
      exact State.conclude_settles (still _)

end Sys2Proof
end

section
/-! The LEARNED area (10.4, 10.5 and table 16 of 13): the bytes that the park write and the marker write leave, and what a load reads of them. -/

namespace Sys2Proof
namespace Machine

/-! ## The store read as a function of its addresses -/

/-- The bytes of an area of the store. -/
def areaOf (m : List Host.Cell) (off len : Nat) : List Byte := (List.range len).map (fun i => memRead m (off + i))

theorem areaOf_length (m : List Host.Cell) (off len : Nat) : (areaOf m off len).length = len := by simp [areaOf]

theorem areaOf_congr {m m' : List Host.Cell} {off len : Nat} (same : ∀ i, i < len → memRead m (off + i) = memRead m' (off + i)) : areaOf m off len = areaOf m' off len :=
  List.map_congr_left (fun i hi => same i (List.mem_range.1 hi))

theorem areaOf_succ (m : List Host.Cell) (off n : Nat) : areaOf m off (n + 1) = areaOf m off n ++ [memRead m (off + n)] := by
  simp [areaOf, List.range_succ]

theorem areaOf_cons (m : List Host.Cell) (off n : Nat) : areaOf m off (n + 1) = memRead m off :: areaOf m (off + 1) n := by
  unfold areaOf
  rw [List.range_succ_eq_map, List.map_cons, List.map_map]
  refine congrArg (memRead m off :: ·) (List.map_congr_left (fun i _ => ?_))
  exact congrArg (memRead m) (show off + (i + 1) = off + 1 + i by omega)

theorem byteAt_areaOf (m : List Host.Cell) (off : Nat) {len i : Nat} (below : i < len) : byteAt (areaOf m off len) i = (memRead m (off + i)).toNat := by
  simp [byteAt, areaOf, below]

/-- The walk of `memBytes` over a canonical list reads the area's bytes. -/
theorem memBytes_of_wf : ∀ (n a : Nat) (m : List Host.Cell), Memory.wfFrom a m = true → memBytes n a m = areaOf m a n
  | 0, _, _, _ => rfl
  | n + 1, a, [], _ => by
    rw [areaOf_cons, memBytes, memBytes_of_wf n (a + 1) [] rfl]
    rfl
  | n + 1, a, (k, v) :: rest, wf => by
    have parts := wf
    simp only [Memory.wfFrom, Bool.and_eq_true, decide_eq_true_eq] at parts
    obtain ⟨⟨⟨above, bound⟩, written⟩, tail⟩ := parts
    rw [areaOf_cons]
    unfold memBytes
    split
    next here =>
      subst here
      rw [memBytes_of_wf n (k + 1) rest tail, show memRead ((k, v) :: rest) k = v from if_pos rfl]
      refine congrArg (v :: ·) (areaOf_congr (fun i _ => ?_))
      exact (if_neg (by omega)).symm
    next gap =>
      have later : Memory.wfFrom (a + 1) ((k, v) :: rest) = true := by
        simp only [Memory.wfFrom, Bool.and_eq_true, decide_eq_true_eq]
        exact ⟨⟨⟨by omega, bound⟩, written⟩, tail⟩
      rw [memBytes_of_wf n (a + 1) _ later, memRead_below later (Nat.lt_succ_self a)]

theorem wfFrom_filter (a : Nat) : ∀ (m : List Host.Cell) (lo : Nat), Memory.wfFrom lo m = true →
    Memory.wfFrom (max lo a) (m.filter (fun c => decide (a ≤ c.1))) = true
  | [], _, _ => rfl
  | (k, v) :: rest, lo, wf => by
    simp only [Memory.wfFrom, Bool.and_eq_true, decide_eq_true_eq] at wf
    obtain ⟨⟨⟨above, bound⟩, written⟩, tail⟩ := wf
    have later := wfFrom_filter a rest (k + 1) tail
    by_cases kept : a ≤ k
    · rw [List.filter_cons_of_pos (by simpa using kept)]
      simp only [Memory.wfFrom, Bool.and_eq_true, decide_eq_true_eq]
      rw [Nat.max_eq_left (by omega)] at later
      exact ⟨⟨⟨Nat.max_le.2 ⟨above, kept⟩, bound⟩, written⟩, later⟩
    · rw [List.filter_cons_of_neg (by simpa using kept)]
      rw [Nat.max_eq_right (by omega)] at later
      rw [Nat.max_eq_right (by omega)]
      exact later

theorem memRead_filter {a x : Nat} (above : a ≤ x) : ∀ m : List Host.Cell, memRead (m.filter (fun c => decide (a ≤ c.1))) x = memRead m x
  | [] => rfl
  | (k, v) :: rest => by
    by_cases kept : a ≤ k
    · rw [List.filter_cons_of_pos (by simpa using kept)]
      unfold memRead
      rw [memRead_filter above rest]
    · rw [List.filter_cons_of_neg (by simpa using kept), memRead_filter above rest]
      exact (if_neg (by omega)).symm

/-- What the two writes add up is the area as it then stands (R195). -/
theorem memBytes_area {m : List Host.Cell} (good : Memory.wf m = true) (n off : Nat) :
    memBytes n off (m.filter (fun c => decide (off ≤ c.1))) = areaOf m off n := by
  have wf := wfFrom_filter off m 0 good
  rw [Nat.zero_max] at wf
  rw [memBytes_of_wf n off _ wf]
  exact areaOf_congr (fun i _ => memRead_filter (Nat.le_add_right off i) m)

/-! ## Writes -/

theorem memWriteAll_append : ∀ (l k : List (Nat × Byte)) (m : List Host.Cell), memWriteAll m (l ++ k) = memWriteAll (memWriteAll m l) k
  | [], _, _ => rfl
  | (a, b) :: l, k, m => memWriteAll_append l k (memWrite m a b)

theorem mem_addressed : ∀ (l : List Byte) (a : Nat) (c : Nat × Byte), c ∈ addressed a l → a ≤ c.1 ∧ c.1 < a + l.length
  | [], _, _, h => absurd h List.not_mem_nil
  | b :: l, a, c, h => by
    rw [List.length_cons]
    rcases List.mem_cons.1 h with rfl | later
    · exact ⟨Nat.le_refl _, by dsimp only; omega⟩
    · have := mem_addressed l (a + 1) c later
      omega

theorem addressed_length : ∀ (l : List Byte) (a : Nat), (addressed a l).length = l.length
  | [], _ => rfl
  | _ :: l, a => congrArg (· + 1) (addressed_length l (a + 1))

theorem memRead_addressed : ∀ (l : List Byte) (a : Nat) {m : List Host.Cell}, Memory.wf m = true → a + l.length ≤ 2048 → ∀ x,
    memRead (memWriteAll m (addressed a l)) x = if a ≤ x ∧ x < a + l.length then l.getD (x - a) 0#8 else memRead m x
  | [], a, m, _, _, x => by
    rw [if_neg (by rw [List.length_nil]; omega)]
    rfl
  | b :: l, a, m, good, room, x => by
    rw [List.length_cons] at room ⊢
    have here : a < Config.storeBytes := by unfold Config.storeBytes; omega
    rw [show memWriteAll m (addressed a (b :: l)) = memWriteAll (memWrite m a b) (addressed (a + 1) l) from rfl,
      memRead_addressed l (a + 1) (memWrite_wf a b good) (by omega), memRead_memWrite good here]
    by_cases own : x = a
    · subst own
      rw [if_neg (by omega), if_pos rfl, if_pos (by omega), Nat.sub_self]
      rfl
    · rw [if_neg own]
      by_cases later : a + 1 ≤ x ∧ x < a + 1 + l.length
      · rw [if_pos later, if_pos (by omega), show x - a = (x - (a + 1)) + 1 by omega]
        rfl
      · rw [if_neg later, if_neg (by omega)]

/-! ## The checksum -/

theorem byteSum_concat (l : List Byte) (b : Byte) : byteSum (l ++ [b]) = byteSum l + b := by simp [byteSum]

/-- An area whose last byte is what its others want of 0 has its sum at 0 (R195). -/
theorem byteSum_sealed {m : List Host.Cell} {off n : Nat} (last : memRead m (off + n) = 0#8 - byteSum (areaOf m off n)) : byteSum (areaOf m off (n + 1)) = 0#8 := by
  rw [areaOf_succ, byteSum_concat, last]
  generalize byteSum (areaOf m off n) = b
  bv_omega

theorem parseLearned_sealed {m : List Host.Cell} {off len : Nat} (room : 79 ≤ len) (sum : byteSum (areaOf m off len) = 0#8) :
    parseLearned (areaOf m off len) = some { axis := #v[0, 1, 2, 3, 4, 5, 6].map (parseLearnedAxis (areaOf m off len)), marker := (memRead m (off + (len - 2))).toNat == 1 } := by
  unfold parseLearned
  rw [areaOf_length, sum, if_neg (by simpa using room), byteAt_areaOf m off (by omega)]

theorem parseLearned_marker {m : List Host.Cell} {off len : Nat} (room : 79 ≤ len) {x : LearnedCopy} (parsed : parseLearned (areaOf m off len) = some x) :
    x.marker = ((memRead m (off + (len - 2))).toNat == 1) := by
  unfold parseLearned at parsed
  split at parsed
  next => cases parsed
  next =>
    cases parsed
    rw [areaOf_length, byteAt_areaOf m off (by omega)]

/-! ## The content of an axis (table 16 of 13) -/

theorem State.learnedBytes_length (s : State) (a : Axis) : (s.learnedBytes a).length = 11 := rfl

theorem flatMap_getD {α : Type} {n : Nat} {f : α → List Byte} (long : ∀ x, (f x).length = n) : ∀ (l : List α) (i k : Nat) (x : α), l[i]? = some x → k < n →
    (l.flatMap f).getD (n * i + k) 0#8 = (f x).getD k 0#8
  | [], _, _, _, h, _ => by simp at h
  | y :: l, 0, k, x, h, below => by
    cases h
    rw [List.flatMap_cons, Nat.mul_zero, Nat.zero_add]
    rw [List.getD_eq_getElem?_getD, List.getElem?_append_left (by rw [long]; exact below), List.getD_eq_getElem?_getD]
  | y :: l, i + 1, k, x, h, below => by
    rw [List.flatMap_cons, List.getD_eq_getElem?_getD, List.getElem?_append_right (by rw [long, Nat.mul_succ]; omega), long,
      show n * (i + 1) + k - n = n * i + k by rw [Nat.mul_succ]; omega, ← List.getD_eq_getElem?_getD]
    exact flatMap_getD long l i k x (by simpa using h) below

/-- The content of the seven axes. -/
def State.learnedContent (s : State) : List Byte := axes.flatMap s.learnedBytes

theorem State.learnedContent_length (s : State) : s.learnedContent.length = 77 := rfl

theorem State.learnedContent_get (s : State) (a : Axis) {k : Nat} (below : k < 11) : s.learnedContent.getD (11 * a.val + k) 0#8 = (s.learnedBytes a).getD k 0#8 :=
  flatMap_getD s.learnedBytes_length axes a.val k a (by revert a; decide) below

/-- What LEARNED keeps of an axis (R195). -/
def State.learnedOf (s : State) (a : Axis) : LearnedAxis where
  position := s.ac[a].position
  validity := s.validity[a].code
  ilr := s.ac[a].ilr
  coast := s.ac[a].coast
  marginTrim := s.ac[a].marginTrim
  timeoutTrim := s.ac[a].timeoutTrim
  heat := s.tw[a].heat
  moves := s.tw[a].moves

/-- A load reads an axis's values back from its eleven bytes (R195). -/
theorem parseLearnedAxis_reads {s : State} (ranges : s.ChannelsGood) {a : Axis} (wear : s.tw[a].heat ≤ 65535 ∧ s.tw[a].moves ≤ 16777215) {bs : List Byte}
    (bytes : ∀ k, k < 11 → byteAt bs (11 * a.val + k) = ((s.learnedBytes a).getD k 0#8).toNat) :
    parseLearnedAxis bs a.val = s.learnedOf a := by
  obtain ⟨position, _, _, ilr, coast, margin, timeout, _⟩ := ranges a
  obtain ⟨heat, moves⟩ := wear
  have code : s.validity[a].code ≤ 2 := by cases s.validity[a] <;> decide
  have b0 : byteAt bs (11 * a.val) = s.ac[a].position / 256 % 256 := bytes 0 (by decide)
  have b1 : byteAt bs (11 * a.val + 1) = s.ac[a].position % 256 := bytes 1 (by decide)
  have b2 : byteAt bs (11 * a.val + 2) = s.validity[a].code % 256 := bytes 2 (by decide)
  have b3 : byteAt bs (11 * a.val + 3) = s.ac[a].ilr % 256 := bytes 3 (by decide)
  have b4 : byteAt bs (11 * a.val + 4) = s.ac[a].coast % 256 := bytes 4 (by decide)
  have b5 : byteAt bs (11 * a.val + 5) = (16 * s.ac[a].marginTrim + s.ac[a].timeoutTrim) % 256 := bytes 5 (by decide)
  have b6 : byteAt bs (11 * a.val + 6) = s.tw[a].heat / 256 % 256 := bytes 6 (by decide)
  have b7 : byteAt bs (11 * a.val + 7) = s.tw[a].heat % 256 := bytes 7 (by decide)
  have b8 : byteAt bs (11 * a.val + 8) = s.tw[a].moves / 65536 % 256 := bytes 8 (by decide)
  have b9 : byteAt bs (11 * a.val + 9) = s.tw[a].moves / 256 % 256 := bytes 9 (by decide)
  have b10 : byteAt bs (11 * a.val + 10) = s.tw[a].moves % 256 := bytes 10 (by decide)
  unfold parseLearnedAxis tripleAt wordAt State.learnedOf
  simp only [Nat.add_assoc, Nat.reduceAdd, b0, b1, b2, b3, b4, b5, b6, b7, b8, b9, b10, LearnedAxis.mk.injEq]
  refine ⟨by omega, by omega, by omega, by omega, by omega, by omega, by omega, by omega⟩

end Machine
end Sys2Proof
end

section
/-! The park write and the marker write (10.4, 10.5): the store after each, and after a park write that is cut off. -/

namespace Sys2Proof
namespace Machine

/-- A load finds LEARNED in an area: its sum is 0 and it holds every axis's values, with this marker (R184, R195). -/
def State.LearnedIn (s : State) (m : List Host.Cell) (off len : Nat) (marker : Bool) : Prop :=
  ∃ x, parseLearned (areaOf m off len) = some x ∧ x.marker = marker ∧ ∀ a : Axis, x.axis[a] = s.learnedOf a

theorem learnedAxes_get (f : Nat → LearnedAxis) (a : Axis) : (#v[0, 1, 2, 3, 4, 5, 6].map f)[a] = f a.val := by
  have place : ∀ a : Axis, (#v[0, 1, 2, 3, 4, 5, 6] : Vector Nat 7)[a] = a.val := by decide
  rw [Fin.getElem_fin, Vector.getElem_map]
  exact congrArg f (place a)

section
variable {s : State} {off len : Nat} (good : Memory.wf s.st.memory = true) (ranges : s.ChannelsGood)
  (wear : ∀ a : Axis, s.tw[a].heat ≤ 65535 ∧ s.tw[a].moves ≤ 16777215) (area : s.st.learnedArea = some (off, len)) (room : 79 ≤ len) (inside : off + len ≤ 2048)

include ranges wear room in
theorem State.learnedIn_of_content {m : List Host.Cell} (sum : byteSum (areaOf m off len) = 0#8)
    (content : ∀ i, i < 77 → memRead m (off + i) = s.learnedContent.getD i 0#8) : s.LearnedIn m off len ((memRead m (off + (len - 2))).toNat == 1) := by
  refine ⟨_, parseLearned_sealed room sum, rfl, fun a => ?_⟩
  rw [learnedAxes_get]
  refine parseLearnedAxis_reads ranges (wear a) (fun k below => ?_)
  have last := a.isLt
  rw [byteAt_areaOf m off (by omega), content _ (by omega), s.learnedContent_get a below]

/-! ## The park write (R166) -/

/-- The store with the content and the marker at 1, as the park write's checksum sees it. -/
def State.parkContent (s : State) (off len : Nat) : List Host.Cell := memWrite (memWriteAll s.st.memory (addressed off s.learnedContent)) (off + len - 2) 1#8

/-- The checksum of the park write (R195). -/
def State.parkSum (s : State) (off len : Nat) : Byte := 0#8 - byteSum (areaOf (s.parkContent off len) off (len - 1))

include good area room in
theorem State.parkBytes_eq : s.parkBytes = (off + len - 2, 0#8) :: ((off + len - 1, s.parkSum off len) :: (addressed off s.learnedContent
    ++ [(off + len - 2, 1#8), (off + len - 1, s.parkSum off len)])) := by
  have whole : (axes.flatMap s.learnedBytes).take (len - 2) = s.learnedContent :=
    List.take_of_length_le (by rw [show (axes.flatMap s.learnedBytes).length = 77 from s.learnedContent_length]; omega)
  unfold State.parkBytes
  rw [area]
  dsimp only
  rw [whole, memBytes_area (memWrite_wf _ _ (memWriteAll_wf _ good))]
  rfl

include good inside room in
/-- The content and the marker at 1 over any store that has the area's bytes yet to be written. -/
theorem State.read_content {m : List Host.Cell} (wf : Memory.wf m = true) {x : Nat} (same : memRead m x = memRead s.st.memory x) :
    memRead (memWriteAll m (addressed off s.learnedContent)) x = memRead (memWriteAll s.st.memory (addressed off s.learnedContent)) x := by
  have fits : off + s.learnedContent.length ≤ 2048 := by rw [s.learnedContent_length]; omega
  rw [memRead_addressed _ _ wf fits, memRead_addressed _ _ good fits, same]

include good area room inside

theorem State.parked_read (x : Nat) : memRead (memWriteAll s.st.memory s.parkBytes) x = if x = off + len - 1 then s.parkSum off len
    else memRead (s.parkContent off len) x := by
  have marker : off + len - 2 < Config.storeBytes := by unfold Config.storeBytes; omega
  have sum : off + len - 1 < Config.storeBytes := by unfold Config.storeBytes; omega
  have first := memWrite_wf (off + len - 2) 0#8 good
  have begun := memWrite_wf (off + len - 1) (s.parkSum off len) first
  have filled := memWriteAll_wf (addressed off s.learnedContent) begun
  rw [State.parkBytes_eq good area room]
  show memRead (memWriteAll (memWrite (memWrite s.st.memory _ _) _ _) (_ ++ _)) x = _
  rw [memWriteAll_append]
  show memRead (memWrite (memWrite _ _ _) _ _) x = _
  rw [memRead_memWrite (memWrite_wf _ _ filled) sum, memRead_memWrite filled marker, State.parkContent,
    memRead_memWrite (memWriteAll_wf _ good) marker]
  by_cases last : x = off + len - 1
  · rw [if_pos last, if_pos last]
  · rw [if_neg last, if_neg last]
    by_cases own : x = off + len - 2
    · rw [if_pos own, if_pos own]
    · rw [if_neg own, if_neg own]
      refine State.read_content good room inside begun ?_
      rw [memRead_memWrite first sum, if_neg last, memRead_memWrite good marker, if_neg own]

omit area in
theorem State.parkContent_read (x : Nat) : memRead (s.parkContent off len) x = if x = off + len - 2 then 1#8
    else if off ≤ x ∧ x < off + 77 then s.learnedContent.getD (x - off) 0#8 else memRead s.st.memory x := by
  have marker : off + len - 2 < Config.storeBytes := by unfold Config.storeBytes; omega
  rw [State.parkContent, memRead_memWrite (memWriteAll_wf _ good) marker, memRead_addressed _ _ good (by rw [s.learnedContent_length]; omega), s.learnedContent_length]

theorem State.parked_content {i : Nat} (below : i < 77) : memRead (memWriteAll s.st.memory s.parkBytes) (off + i) = s.learnedContent.getD i 0#8 := by
  rw [State.parked_read good area room inside, if_neg (by omega), State.parkContent_read good room inside, if_neg (by omega), if_pos (by omega), Nat.add_sub_cancel_left]

theorem State.parked_outside {k : Nat} (outside : k < off ∨ off + len ≤ k) : memRead (memWriteAll s.st.memory s.parkBytes) k = memRead s.st.memory k := by
  rw [State.parked_read good area room inside, if_neg (by omega), State.parkContent_read good room inside, if_neg (by omega), if_neg (by omega)]

include ranges wear in
theorem State.parked_learnedIn : s.LearnedIn (memWriteAll s.st.memory s.parkBytes) off len true := by
  have others : areaOf (memWriteAll s.st.memory s.parkBytes) off (len - 1) = areaOf (s.parkContent off len) off (len - 1) :=
    areaOf_congr (fun i below => by rw [State.parked_read good area room inside, if_neg (by omega)])
  have sum : byteSum (areaOf (memWriteAll s.st.memory s.parkBytes) off (len - 1 + 1)) = 0#8 := byteSum_sealed (by
    rw [others, State.parked_read good area room inside, if_pos (by omega)]
    rfl)
  rw [Nat.sub_add_cancel (by omega)] at sum
  have learned := State.learnedIn_of_content ranges wear room sum (fun i below => State.parked_content good area room inside below)
  rw [State.parked_read good area room inside, if_neg (by omega), State.parkContent_read good room inside, if_pos (by omega)] at learned
  exact learned

/-- Cut off after its first byte and before its last two, the park write leaves the marker at 0 (R166). -/
theorem State.cut_marker {k : Nat} (begun : 1 ≤ k) (short : k ≤ s.parkBytes.length - 2) :
    memRead (memWriteAll s.st.memory (s.parkBytes.take k)) (off + len - 2) = 0#8 := by
  have marker : off + len - 2 < Config.storeBytes := by unfold Config.storeBytes; omega
  obtain ⟨n, rfl⟩ := Nat.exists_eq_add_of_le' begun
  rw [State.parkBytes_eq good area room] at short ⊢
  simp only [List.length_cons, List.length_append, List.length_nil, addressed_length] at short
  have taken : ((off + len - 1, s.parkSum off len) :: (addressed off s.learnedContent ++ [(off + len - 2, 1#8), (off + len - 1, s.parkSum off len)])).take n
      = ((off + len - 1, s.parkSum off len) :: addressed off s.learnedContent).take n := by
    rw [← List.cons_append]
    exact List.take_append_of_le_length (by rw [List.length_cons, addressed_length]; omega)
  rw [List.take_succ_cons, taken]
  show memRead (memWriteAll (memWrite s.st.memory _ _) _) _ = _
  rw [memRead_memWriteAll _ (memWrite_wf _ _ good) (fun c hc => ?_), memRead_memWrite good marker, if_pos rfl]
  rcases List.mem_cons.1 (List.mem_of_mem_take hc) with rfl | content
  · show off + len - 1 ≠ off + len - 2
    omega
  · have bounds := mem_addressed _ _ _ content
    rw [s.learnedContent_length] at bounds
    omega

end

/-! ## The marker write (R168) -/

section
variable {st : StoreCtl} {off len : Nat} (good : Memory.wf st.memory = true) (area : st.learnedArea = some (off, len)) (room : 79 ≤ len) (inside : off + len ≤ 2048)
include good area room inside

omit room inside in
theorem StoreCtl.markerBytes_eq : st.markerBytes = [(off + len - 4, memRead st.memory (off + len - 4)), (off + len - 3, memRead st.memory (off + len - 3)),
    (off + len - 2, 0#8), (off + len - 1, 0#8 - byteSum (areaOf (memWrite st.memory (off + len - 2) 0#8) off (len - 1)))] := by
  unfold StoreCtl.markerBytes
  rw [area]
  dsimp only
  rw [memBytes_area (memWrite_wf _ _ good)]

/-- The marker write changes the marker and the checksum alone. -/
theorem StoreCtl.marked_read (x : Nat) : memRead (memWriteAll st.memory st.markerBytes) x
    = if x = off + len - 1 then 0#8 - byteSum (areaOf (memWrite st.memory (off + len - 2) 0#8) off (len - 1))
      else memRead (memWrite st.memory (off + len - 2) 0#8) x := by
  have within (n : Nat) (below : n < off + len) : n < Config.storeBytes := by unfold Config.storeBytes; omega
  have one := memWrite_wf (off + len - 4) (memRead st.memory (off + len - 4)) good
  have two := memWrite_wf (off + len - 3) (memRead st.memory (off + len - 3)) one
  have three := memWrite_wf (off + len - 2) 0#8 two
  rw [StoreCtl.markerBytes_eq good area]
  show memRead (memWrite (memWrite (memWrite (memWrite _ _ _) _ _) _ _) _ _) x = _
  rw [memRead_memWrite three (within _ (by omega)), memRead_memWrite two (within _ (by omega)), memRead_memWrite one (within _ (by omega)),
    memRead_memWrite good (within _ (by omega)), memRead_memWrite good (within _ (by omega))]
  by_cases third : x = off + len - 3
  · subst third
    rw [if_pos rfl]
  · rw [if_neg third]
    by_cases fourth : x = off + len - 4
    · subst fourth
      rw [if_pos rfl]
    · rw [if_neg fourth]

theorem StoreCtl.marked_sum : byteSum (areaOf (memWriteAll st.memory st.markerBytes) off len) = 0#8 := by
  have others : areaOf (memWriteAll st.memory st.markerBytes) off (len - 1) = areaOf (memWrite st.memory (off + len - 2) 0#8) off (len - 1) :=
    areaOf_congr (fun i below => by rw [StoreCtl.marked_read good area room inside, if_neg (by omega)])
  have sum : byteSum (areaOf (memWriteAll st.memory st.markerBytes) off (len - 1 + 1)) = 0#8 := byteSum_sealed (by
    rw [others, StoreCtl.marked_read good area room inside, if_pos (by omega)])
  rwa [Nat.sub_add_cancel (by omega)] at sum

theorem StoreCtl.marked_marker : memRead (memWriteAll st.memory st.markerBytes) (off + (len - 2)) = 0#8 := by
  rw [StoreCtl.marked_read good area room inside, if_neg (by omega), memRead_memWrite good (by unfold Config.storeBytes; omega), if_pos (by omega)]

theorem StoreCtl.marked_content {i : Nat} (below : i < 77) : memRead (memWriteAll st.memory st.markerBytes) (off + i) = memRead st.memory (off + i) := by
  rw [StoreCtl.marked_read good area room inside, if_neg (by omega), memRead_memWrite good (by unfold Config.storeBytes; omega), if_neg (by omega)]

end

/-- What LEARNED keeps of an axis, value by value. -/
theorem State.learnedOf_reads {s : State} {x : LearnedCopy} (axes : ∀ a : Axis, x.axis[a] = s.learnedOf a) (a : Axis) :
    x.axis[a].position = s.ac[a].position ∧ x.axis[a].validity = s.validity[a].code ∧ x.axis[a].ilr = s.ac[a].ilr ∧ x.axis[a].coast = s.ac[a].coast
      ∧ x.axis[a].marginTrim = s.ac[a].marginTrim ∧ x.axis[a].timeoutTrim = s.ac[a].timeoutTrim ∧ x.axis[a].heat = s.tw[a].heat
      ∧ x.axis[a].moves = s.tw[a].moves := by
  rw [axes a]
  exact ⟨rfl, rfl, rfl, rfl, rfl, rfl, rfl, rfl⟩

end Machine

open Machine

/-- Settles O57: the area's bytes after each write, and the marker that a cut-off park write leaves. -/
theorem parkKeepsWhatItWrote : Obligations.ParkKeepsWhatItWrote := by
  intro s off len good ranges wear learned room inside area parked kept
  have wf : Memory.wf parked = true := memWriteAll_wf _ good
  have content (i : Nat) (below : i < 77) := State.parked_content good learned room inside below
  refine ⟨?_, ?_, fun k outside => State.parked_outside good learned room inside outside,
    fun k begun short => ⟨State.cut_marker good learned room inside begun short, fun x parsed => ?_⟩⟩
  · obtain ⟨x, parsed, marker, axes⟩ := State.parked_learnedIn good ranges wear learned room inside
    exact ⟨x, parsed, marker, State.learnedOf_reads axes⟩
  · have store : Memory.wf { s.st with memory := parked }.memory = true := wf
    have marked := StoreCtl.marked_marker (st := { s.st with memory := parked }) store learned room inside
    have sum := StoreCtl.marked_sum (st := { s.st with memory := parked }) store learned room inside
    obtain ⟨x, parsed, marker, axes⟩ := State.learnedIn_of_content ranges wear room sum
      (fun i below => (StoreCtl.marked_content (st := { s.st with memory := parked }) store learned room inside below).trans (content i below))
    exact ⟨x, parsed, by rw [marker, marked]; rfl, State.learnedOf_reads axes⟩
  · have marker := State.cut_marker good learned room inside begun short
    rw [parseLearned_marker room parsed, show off + (len - 2) = off + len - 2 by omega, marker]
    rfl

end Sys2Proof
end
